-- ==== Sys2Proof/Word.lean ====
section
/-! DEFINITION. The plainest words of the model: bytes on a link, the two ports, the two reels, the fault kinds, and
the levels of a line pair. The types stand here because both the commands (Syntax) and the state use them. -/

namespace Sys2Proof

/-- Eight data lines: one byte of a channel link or of the head electronics (R168, R187). -/
abbrev Byte := BitVec 8

/-- The two channel ports, A and B (chapter 9). -/
inductive PortId where
  | a
  | b
  deriving DecidableEq, Repr

/-- The port that is not this one. -/
def PortId.other : PortId → PortId
  | .a => .b
  | .b => .a

/-- The two reels, each with its column (suffixes S and T of the manual's line names). -/
inductive Reel where
  | supply
  | takeup
  deriving DecidableEq, Repr

/-- The two marker lines, MARK-LP and MARK-EOT (R38). -/
inductive Marker where
  | loadPoint
  | eot
  deriving DecidableEq, Repr

/-- The two lines of the drive amplifiers, AMP-RDY and AMP-FLT (R19). -/
inductive DriveLine where
  | ampRdy
  | ampFlt
  deriving DecidableEq, Repr

/-- The seven fault kinds of section 4.1. -/
inductive FaultKind where
  | loopOut
  | reelSaturation
  | tach
  | eotOverrun
  | vacuumLoss
  | drive
  | media
  deriving DecidableEq, Repr

/-- A fault report: its kind, and the column or reel that a LOOP_OUT or a REEL_SATURATION report names (R44, R55). -/
structure FaultReport where
  kind : FaultKind
  reel : Option Reel
  deriving DecidableEq, Repr

/-- The report of a kind that names no reel. -/
def FaultKind.report (k : FaultKind) : FaultReport := { kind := k, reel := none }

/-- The report of a kind at a reel or its column (R44, R55). -/
def FaultKind.reportAt (k : FaultKind) (r : Reel) : FaultReport := { kind := k, reel := some r }

/-- The kinds whose reports name a reel or its column (R44, R55). -/
def FaultKind.namesReel : FaultKind → Bool
  | .loopOut | .reelSaturation => true
  | .tach | .eotOverrun | .vacuumLoss | .drive | .media => false

/-- The levels of a quadrature pair, line A then line B (R34, R46). -/
structure Pair where
  lineA : Bool
  lineB : Bool
  deriving DecidableEq, Repr

/-- Every input line of the part, as levels read at one moment: the fall of RESET (R186, R189). -/
structure Levels where
  online  : Bool
  portbEn : Bool
  deckNum : Nat
  vacS    : Bool
  vacT    : Bool
  ampRdy  : Bool
  ampFlt  : Bool
  ring    : Bool
  ctach   : Pair
  stach   : Pair
  ttach   : Pair
  markLp  : Bool
  markEot : Bool
  loopS   : Nat
  loopT   : Nat
  rdSig   : Bool
  rdMark  : Bool
  linkA   : Bool
  linkB   : Bool
  ciFrmA  : Bool
  ciFrmB  : Bool
  deriving DecidableEq, Repr

/-- Every line at its low level and every bus at 0. -/
def Levels.low : Levels :=
  { online := false, portbEn := false, deckNum := 0, vacS := false, vacT := false, ampRdy := false, ampFlt := false,
    ring := false, ctach := ⟨false, false⟩, stach := ⟨false, false⟩, ttach := ⟨false, false⟩, markLp := false,
    markEot := false, loopS := 0, loopT := 0, rdSig := false, rdMark := false, linkA := false, linkB := false,
    ciFrmA := false, ciFrmB := false }

end Sys2Proof
end

