-- ==== Sys2Proof/Syntax.lean ====
section
/-! DEFINITION. The commands of the block: one constructor for every row of spec/opcode_table.json, in the table's
order. The table gives no operand fields; the operands here are what the rule of the row says the step carries from
outside the part (a level, a byte, a bus reading) or which of two like units it concerns. -/

namespace Sys2Proof

/-- A step of the part (a row of the table of operations and events). -/
inductive Instr where
  /-- R189: the supply monitor holds the part in reset at power-up. -/
  | powerUp
  /-- R189: RESET rises. -/
  | resetRise
  /-- R189: RESET falls, with every input line at the given level. -/
  | resetFall (lv : Levels)
  /-- R23: the 200 µs period expires; LOOP-S and LOOP-T read as given. -/
  | regulationPeriodExpiry (loopS loopT : Nat)
  /-- R37: the report that the stall count has reached 50. -/
  | stallLimit
  /-- R55: the report that a reel's saturation count has reached 100. -/
  | reelSaturationLimit (r : Reel)
  /-- R6: the deck sequencer takes the period report that both loops are formed. -/
  | loopFormComplete
  /-- R11: the deck sequencer takes the period report that both loops are below 64. -/
  | windOffComplete
  /-- R5: the 5 s sequence timer expires. -/
  | vacuumUpTimeout
  /-- R6: the 4 s sequence timer expires. -/
  | loopFormTimeout
  /-- R11: the 6 s sequence timer expires. -/
  | windOffTimeout
  /-- R7: the load-point search's travel has reached 60,000. -/
  | loadPointSearchLimit
  /-- R13: a re-zero pass's travel has reached its limit. -/
  | rezeroTravelLimit
  /-- R16: the 0.5 s flash expires. -/
  | lampFlashExpiry
  /-- R34: CTACH-A, CTACH-B take new levels. -/
  | capstanTachArrival (p : Pair)
  /-- R46: a reel's tach pair takes new levels. -/
  | reelTachArrival (r : Reel) (p : Pair)
  /-- R36: the report that a glitch has brought the count to 8. -/
  | tachGlitchLimit
  /-- R48: a reel's accumulator has reached +1024 or −1024. -/
  | revolutionComplete (r : Reel)
  /-- R38: MARK-LP or MARK-EOT takes a new level. -/
  | markerLineArrival (m : Marker) (level : Bool)
  /-- R39: the load-point marker has been seen over 16 counts of travel. -/
  | loadPointMarkerAccepted
  /-- R40: the EOT marker has been seen over 16 counts of travel. -/
  | eotMarkerAccepted
  /-- R31: the issuer takes the servo's move completion. -/
  | moveCompletion
  /-- R32: the issuer takes the servo's stop completion. -/
  | stopCompletion
  /-- R66: the deck sequencer takes the report that Vc has reached 0 under the fault ramp. -/
  | faultRampZero
  /-- R61: the deck sequencer takes the given fault report. -/
  | faultReport (x : FaultReport)
  /-- R18: VAC-S or VAC-T takes a new level. -/
  | vacuumArrival (r : Reel) (level : Bool)
  /-- R19: AMP-RDY or AMP-FLT takes a new level. -/
  | driveArrival (l : DriveLine) (level : Bool)
  /-- R20: RING takes a new level. -/
  | ringArrival (level : Bool)
  /-- R14: ONLINE takes a new level. -/
  | onlineSwitchArrival (level : Bool)
  /-- R15: the LOAD button is pressed. -/
  | loadButton
  /-- R15: the UNLOAD button is pressed. -/
  | unloadButton
  /-- R145: the REWIND button is pressed. -/
  | rewindButton
  /-- R74: the RESET button is pressed. -/
  | resetButton
  /-- R119: the counter has reached W. -/
  | writeGateOpen
  /-- R119: the counter has reached W + extent. -/
  | writeGateClose
  /-- R117: WR-REQ rises. -/
  | writeByteRequest
  /-- R120: the counter has reached W + extent + 300. -/
  | verifyEndPoint
  /-- R116: RD-SIG rises. -/
  | rdSigRise
  /-- R116: RD-STB rises with a byte on RD-DATA. -/
  | readByteStrobe (v : Byte)
  /-- R116: RD-SIG falls. -/
  | rdSigFall
  /-- R116: the counter has reached the observed start plus 3,100 with RD-SIG still true. -/
  | readBlockLengthLimit
  /-- R126: the counter has reached a read's end point. -/
  | readEndPoint
  /-- R128: the counter has reached the expected start plus 30,300 in a read. -/
  | readBlankTape
  /-- R137: the counter has reached a scanned block's end point. -/
  | scanEndPoint
  /-- R138: the counter has reached the expected start plus 30,300 in a SCAN. -/
  | scanBlankTape
  /-- R170: the ninth header byte is in and the port reads the header. -/
  | frameHeaderComplete (p : PortId)
  /-- R170: CI-STB rises with a byte and its parity level. -/
  | inboundByte (p : PortId) (v : Byte) (parity : Bool)
  /-- R170: CI-FRM falls. -/
  | frameEnd (p : PortId)
  /-- R81: a held WRITE BLOCK is admitted to a slot. -/
  | writeDataAdmitted (p : PortId)
  /-- R172: the take of an error frame. -/
  | frameError (p : PortId)
  /-- R172: the take of a frame whose command code is unknown. -/
  | badCommand (p : PortId)
  /-- R4: the take of a LOAD frame. -/
  | load (p : PortId)
  /-- R157: the take of a READ BLOCK frame. -/
  | readBlock (p : PortId)
  /-- R154: the take of a WRITE BLOCK frame. -/
  | writeBlock (p : PortId)
  /-- R124: the take of a WRITE MARK frame. -/
  | writeMark (p : PortId)
  /-- R141: the take of a SPACE frame. -/
  | space (p : PortId)
  /-- R143: the take of a LOCATE frame. -/
  | locate (p : PortId)
  /-- R144: the take of a REWIND frame. -/
  | rewind (p : PortId)
  /-- R153: the take of an UNLOAD frame. -/
  | unload (p : PortId)
  /-- R148: the take of a PUSH MARK frame. -/
  | pushMark (p : PortId)
  /-- R149: the take of a RETURN TO MARK frame. -/
  | returnToMark (p : PortId)
  /-- R180: the take of a SENSE frame. -/
  | sense (p : PortId)
  /-- R111: the take of a QUERY DIRECTORY frame. -/
  | queryDirectory (p : PortId)
  /-- R155: the take of an ASSIGN WRITER frame. -/
  | assignWriter (p : PortId)
  /-- R156: the take of a RELEASE WRITER frame. -/
  | releaseWriter (p : PortId)
  /-- R179: the take of a SET PORT OPTIONS frame. -/
  | setPortOptions (p : PortId)
  /-- R21: the take of a SET DECK PARAMETERS frame. -/
  | setDeckParameters (p : PortId)
  /-- R178: the take of an ACKNOWLEDGE EVENTS frame. -/
  | acknowledgeEvents (p : PortId)
  /-- R69: the take of a CLEAR FAULT frame. -/
  | clearFault (p : PortId)
  /-- R164: the take of an ABORT frame. -/
  | abort (p : PortId)
  /-- R165: the take of a PORT RESET frame. -/
  | portReset (p : PortId)
  /-- R165: LINK-ACT falls. -/
  | linkLoss (p : PortId)
  /-- R166: LINK-ACT rises. -/
  | linkRestored (p : PortId)
  /-- R175: the last byte of the head record has been passed. -/
  | recordSent (p : PortId)
  /-- R170: CI-FRM rises. -/
  | ciFrmRises (p : PortId)
  /-- R116: RD-MARK takes a new level. -/
  | rdMarkArrival (level : Bool)
  /-- R175: the port may pass the next byte of the head record; SO-RDY reads as given. -/
  | statusByteSent (p : PortId) (soRdy : Bool)
  deriving DecidableEq, Repr

end Sys2Proof
end

