-- ==== Sys2Proof/Decode.lean ====
section
/-! DEFINITION. The commands that a table word spells. The rows of spec/opcode_table.json give no bits: a command reaches
the block as an arrival, an expiry, a threshold or the take of a frame, never as a word. -/

namespace Sys2Proof

/-- The command that `nbits` bits `w` of the table spell: no row has bits, so no word spells a command. -/
def decodeTableWord (_nbits _w : Nat) : Option Instr := none

end Sys2Proof
end

