-- ==== Sys2Proof/Config.lean ====
section
/-! DEFINITION. The fixed quantities of the part, each cited to the rule or table that gives it, and the two free
values of the model: what the spec leaves open and no proof may know. -/

namespace Sys2Proof.Config

/-- The lowest value of the tape position counter (R35). -/
abbrev counterMin : Int := -32768
/-- The highest value of the tape position counter (R35). -/
abbrev counterMax : Int := 33554431
/-- The counter value set at the entry to LOAD_POINT_SEARCH, and the target of REWIND_OUT (R7, R11). -/
abbrev searchStart : Int := -2000
/-- The travel at which a load-point search or a forward re-zero pass fails (R7, R13). -/
abbrev searchLimit : Int := 60000
/-- The travel at which the reverse pass of a re-zero fails (R13). -/
abbrev rezeroLimit : Int := 34000000
/-- The travel over which a marker must be seen before it is accepted (R38). -/
abbrev markerTravel : Nat := 16
/-- How far past the EOT marker a forward count is an overrun (R41). -/
abbrev overrun : Int := 120000
/-- The glitch count that is reported as TACH (R36). -/
abbrev glitchLimit : Nat := 8
/-- The highest glitch count (R36). -/
abbrev glitchMax : Nat := 255
/-- The stall count that is reported as TACH, and its highest value (R37). -/
abbrev stallMax : Nat := 50
/-- The saturation count that is reported, and its highest value (R55). -/
abbrev satMax : Nat := 100
/-- The limit of a reel command (R54). -/
abbrev reelMax : Int := 160
/-- The least pack estimate (R48, R49). -/
abbrev packMin : Int := 12000
/-- The greatest pack estimate (R48, R49). -/
abbrev packMax : Int := 36000
/-- The seed of the supply reel's pack estimate (R5, R49). -/
abbrev packSeedS : Int := 33000
/-- The seed of the take-up reel's pack estimate (R5, R49). -/
abbrev packSeedT : Int := 13500
/-- The largest landing error that is accepted (R31). -/
abbrev landing : Nat := 40
/-- The corrections a landing may take (R31). -/
abbrev maxCorrections : Nat := 3
/-- The rest point of a block lies this far before its start (section 'Tape length and position', R106). -/
abbrev restBefore : Int := 250
/-- The nominal gap between blocks (R113). -/
abbrev gap : Int := 600
/-- The distance of the read head from the write head (R113). -/
abbrev headGap : Int := 300
/-- The expected start of block 0 (R113, R114). -/
abbrev firstStart : Int := 3000
/-- How much farther down the tape each retry of a write begins (R118, R122). -/
abbrev retryShift : Int := 1200
/-- The travel past the expected start at which a read or a SCAN meets blank tape (R128, R138). -/
abbrev blankAfter : Int := 30300
/-- The travel past the observed start at which a block is taken as ended (R116). -/
abbrev lengthLimit : Int := 3100
/-- The extent of a tape mark (R113). -/
abbrev markExtent : Int := 300
/-- The largest number of data bytes of a block (R113). -/
abbrev maxBytes : Nat := 16384
/-- The received bytes that are kept (R116). -/
abbrev keptBytes : Nat := 16388
/-- One more than the largest block number; the largest next-block number (section 'Block numbers and tape geometry'). -/
abbrev blockLimit : Nat := 1048576
/-- The most entries the directory holds (R97). -/
abbrev maxEntries : Nat := 4096
/-- The largest stride (R98). -/
abbrev maxStride : Nat := 256
/-- The difference above which a re-traversal replaces an entry's start (R103). -/
abbrev startMargin : Int := 200
/-- The most slots a port may charge to itself (R80). -/
abbrev maxCharge : Nat := 8
/-- The most records a port may owe (R152). -/
abbrev maxRecords : Nat := 8
/-- The most operations in a port's queue (R150). -/
abbrev maxOps : Nat := 4
/-- The most marks on a port's stack (R147). -/
abbrev maxMarks : Nat := 4
/-- The highest chain run length (R159). -/
abbrev maxChain : Nat := 16
/-- The most automatic clears in one load (R75). -/
abbrev maxAutoClear : Nat := 4

/-- FREE VALUE (its form a DESIGN CHOICE; safe). Where the spec lets either of two things of one event be taken first (R88, R157, R158), the n-th such
choice the machine makes. No body: every claim holds whichever way it falls. See notes/assumptions/3.md. -/
opaque eitherFirst : Nat → Bool

/-- FREE VALUE (its form a DESIGN CHOICE; safe). A byte of a SENSE record whose field is absent and for whose absence Table 10-6 gives no value (R180).
See notes/assumptions/4.md. -/
opaque unstatedByte : Nat → Byte

end Sys2Proof.Config
end

