-- ==== Sys2Proof/Machine/State.lean ====
section
/-! DEFINITION. The state of the part, block by block as the manual divides it (section 'The seven blocks'), the
reasons a step can stop, and the state right after reset. Plain data only. -/

namespace Sys2Proof.Machine

/-! ## Deck Sequencer (chapters 1 and 4) -/

/-- Deck state with its substate (R3). -/
inductive Deck where
  | unloaded
  | vacuumUp
  | loopForm
  | loadPointSearch
  | rezero
  | ready
  | rewindOut
  | windOff
  | faultStop
  | faultedSoft
  | faultedHard
  deriving DecidableEq, Repr

/-- The check kind of the deck parameters (R21, R115). -/
inductive CheckKind where
  | k16
  | k32
  deriving DecidableEq, Repr

/-- The deck parameters (R21). -/
structure Params where
  gain       : Nat
  check      : CheckKind
  retryLimit : Nat
  failLimit  : Nat
  autoClear  : Bool
  deriving DecidableEq, Repr

/-- The power-on values of the deck parameters (R21). -/
def Params.powerOn : Params := { gain := 6, check := .k32, retryLimit := 8, failLimit := 24, autoClear := false }

/-- What the one sequence timer is timing, when it runs: 5 s of VACUUM_UP, 4 s of LOOP_FORM, 6 s of WIND_OFF. -/
inductive SeqTimer where
  | vacuumUp
  | loopForm
  | windOff
  deriving DecidableEq, Repr

/-- The marker searches of the deck sequencer (R7, R12). -/
inductive SearchPass where
  | load
  | rezeroReverse
  | rezeroForward
  deriving DecidableEq, Repr

/-- How far a marker search has come: running, or stopping after the acceptance or after the travel limit. -/
inductive SearchStatus where
  | running
  | accepted
  | failed
  deriving DecidableEq, Repr

/-- A marker search. -/
structure Search where
  pass   : SearchPass
  status : SearchStatus
  deriving DecidableEq, Repr

/-- The Deck Sequencer (DSQ). -/
structure Dsq where
  deck         : Deck
  faultKind    : Option FaultKind
  escKind      : Option FaultKind
  resume       : Option Deck
  autoCount    : Nat
  writeEnable  : Bool
  online       : Bool
  portbEn      : Bool
  deckNum      : Nat
  params       : Params
  timer        : Option SeqTimer
  searchTravel : Int
  search       : Option Search
  /-- The phase of the 0.5 s flash (R16): true while a flashing lamp is lit. -/
  flash        : Bool
  vacS         : Bool
  vacT         : Bool
  ampRdy       : Bool
  ampFlt       : Bool
  ring         : Bool
  /-- Fault reports made and not yet taken by the deck sequencer, oldest first (R61). -/
  faults       : List FaultReport
  deriving DecidableEq, Repr

/-! ## Transport Servo (chapters 2 and 3) -/

/-- The three speed classes. -/
inductive Speed where
  | creep
  | normal
  | fast
  deriving DecidableEq, Repr

/-- The block that gave an order and takes its completion (R24). -/
inductive Issuer where
  | engine
  | deck
  deriving DecidableEq, Repr

/-- The move record (R28). -/
structure MoveRec where
  target  : Int
  forward : Bool
  speed   : Speed
  latch   : Bool
  deriving DecidableEq, Repr

/-- The order in force (R24). A STOP that replaced a FAST order carries the class FAST (R25). -/
inductive Order where
  | none
  | move (m : MoveRec) (i : Issuer)
  | run (c : Speed) (forward : Bool) (i : Issuer)
  | stop (fast : Bool) (i : Issuer)
  | faultRamp
  deriving DecidableEq, Repr

/-- A completion the servo has reported and its issuer has not yet taken (R30, R32, R33). -/
inductive Completion where
  | moveDone (i : Issuer) (e : Int)
  | stopDone (i : Issuer)
  | rampZero
  deriving DecidableEq, Repr

/-- The sighting state of a marker line (R38). -/
inductive Sighting where
  | clear
  | seeing (first : Int) (travel : Nat)
  | accepted
  deriving DecidableEq, Repr

/-- The command mode of a reel (R51). -/
inductive ReelMode where
  | zero
  | forming
  | regulated
  | fixed
  deriving DecidableEq, Repr

/-- One reel's side of the servo (chapter 3). -/
structure ReelState where
  pack     : Int
  acc      : Int
  capSnap  : Int
  loopSnap : Nat
  last     : Pair
  loop     : Nat
  /-- The loop-out latch: true is OUT (R44). -/
  latchOut : Bool
  cmd      : Int
  mode     : ReelMode
  /-- The reel's revolution measurement runs: it came under regulation at an expiry and has stayed there (R47). -/
  measuring : Bool
  satFlag  : Bool
  satCount : Nat
  /-- The count has reached 100 in a detecting deck state, and the step that reports it has not been taken (R55). -/
  satDue   : Bool
  deriving DecidableEq, Repr

/-- The Transport Servo (TSV). -/
structure Tsv where
  vc           : Int
  target       : Int
  step         : Int
  order        : Order
  /-- Vc during the period that is running: the value set at the last expiry (R37). -/
  vcPeriod     : Int
  counter      : Int
  tally        : Int
  /-- Whether the running period has a decoded count (R37). -/
  counted      : Bool
  glitches     : Nat
  stall        : Nat
  lastPair     : Pair
  lpLine       : Bool
  eotLine      : Bool
  lp           : Sighting
  eot          : Sighting
  eotPassed    : Bool
  eotPos       : Option Int
  supply       : ReelState
  takeup       : ReelState
  /-- What the amplifiers hold: the values last presented (R185). -/
  capCmd       : BitVec 12
  srlCmd       : BitVec 9
  trlCmd       : BitVec 9
  /-- The rises of CMD-STB since the power-on reset (R185). -/
  strobes      : Nat
  /-- A completion reported and not yet taken (DESIGN CHOICE, unsafe: notes/assumptions/1.md, as are all the items of
  this block that wait to be taken). -/
  report       : Option Completion
  /-- The window report of the last expiry in LOOP_FORM or WIND_OFF (R45). -/
  windowReport : Bool
  /-- The stall count has reached 50 in a detecting deck state, and the step that reports it has not been taken (R37). -/
  stallDue     : Bool
  /-- A glitch has brought the count to 8 in a detecting deck state, and the step that reports it has not been taken (R36). -/
  glitchDue    : Bool
  /-- The load-point marker has been seen over 16 counts, last one forward or reverse; R39 not yet applied. -/
  lpDue        : Option Bool
  /-- The EOT marker has been seen over 16 counts, last one forward or reverse, from this first sighting; R40 not yet
  applied. -/
  eotDue       : Option (Bool × Int)
  deriving DecidableEq, Repr

/-! ## Block Buffer (chapter 5) -/

/-- The states of a slot (R78). -/
inductive SlotState where
  | free
  | filling
  | pending
  | writing
  | reading
  | delivering
  | cached
  deriving DecidableEq, Repr

/-- A slot (R77). The fill count of a FILLING slot is the length of its data. -/
structure Slot where
  state   : SlotState
  owner   : Option PortId
  block   : Option Nat
  len     : Nat
  tag     : Byte
  pins    : Nat
  /-- The disposal: true is DISCARD. -/
  discard : Bool
  data    : List Byte
  deriving DecidableEq, Repr

/-- A FREE slot, every other field absent (R94). -/
def Slot.freed : Slot :=
  { state := .free, owner := none, block := none, len := 0, tag := 0, pins := 0, discard := false, data := [] }

/-- The Block Buffer (BBF): sixteen slots and the cache list, least recently used first. -/
structure Bbf where
  slots : List Slot
  cache : List Nat
  deriving DecidableEq, Repr

/-! ## Block Directory (chapter 6) -/

/-- A directory entry (R96). -/
structure Entry where
  num    : Nat
  start  : Int
  extent : Int
  len    : Nat
  mark   : Bool
  failed : Bool
  deriving DecidableEq, Repr

/-- The Block Directory (BDR). -/
structure Bdr where
  entries : List Entry
  stride  : Nat
  known   : Int
  eod     : Option Nat
  deriving DecidableEq, Repr

/-- The directory after a clearing (R110). -/
def Bdr.cleared : Bdr := { entries := [], stride := 1, known := -1, eod := none }

/-! ## Ports (chapters 9 and 10) -/

/-- The commands of Table 10-3. -/
inductive Cmd where
  | load
  | readBlock
  | writeBlock
  | writeMark
  | space
  | locate
  | rewind
  | unload
  | pushMark
  | returnToMark
  | sense
  | queryDirectory
  | assignWriter
  | releaseWriter
  | setPortOptions
  | setDeckParameters
  | acknowledgeEvents
  | clearFault
  | abort
  | portReset
  deriving DecidableEq, Repr

/-- The completion codes of Table 10-4. -/
inductive Code where
  | ok
  | okEot
  | badCommand
  | badParameter
  | frameError
  | wrongState
  | offline
  | notWriter
  | writerBusy
  | writeProtected
  | otherPortActive
  | deferredError
  | markStackEmpty
  | tapeMark
  | endOfData
  | blankTape
  | readCheckFailed
  | writeCheckFailed
  | positioningFailed
  | loadFailed
  | cancelled
  | faultAborted
  | conditionPersists
  deriving DecidableEq, Repr

/-- The event kinds of Table 10-5. -/
inductive EventKind where
  | deckReady
  | deckNotReady
  | faultStopBegun
  | faultCleared
  | onlineChanged
  | writerChanged
  | positionClamped
  | eotPassed
  | deferredErrorSet
  deriving DecidableEq, Repr

/-- A set of event kinds, as the low nine bits of its 32-bit field (Table 10-5). -/
abbrev EventSet := BitVec 9

/-- A queued operation (R151). -/
structure Op where
  cmd     : Cmd
  tag     : Byte
  param   : Int
  chain   : Bool
  owed    : Bool
  block   : Option Nat
  slot    : Option Nat
  granted : Bool
  deriving DecidableEq, Repr

/-- The header fields of a record that are filled at the end of the event that places it (R174): header byte 4, the
flags, and the port's next-block number. -/
structure Stamp where
  deckByte : Byte
  flags    : Byte
  next     : Nat
  deriving DecidableEq, Repr

/-- The record kinds (Table 10-2). -/
inductive RecKind where
  | complete
  | data
  | event
  deriving DecidableEq, Repr

/-- What follows a record's header: bytes fixed at its placement, or the bytes of a DELIVERING slot, or of a CACHED
slot that the record pins (R174). -/
inductive Payload where
  | bytes (l : List Byte)
  | delivering (slot : Nat) (len : Nat)
  | pinned (slot : Nat) (len : Nat)
  deriving DecidableEq, Repr

/-- A status record (R174). -/
structure Rec where
  kind    : RecKind
  tag     : Byte
  cmd     : Byte
  code    : Code
  detail  : Nat
  payload : Payload
  /-- `none` until the event that places the record ends. -/
  stamp   : Option Stamp
  deriving DecidableEq, Repr

/-- The receive states (R170). -/
inductive RxState where
  | idle
  | header
  | held
  | data
  | drain
  | ended
  deriving DecidableEq, Repr

/-- The frame in progress at a port: its receive state, the header bytes received, whether the header has been read,
whether the frame is an error frame, and its FILLING slot. -/
structure Rx where
  state : RxState
  bytes : List Byte
  isRead : Bool
  bad   : Bool
  slot  : Option Nat
  deriving DecidableEq, Repr

/-- No frame in progress. -/
def Rx.none : Rx := { state := .idle, bytes := [], isRead := false, bad := false, slot := Option.none }

/-- How a port's writes are answered (R150, R154). -/
inductive WriteMode where
  | verified
  | buffered
  deriving DecidableEq, Repr

/-- A channel port: its context (R150), its frame in progress and its outbound lines (R168). -/
structure Port where
  next      : Nat
  queue     : List Op
  status    : List Rec
  marks     : List Nat
  overflow  : Bool
  mode      : WriteMode
  mask      : EventSet
  pendingEv : EventSet
  hold      : Bool
  deferred  : Option Nat
  rx        : Rx
  linkAct   : Bool
  ciFrm     : Bool
  soRdy     : Bool
  soFrm     : Bool
  soData    : Byte
  soPar     : Bool
  /-- How many bytes of the head record have been passed. -/
  sent      : Nat
  deriving DecidableEq, Repr

/-- The context of a port at power-on (R150, R184), with its link lines low. -/
def Port.powerOn : Port :=
  { next := 0, queue := [], status := [], marks := [], overflow := false, mode := .verified,
    mask := BitVec.allOnes 9, pendingEv := 0, hold := false, deferred := none, rx := Rx.none,
    linkAct := false, ciFrm := false, soRdy := false, soFrm := false, soData := 0, soPar := false, sent := 0 }

/-! ## Port Arbiter (chapter 9) -/

/-- The Port Arbiter (ARB). -/
structure Arb where
  holder    : Option PortId
  lastServed : PortId
  chainRun  : Nat
  /-- Whether the holder's last granted operation carried CHAIN (R159). -/
  lastChain : Bool
  writer    : Option PortId
  deriving DecidableEq, Repr

/-- The arbiter at power-on (R155, R158). -/
def Arb.powerOn : Arb := { holder := none, lastServed := .b, chainRun := 0, lastChain := false, writer := none }

/-! ## Operation Engine (chapters 7 and 8) -/

/-- The phases of the engine (Table 10-6, byte 49). -/
inductive Phase where
  | idle
  | move
  | scan
  | run
  | transfer
  | verify
  | stop
  deriving DecidableEq, Repr

/-- Whose operation the engine executes (R145, R151). -/
inductive Actor where
  | port (p : PortId)
  | panel
  deriving DecidableEq, Repr

/-- The way a positioning goes, fixed when it begins, with the position its landing takes from (R135, R136). -/
inductive Way where
  | exact (start : Int)
  | afterEod (endPos : Int)
  | lower (e : Nat) (start : Int)
  | loadPoint
  deriving DecidableEq, Repr

/-- What the executing operation is doing. -/
inductive Stage where
  /-- A LOAD or UNLOAD held while the deck sequencer works (R4, R10). -/
  | deck
  /-- The MOVE of a positioning (R135). -/
  | positioning (w : Way)
  /-- The SCAN of a positioning (R137). -/
  | scanning
  /-- A forward SPACE crossing blocks (R141). -/
  | crossing
  /-- RUN, TRANSFER or VERIFY of a write (R118 to R120). -/
  | writing
  /-- RUN or TRANSFER of a read (R125). -/
  | reading
  /-- The STOP before the move back of a retry (R122, R127). -/
  | retryStop
  /-- The move back of a retry. -/
  | retryMove
  /-- The STOP after blank tape; whether it was met in a SCAN (R128, R138). -/
  | blankStop (inScan : Bool)
  /-- The move back after blank tape. -/
  | blankMove (inScan : Bool)
  /-- The STOP of an abort notice (R146). -/
  | abortStop
  /-- The move of a REWIND or panel rewind (R144, R145). -/
  | rewinding
  /-- Held in STOP until the notice of fault stop, the failure limit having been reached (R129). -/
  | mediaHold
  deriving DecidableEq, Repr

/-- An operation the engine executes, or has been granted at an end point and has not begun (R130). -/
structure Job where
  actor      : Actor
  op         : Op
  /-- The block the operation names: a write's block, else the port's next-block number at the grant (R139). -/
  n          : Nat
  orphan     : Bool
  aborted    : Bool
  stage      : Stage
  /-- The block positioning goes to (R135). -/
  goal       : Nat
  /-- The target of the move in force, to which a correction returns (R31). -/
  moveTarget : Int
  /-- The blocks a forward SPACE has crossed (R141). -/
  crossed    : Nat
  /-- LOCATE: the outcome fixed at the grant is END_OF_DATA (R143). -/
  toEod      : Bool
  deriving DecidableEq, Repr

/-- The block being seen at the read head (R116). -/
structure Seen where
  /-- The rises of RD-SIG since the engine began to look. -/
  rises   : Nat
  start   : Int
  /-- The bytes kept, at most 16,388. -/
  bytes   : List Byte
  /-- The bytes counted. -/
  count   : Nat
  mark    : Bool
  /-- The counter at the fall of RD-SIG, or at the length limit. -/
  endAt   : Option Int
  /-- The block was taken as ended at the length limit. -/
  limited : Bool
  deriving DecidableEq, Repr

/-- Nothing seen yet. -/
def Seen.nothing : Seen := { rises := 0, start := 0, bytes := [], count := 0, mark := false, endAt := none, limited := false }

/-- The Operation Engine (OPE). -/
structure Ope where
  phase       : Phase
  job         : Option Job
  /-- The operation granted at an end point and not yet begun (R130). -/
  waiting     : Option Job
  /-- The last operation has ended with the tape running and the arbiter's choice is still to be made: set only inside
  an event (R130). -/
  asking      : Bool
  attempt     : Nat
  corrections : Nat
  deckNext    : Nat
  posValid    : Bool
  expStart    : Int
  failCount   : Nat
  eotLatch    : Bool
  /-- The write start W (R118). -/
  w           : Int
  seen        : Seen
  /-- The bytes handed to the write electronics since the gate was raised, in order (R117). -/
  handed      : List Byte
  wrErase     : Bool
  wrGate      : Bool
  wrMark      : Bool
  wrData      : Byte
  rdSig       : Bool
  rdMark      : Bool
  deriving DecidableEq, Repr

/-- The engine at power-on (R114, R117, R134). -/
def Ope.powerOn : Ope :=
  { phase := .idle, job := none, waiting := none, asking := false, attempt := 0, corrections := 0, deckNext := 0,
    posValid := false, expStart := Config.firstStart, failCount := 0, eotLatch := false, w := 0, seen := Seen.nothing,
    handed := [], wrErase := false, wrGate := false, wrMark := false, wrData := 0, rdSig := false, rdMark := false }

/-! ## The whole part -/

/-- The state of the part. -/
structure State where
  dsq     : Dsq
  tsv     : Tsv
  ope     : Ope
  arb     : Arb
  bbf     : Bbf
  bdr     : Bdr
  portA   : Port
  portB   : Port
  /-- RESET is true, or the supply monitor holds the part in reset (R189). -/
  inReset : Bool
  /-- The MODEL's own: how many free values have been drawn (DESIGN CHOICE, safe: notes/assumptions/3.md). -/
  draws   : Nat
  /-- The MODEL's own: the commands that wait, first in, first out. -/
  pending : List Instr
  deriving DecidableEq, Repr

/-- The reasons a step stops with a fault. There are none: every fault of the manual is a state the part goes on
from (chapter 4), and no command of the table is one the spec gives no effect. -/
inductive Fault where
  deriving DecidableEq, Repr

/-- The reasons a step is refused. -/
inductive Refusal where
  /-- Raised only by an arm of `exec` that has no meaning yet; no arm of this model raises it. Safe. -/
  | notModelled (mnemonic : String)
  deriving DecidableEq, Repr

/-! ## Reset -/

/-- A marker line at the moment its sighting state is set to CLEAR: a line that is true is taken as going true then
(R38). -/
def Sighting.fresh (line : Bool) (counter : Int) : Sighting := if line then .seeing counter 0 else .clear

/-- A reel at power-on: its seed, and its pair and loop reading as sampled (R60). -/
def ReelState.powerOn (seed : Int) (p : Pair) (loop : Nat) : ReelState :=
  { pack := seed, acc := 0, capSnap := 0, loopSnap := loop, last := p, loop := loop, latchOut := false, cmd := 0,
    mode := .zero, measuring := false, satFlag := false, satCount := 0, satDue := false }

/-- Every block at its power-on values, the input lines as given (R22, R42, R60, R94, R110, R114, R150, R184, R189). -/
def State.powerOn (lv : Levels) : State :=
  { dsq :=
      { deck := .unloaded, faultKind := none, escKind := none, resume := none, autoCount := 0, writeEnable := false,
        online := lv.online, portbEn := lv.portbEn, deckNum := lv.deckNum % 16, params := Params.powerOn, timer := none,
        searchTravel := 0, search := none, flash := false, vacS := lv.vacS, vacT := lv.vacT, ampRdy := lv.ampRdy,
        ampFlt := lv.ampFlt, ring := lv.ring, faults := [] }
    tsv :=
      { vc := 0, target := 0, step := 80, order := .none, vcPeriod := 0, counter := 0, tally := 0, counted := false,
        glitches := 0, stall := 0, lastPair := lv.ctach, lpLine := lv.markLp, eotLine := lv.markEot,
        lp := Sighting.fresh lv.markLp 0, eot := Sighting.fresh lv.markEot 0, eotPassed := false, eotPos := none,
        supply := ReelState.powerOn Config.packSeedS lv.stach (lv.loopS % 1024),
        takeup := ReelState.powerOn Config.packSeedT lv.ttach (lv.loopT % 1024),
        capCmd := 0, srlCmd := 0, trlCmd := 0, strobes := 0, report := none, windowReport := false, stallDue := false,
        glitchDue := false, lpDue := none, eotDue := none }
    ope := { Ope.powerOn with rdSig := lv.rdSig, rdMark := lv.rdMark }
    arb := Arb.powerOn
    bbf := { slots := List.replicate 16 Slot.freed, cache := [] }
    bdr := Bdr.cleared
    portA := { Port.powerOn with linkAct := lv.linkA, ciFrm := lv.ciFrmA }
    portB := { Port.powerOn with linkAct := lv.linkB, ciFrm := lv.ciFrmB }
    inReset := false
    draws := 0
    pending := [] }

/-- The part right after reset: RESET has fallen with every input line low, and the servo has presented the zero
commands once (R185, R189). The levels of the lines are the model's choice
(DESIGN CHOICE, unsafe: notes/assumptions/2.md), and so are the values of the items no rule gives one (DESIGN CHOICE,
unsafe: notes/assumptions/8.md, notes/assumptions/9.md). -/
def State.reset : State :=
  { State.powerOn Levels.low with tsv := { (State.powerOn Levels.low).tsv with strobes := 1 } }

end Sys2Proof.Machine
end

