-- ==== Sys2Proof/Machine/Arith.lean ====
section
/-! DEFINITION. The arithmetic of the manual that stands on numbers alone: rounding (R1), the capstan step and stop
distance (R25 to R27), the speed classes (R28), the decoding of a quadrature pair (R34), the reel command (R52 to R54),
the pack estimate (R48, R49), block extents (R113) and the check fields (R115). -/

namespace Sys2Proof.Machine

/-- RNA of `n / d`: to the nearest integer, ties away from zero (R1). -/
def rna (n : Int) (d : Nat) : Int :=
  if 0 ≤ n then (2 * n + d) / (2 * d) else -((2 * (-n) + d) / (2 * d))

/-- `x` limited to the range `lo` to `hi`. -/
def limit (lo hi x : Int) : Int := max lo (min hi x)

/-- A natural number limited to a range. -/
def limitNat (lo hi x : Nat) : Nat := max lo (min hi x)

/-! ## The capstan -/

/-- The class value of a speed class, in sixteenths of a count per period (section 'Capstan command and speed
classes'). -/
def Speed.value : Speed → Int
  | .creep => 64
  | .normal => 400
  | .fast => 1280

/-- A class value with the sign of its direction: forward is positive. -/
def signed (forward : Bool) (v : Int) : Int := if forward then v else -v

/-- The speed class of a move from its distance at the take (R28). -/
def classOf (d : Int) : Speed := if 20000 ≤ d then .fast else if 400 ≤ d then .normal else .creep

/-- Whether an order carries the class FAST for the choice of the step (R25). -/
def Order.isFast : Order → Bool
  | .move m _ => m.speed = .fast
  | .run c _ _ => c = .fast
  | .stop f _ => f
  | .none => false
  | .faultRamp => false

/-- The step A at an expiry (R25). -/
def stepFor (o : Order) (vc target : Int) : Int :=
  if o = .faultRamp then 160
  else if o.isFast || 400 < vc.natAbs || 400 < target.natAbs then 16
  else 80

/-- Vc after one step toward the target, without the hold (R26). -/
def rawStep (vc target a : Int) : Int :=
  if (target - vc).natAbs ≤ a.natAbs then target else if vc < target then vc + a else vc - a

/-- Vc after one step, under the capstan hold when `hold` (R26). -/
def stepVc (vc target a : Int) (hold : Bool) : Int :=
  let raw := rawStep vc target a
  if hold then
    if (0 < vc ∧ raw < 0) ∨ (vc < 0 ∧ 0 < raw) then 0
    else if vc.natAbs < raw.natAbs then vc else raw
  else raw

/-- The sum of the velocities after the first `j` steps of braking from `v` by `a` (R27). -/
def brakeSum (v a : Nat) : Nat → Nat
  | 0 => 0
  | j + 1 => brakeSum v a j + (v - (j + 1) * a)

/-- The stop distance Dstop(V, A) in counts, rounded up (R27). -/
def dstop (v a : Nat) : Nat := (brakeSum v a (v / a) + 15) / 16

/-! ## Quadrature pairs -/

/-- What an arrival on a quadrature pair means (R34). -/
inductive Turn where
  | forward
  | reverse
  | same
  | glitch
  deriving DecidableEq, Repr

/-- The pair that follows in forward order: 00 to 10, 10 to 11, 11 to 01, 01 to 00 (R34). -/
def pairForward (p : Pair) : Pair := ⟨!p.lineB, p.lineA⟩

/-- The pair that follows in reverse order (R34). -/
def pairReverse (p : Pair) : Pair := ⟨p.lineB, !p.lineA⟩

/-- The decoding of a new level pair against the last (R34, R46). -/
def decodeTurn (last new : Pair) : Turn :=
  if new = last then .same
  else if new = pairForward last then .forward
  else if new = pairReverse last then .reverse
  else .glitch

/-- The position counter after one decoded count: it holds at its limits (R35). -/
def countOn (counter : Int) (forward : Bool) : Int :=
  if forward then min Config.counterMax (counter + 1) else max Config.counterMin (counter - 1)

/-! ## The reels -/

/-- The loop reading the ten lines of a loop bus give (R186). -/
def loopSample (n : Nat) : Nat := n % 1024

/-- The loop error E (R43). -/
def loopError (l : Nat) : Int := (l : Int) - 512

/-- A loop reading in range, neither short nor long enough to be out (R44). -/
def loopInRange (l : Nat) : Bool := 64 ≤ l && l ≤ 960

/-- A loop reading in the forming window (R6, R45). -/
def loopFormed (l : Nat) : Bool := 448 ≤ l && l ≤ 576

/-- The feed-forward part of a regulated command (R52). -/
def feedForward (r : Reel) (vc pack : Int) : Int :=
  match r with
  | .supply => rna (vc * 1024) pack.natAbs
  | .takeup => -(rna (vc * 1024) pack.natAbs)

/-- The correction part of a regulated command (R53). -/
def correction (gain : Nat) (l : Nat) : Int := -(rna (gain * loopError l) 64)

/-- The sum FF + C before the limit (R54). -/
def commandSum (r : Reel) (vc pack : Int) (gain l : Nat) : Int := feedForward r vc pack + correction gain l

/-- The limit of a regulated command (R54). -/
def limitCommand (x : Int) : Int := limit (-Config.reelMax) Config.reelMax x

/-- The measured pack of a revolution, limited (R48). -/
def measuredPack (r : Reel) (dCap dLoop : Int) : Int :=
  limit Config.packMin Config.packMax
    (match r with
     | .supply => (dCap + 20 * dLoop).natAbs
     | .takeup => (dCap - 20 * dLoop).natAbs)

/-- The pack estimate after a revolution that measured `m` (R49). -/
def newPack (p m : Int) : Int := p + rna (m - p) 4

/-! ## Blocks on tape -/

/-- The extent of a data block of `l` bytes (R113). -/
def dataExtent (l : Nat) : Int := 120 + ((4 * l + 24) / 25 : Nat)

/-! ## Check fields -/

/-- One bit entering the division: the register shifts up, and takes the divisor when the bit that leaves differs from
the bit that enters (R115). -/
def feedBit {w : Nat} (divisor c : BitVec w) (bit : Bool) : BitVec w :=
  if c.msb != bit then (c <<< 1) ^^^ divisor else c <<< 1

/-- The bits of a byte, most significant first. -/
def bitsDown (v : Byte) : List Bool := [v[7], v[6], v[5], v[4], v[3], v[2], v[1], v[0]]

/-- The bits of a byte, least significant first. -/
def bitsUp (v : Byte) : List Bool := [v[0], v[1], v[2], v[3], v[4], v[5], v[6], v[7]]

/-- The check value of kind 16: divisor x^16 + x^12 + x^5 + 1, register starting at all ones (R115). -/
def check16 (l : List Byte) : BitVec 16 :=
  l.foldl (fun c v => (bitsDown v).foldl (feedBit 0x1021#16) c) 0xFFFF#16

/-- The remainder of kind 32, before its final step (R115). -/
def remainder32 (l : List Byte) : BitVec 32 :=
  l.foldl (fun c v => (bitsUp v).foldl (feedBit 0x04C11DB7#32) c) 0xFFFFFFFF#32

/-- The check value of kind 32: the remainder reflected, then inverted (R115). -/
def check32 (l : List Byte) : BitVec 32 := ~~~ (remainder32 l).reverse

/-- The number of bytes of the check field (R113). -/
def CheckKind.size : CheckKind → Nat
  | .k16 => 2
  | .k32 => 4

/-- The check field as recorded: kind 16 most significant byte first, kind 32 least significant byte first (R115). -/
def checkField (k : CheckKind) (l : List Byte) : List Byte :=
  match k with
  | .k16 => let c := check16 l; [c.extractLsb' 8 8, c.extractLsb' 0 8]
  | .k32 => let c := check32 l; [c.extractLsb' 0 8, c.extractLsb' 8 8, c.extractLsb' 16 8, c.extractLsb' 24 8]

/-- The bytes the engine hands to the write electronics for a data block: its data, then its check field (R117). -/
def writtenBytes (k : CheckKind) (l : List Byte) : List Byte := l ++ checkField k l

end Sys2Proof.Machine
end

