-- ==== Sys2Proof/Machine/Operands.lean ====
section
/-! DEFINITION. What a command frame carries and what a status record spells: the byte order of multi-byte fields, the
nine-byte frame header and its encoder (Table 10-1), the command codes and completion codes (Tables 10-3 and 10-4), and
the parameter fields with their clamping (R173). -/

namespace Sys2Proof.Machine

/-- The low `n` bytes of a number, most significant first (section 'Link byte order'). -/
def beBytes : Nat → Nat → List Byte
  | 0, _ => []
  | n + 1, x => BitVec.ofNat 8 (x / 256 ^ n) :: beBytes n x

/-- An integer in two's complement over `n` bytes, most significant first. -/
def beInt (n : Nat) (x : Int) : List Byte := beBytes n (x % (256 ^ n : Nat)).toNat

/-- The number that bytes spell, most significant first. -/
def ofBytes (l : List Byte) : Nat := l.foldl (fun n v => n * 256 + v.toNat) 0

/-! ## Codes -/

/-- The command code of a command (Table 10-3). -/
def Cmd.code : Cmd → Byte
  | .load => 0x01 | .readBlock => 0x02 | .writeBlock => 0x03 | .writeMark => 0x04 | .space => 0x05
  | .locate => 0x06 | .rewind => 0x07 | .unload => 0x08 | .pushMark => 0x09 | .returnToMark => 0x0A
  | .sense => 0x10 | .queryDirectory => 0x11 | .assignWriter => 0x12 | .releaseWriter => 0x13
  | .setPortOptions => 0x14 | .setDeckParameters => 0x15 | .acknowledgeEvents => 0x16 | .clearFault => 0x17
  | .abort => 0x18 | .portReset => 0x19

/-- The commands in the order of Table 10-3. -/
def Cmd.all : List Cmd :=
  [.load, .readBlock, .writeBlock, .writeMark, .space, .locate, .rewind, .unload, .pushMark, .returnToMark, .sense,
   .queryDirectory, .assignWriter, .releaseWriter, .setPortOptions, .setDeckParameters, .acknowledgeEvents,
   .clearFault, .abort, .portReset]

/-- The command a code names; `none` for a code that is not in Table 10-3 (R172). -/
def Cmd.ofCode (v : Byte) : Option Cmd := Cmd.all.find? (fun c => c.code = v)

/-- The queued operations (Table 10-3). -/
def Cmd.isQueued : Cmd → Bool
  | .load | .readBlock | .writeBlock | .writeMark | .space | .locate | .rewind | .unload | .pushMark | .returnToMark =>
    true
  | _ => false

/-- The motion operations (R151). -/
def Cmd.isMotion : Cmd → Bool
  | .load | .readBlock | .writeBlock | .writeMark | .space | .locate | .rewind | .unload => true
  | _ => false

/-- The writes (R65). -/
def Cmd.isWrite : Cmd → Bool
  | .writeBlock | .writeMark => true
  | _ => false

/-- The completion codes (Table 10-4). -/
def Code.byte : Code → Byte
  | .ok => 0x00 | .okEot => 0x01 | .badCommand => 0x10 | .badParameter => 0x11 | .frameError => 0x12
  | .wrongState => 0x13 | .offline => 0x14 | .notWriter => 0x15 | .writerBusy => 0x16 | .writeProtected => 0x17
  | .otherPortActive => 0x18 | .deferredError => 0x19 | .markStackEmpty => 0x1A | .tapeMark => 0x20
  | .endOfData => 0x21 | .blankTape => 0x22 | .readCheckFailed => 0x23 | .writeCheckFailed => 0x24
  | .positioningFailed => 0x25 | .loadFailed => 0x26 | .cancelled => 0x27 | .faultAborted => 0x28
  | .conditionPersists => 0x29

/-! ## The frame header -/

/-- A command frame header (Table 10-1). -/
structure Hdr where
  code  : Byte
  tag   : Byte
  flags : Byte
  param : BitVec 32
  len   : BitVec 16
  deriving DecidableEq, Repr

/-- The header that nine bytes spell; a byte not received reads as 0 (Table 10-1, R171). -/
def Hdr.parse (l : List Byte) : Hdr :=
  { code := l.getD 0 0
    tag := l.getD 1 0
    flags := l.getD 2 0
    param := l.getD 3 0 ++ l.getD 4 0 ++ l.getD 5 0 ++ l.getD 6 0
    len := l.getD 7 0 ++ l.getD 8 0 }

/-- The nine bytes of a header (Table 10-1). -/
def Hdr.encode (h : Hdr) : List Byte :=
  [h.code, h.tag, h.flags,
   h.param.extractLsb' 24 8, h.param.extractLsb' 16 8, h.param.extractLsb' 8 8, h.param.extractLsb' 0 8,
   h.len.extractLsb' 8 8, h.len.extractLsb' 0 8]

/-- The command the header names. -/
def Hdr.cmd (h : Hdr) : Option Cmd := Cmd.ofCode h.code

/-- The CHAIN flag: bit 0 of the flags (Table 10-1). -/
def Hdr.chain (h : Hdr) : Bool := h.flags[0]

/-- The data length. -/
def Hdr.dataLen (h : Hdr) : Nat := h.len.toNat

/-- A header found in error at the ninth byte (R171). -/
def Hdr.inError (h : Hdr) : Bool :=
  Config.maxBytes < h.dataLen || (h.dataLen ≠ 0 && h.cmd ≠ some .writeBlock && h.cmd ≠ some .portReset)

/-! ## Parameters -/

/-- The parameter a queued operation records: the frame's, after the clamping of a SPACE's count and of a LOCATE's block
number. The other commands do not act on theirs, and record it as it stands (R151, R173). -/
def opParam (c : Cmd) (p : BitVec 32) : Int :=
  match c with
  | .space => limit (-(Config.blockLimit : Int)) Config.blockLimit p.toInt
  | .locate => limit 0 Config.blockLimit p.toNat
  | _ => p.toNat

/-- The block number of QUERY DIRECTORY, after clamping (R111, R173). -/
def queryNumber (p : BitVec 32) : Nat := min (Config.blockLimit - 1) p.toNat

/-- The event set of a parameter: its low nine bits (Table 10-5). -/
def eventSetOf (p : BitVec 32) : EventSet := p.extractLsb' 0 9

/-- The write mode of SET PORT OPTIONS: bit 16 (R173). -/
def modeOf (p : BitVec 32) : WriteMode := if p[16] then .buffered else .verified

/-- The parameter of SET PORT OPTIONS as acted on: the bits that are acted on, the others 0 (R174, R179). -/
def optionsActedOn (p : BitVec 32) : Nat := (p &&& 0x000101FF#32).toNat

/-- The check kind of SET DECK PARAMETERS: bits 15 to 8, 16 or 32 (R173). -/
def checkKindOf (p : BitVec 32) : Option CheckKind :=
  if p.extractLsb' 8 8 = 16#8 then some .k16 else if p.extractLsb' 8 8 = 32#8 then some .k32 else none

/-- The deck parameters of SET DECK PARAMETERS with its numeric values clamped (R21, R173). -/
def paramsOf (p : BitVec 32) (k : CheckKind) : Params :=
  { gain := limitNat 1 15 (p.extractLsb' 0 4).toNat
    check := k
    retryLimit := limitNat 0 15 (p.extractLsb' 16 4).toNat
    failLimit := limitNat 1 64 (p.extractLsb' 24 7).toNat
    autoClear := p[31] }

end Sys2Proof.Machine
end

