-- ==== Sys2Proof/Machine/Flags.lean ====
section
/-! DEFINITION. The flags and output lines that are computed from what the blocks hold: classes of deck states, the
output lines of the deck sequencer (R16, R17), the event bits of Table 10-5, and header byte 4 and the header flags of a
status record (Table 10-2). -/

namespace Sys2Proof.Machine

/-! ## Classes of deck states -/

/-- LOADING, any substate (R3). -/
def Deck.isLoading : Deck → Bool
  | .vacuumUp | .loopForm | .loadPointSearch | .rezero => true
  | _ => false

/-- UNLOADING, either substate (R3). -/
def Deck.isUnloading : Deck → Bool
  | .rewindOut | .windOff => true
  | _ => false

/-- FAULTED, either substate (R3). -/
def Deck.isFaulted : Deck → Bool
  | .faultedSoft | .faultedHard => true
  | _ => false

/-- The deck is loaded in READY, FAULT_STOP and FAULTED (R3). -/
def Deck.isLoaded : Deck → Bool
  | .ready | .faultStop | .faultedSoft | .faultedHard => true
  | _ => false

/-- The states in which the servo reports TACH: LOADING, READY, UNLOADING and FAULT_STOP (R36, R37). -/
def Deck.detectsTach (d : Deck) : Bool := d.isLoading || d = .ready || d.isUnloading || d = .faultStop

/-- The states in which the servo reports EOT_OVERRUN: LOADING, READY and UNLOADING (R41). -/
def Deck.detectsOverrun (d : Deck) : Bool := d.isLoading || d = .ready || d.isUnloading

/-- The states in which the servo reports LOOP_OUT (R44). -/
def Deck.detectsLoopOut : Deck → Bool
  | .ready | .rewindOut | .faultStop => true
  | _ => false

/-- The states in which the servo reports REEL_SATURATION: LOADING, READY and REWIND_OUT (R55). -/
def Deck.detectsSaturation (d : Deck) : Bool := d.isLoading || d = .ready || d = .rewindOut

/-- The states in which a fall of a vacuum sense is a VACUUM_LOSS detection (R18). -/
def Deck.detectsVacuumLoss : Deck → Bool
  | .loopForm | .loadPointSearch | .rezero | .ready | .rewindOut | .faultStop | .faultedSoft => true
  | _ => false

/-! ## Output lines of the deck sequencer -/

/-- PUMP (R17). -/
def Deck.pump (d : Deck) : Bool := d ≠ .unloaded

/-- BRAKE: true engages the brakes (R17). -/
def Deck.brake : Deck → Bool
  | .unloaded | .faultedHard => true
  | _ => false

/-- The five lamp lines (R16). -/
structure Lamps where
  rdy : Bool
  onl : Bool
  ld  : Bool
  flt : Bool
  fpr : Bool
  deriving DecidableEq, Repr

/-- The lamp lines the deck sequencer drives: all false while RESET is true (R16, R188). -/
def State.lamps (s : State) : Lamps :=
  let d := s.dsq.deck
  { rdy := !s.inReset && (d = .ready)
    onl := !s.inReset && s.dsq.online
    ld := !s.inReset && (d = .vacuumUp || d = .loopForm || d = .loadPointSearch || (d = .rezero && s.dsq.flash))
    flt := !s.inReset && (d = .faultedSoft || ((d = .faultStop || d = .faultedHard) && s.dsq.flash))
    fpr := !s.inReset && d.isLoaded && !s.dsq.writeEnable }

/-! ## Event sets -/

/-- The bit of an event kind (Table 10-5). -/
def EventKind.bit : EventKind → EventSet
  | .deckReady => 0b000000001
  | .deckNotReady => 0b000000010
  | .faultStopBegun => 0b000000100
  | .faultCleared => 0b000001000
  | .onlineChanged => 0b000010000
  | .writerChanged => 0b000100000
  | .positionClamped => 0b001000000
  | .eotPassed => 0b010000000
  | .deferredErrorSet => 0b100000000

/-! ## Record headers -/

/-- The deck state code of R3 and the substate code of Table 10-2, packed as header byte 4. -/
def Deck.byte : Deck → Byte
  | .unloaded => 0x00
  | .vacuumUp => 0x11
  | .loopForm => 0x12
  | .loadPointSearch => 0x13
  | .rezero => 0x14
  | .ready => 0x20
  | .rewindOut => 0x31
  | .windOff => 0x32
  | .faultStop => 0x40
  | .faultedSoft => 0x51
  | .faultedHard => 0x52

/-- A byte from its bits, bit 0 first. -/
def byteOf (b0 b1 b2 b3 b4 b5 b6 b7 : Bool) : Byte :=
  BitVec.ofNat 8 (b0.toNat + 2 * b1.toNat + 4 * b2.toNat + 8 * b3.toNat + 16 * b4.toNat + 32 * b5.toNat
    + 64 * b6.toNat + 128 * b7.toNat)

/-- The number a fault kind has in SENSE, 0 absent (Table 10-6). -/
def faultByte : Option FaultKind → Byte
  | none => 0
  | some .loopOut => 1
  | some .reelSaturation => 2
  | some .tach => 3
  | some .eotOverrun => 4
  | some .vacuumLoss => 5
  | some .drive => 6
  | some .media => 7

end Sys2Proof.Machine
end

