-- ==== Sys2Proof/Machine/BufferOps.lean ====
section
/-! DEFINITION. The named operations of the Block Buffer: allocation (R79), the entry to CACHED and the cache list (R87),
pins and withdrawal (R89), and the slots given back by truncation, unload and reset (R90 to R93). -/

namespace Sys2Proof.Machine

/-- The slot of a number. -/
def Bbf.slot (b : Bbf) (i : Nat) : Slot := b.slots.getD i Slot.freed

/-- Change one slot. -/
def Bbf.modify (i : Nat) (f : Slot → Slot) (b : Bbf) : Bbf := { b with slots := b.slots.set i (f (b.slot i)) }

/-- A held state, one that counts in its owner's slots-held count (R78). -/
def SlotState.isHeld : SlotState → Bool
  | .filling | .pending | .writing | .reading | .delivering => true
  | .free | .cached => false

/-- The slot is held by the port (R78). -/
def Slot.heldBy (p : PortId) (x : Slot) : Bool := x.state.isHeld && x.owner = some p

/-- The slots-held count of a port (R78). -/
def Bbf.held (b : Bbf) (p : PortId) : Nat := b.slots.countP (Slot.heldBy p)

/-- A slot is PENDING or WRITING (R15). -/
def Bbf.hasWrite (b : Bbf) : Bool := b.slots.any (fun x => x.state = .pending || x.state = .writing)

/-- A PENDING or WRITING slot holds the block (R157). -/
def Bbf.writesBlock (b : Bbf) (n : Nat) : Bool :=
  b.slots.any (fun x => (x.state = .pending || x.state = .writing) && x.block = some n)

/-- The slot a request takes: the lowest FREE one, else the unpinned CACHED slot nearest the front of the cache list
(R79). -/
def Bbf.candidate (b : Bbf) : Option Nat :=
  match b.slots.findIdx? (fun x => x.state = .free) with
  | some i => some i
  | none => b.cache.find? (fun i => (b.slot i).pins = 0)

/-- A slot put in a new state, out of the cache list (R79). -/
def Bbf.take (i : Nat) (x : Slot) (b : Bbf) : Bbf := { slots := b.slots.set i x, cache := b.cache.filter (· ≠ i) }

/-- A slot becomes FREE. -/
def Bbf.free (i : Nat) (b : Bbf) : Bbf := b.take i Slot.freed

/-- The slot of an operation, when it has one, becomes FREE. -/
def Bbf.freeOpt (i : Option Nat) (b : Bbf) : Bbf := match i with | some i => b.free i | none => b

/-- The slot on the cache list that holds a block (R88). -/
def Bbf.cachedSlot (b : Bbf) (n : Nat) : Option Nat := b.cache.find? (fun i => (b.slot i).block = some n)

/-- A slot enters CACHED with no pin and joins the end of the cache list, or becomes FREE when another CACHED slot holds
its block (R87). -/
def Bbf.enterCached (i : Nat) (b : Bbf) : Bbf :=
  match (b.slot i).block with
  | none => b.free i
  | some n =>
    match b.cachedSlot n with
    | some _ => b.free i
    | none =>
      let x := b.slot i
      { slots := b.slots.set i { x with state := .cached, owner := none, tag := 0, pins := 0, discard := false }
        cache := b.cache.filter (· ≠ i) ++ [i] }

/-- A cache hit: the slot takes a pin and moves to the end of the cache list (R88). -/
def Bbf.hit (i : Nat) (b : Bbf) : Bbf :=
  { slots := b.slots.set i { b.slot i with pins := (b.slot i).pins + 1 }, cache := b.cache.filter (· ≠ i) ++ [i] }

/-- A pin is released; a withdrawn slot whose last pin is released becomes FREE (R89). -/
def Bbf.unpin (i : Nat) (b : Bbf) : Bbf :=
  let x := b.slot i
  if x.pins ≤ 1 ∧ x.block = none then b.free i
  else { b with slots := b.slots.set i { x with pins := x.pins - 1 } }

/-- A CACHED slot that must leave the cache: FREE without a pin, withdrawn with one (R89). -/
def Slot.leaveCache (x : Slot) : Slot := if x.pins = 0 then Slot.freed else { x with block := none }

/-- What truncation at `n` does to a slot (R90). -/
def Slot.truncated (n : Nat) (x : Slot) : Slot :=
  match x.block with
  | none => x
  | some k =>
    if k < n then x
    else
      match x.state with
      | .cached => x.leaveCache
      | .delivering => { x with discard := true }
      | .reading => { x with discard := true }
      | .pending => x
      | .writing => x
      | .filling => x
      | .free => x

/-- What the entry to UNLOADING and a hard clear do to a slot (R91). -/
def Slot.unloaded (x : Slot) : Slot :=
  match x.state with
  | .cached => x.leaveCache
  | .delivering => { x with discard := true }
  | _ => x

/-- The cache list left after slots have changed: the slots that are still CACHED and hold a block number (R87). -/
def listed (slots : List Slot) (cache : List Nat) : List Nat :=
  cache.filter (fun i => let x := slots.getD i Slot.freed; x.state = .cached && x.block.isSome)

/-- Every slot changed by one rule, the cache list following. -/
def Bbf.mapSlots (f : Slot → Slot) (b : Bbf) : Bbf := { slots := b.slots.map f, cache := listed (b.slots.map f) b.cache }

/-- The buffer's part of truncation at `n` (R90). -/
def Bbf.truncate (n : Nat) (b : Bbf) : Bbf := b.mapSlots (Slot.truncated n)

/-- The cached blocks of the volume are given back (R91). -/
def Bbf.unload (b : Bbf) : Bbf := b.mapSlots Slot.unloaded

/-- What PORT RESET or link loss at a port does to a slot of the port; FILLING, PENDING and DELIVERING slots become FREE,
a READING slot takes DISCARD, a WRITING slot is kept (R93). -/
def Slot.portReset (p : PortId) (x : Slot) : Slot :=
  if x.owner = some p then
    match x.state with
    | .filling => Slot.freed
    | .pending => Slot.freed
    | .delivering => Slot.freed
    | .reading => { x with discard := true }
    | .writing => x
    | .cached => x
    | .free => x
  else x

end Sys2Proof.Machine
end

