-- ==== Sys2Proof/Machine/DirectoryOps.lean ====
section
/-! DEFINITION. The named operations of the Block Directory: lookup and rest points (R105, R106), growth by traversal
with decimation and the ordering check (R98, R102 to R104), and the three ways EOD is set (R107 to R109). -/

namespace Sys2Proof.Machine

/-- The end of an entry: its start plus its extent (R96). -/
def Entry.endPos (e : Entry) : Int := e.start + e.extent

/-- The rest point of an entry's block (R106). -/
def Entry.rest (e : Entry) : Int := e.start - Config.restBefore

/-- The entry of number `n`, when there is one. -/
def Bdr.entry (d : Bdr) (n : Nat) : Option Entry := d.entries.find? (fun e => e.num = n)

/-- The answer of a lookup (R105). -/
inductive Lookup where
  | exact (e : Entry)
  | lower (e : Entry)
  | loadPoint
  deriving DecidableEq, Repr

/-- Lookup of block `n`: the entry of the largest number that is `n` or less, else the load point (R105). -/
def Bdr.lookup (d : Bdr) (n : Nat) : Lookup :=
  match (d.entries.filter (fun e => e.num ≤ n)).getLast? with
  | some e => if e.num = n then .exact e else .lower e
  | none => .loadPoint

/-- An entry put in its place, with the ordering check of R104: the entries below it that start at or beyond it and the
entries above it that start at or before it are removed. -/
def placeEntry (e : Entry) (l : List Entry) : List Entry :=
  l.filter (fun x => x.num < e.num && x.start < e.start) ++ e :: l.filter (fun x => e.num < x.num && e.start < x.start)

/-- What a traversal report carries (R101). -/
structure Traversal where
  num    : Nat
  start  : Int
  extent : Int
  len    : Nat
  mark   : Bool
  failed : Bool
  deriving DecidableEq, Repr

/-- The entry a report makes (R102). -/
def Traversal.entry (t : Traversal) : Entry :=
  { num := t.num, start := t.start, extent := t.extent, len := t.len, mark := t.mark, failed := t.failed }

/-- The entries after a block that has one is traversed again: all but the start taken from the report, and the start too
when the two differ by more than 200 counts, with the ordering check (R103). -/
def retraverse (t : Traversal) (old : Entry) (l : List Entry) : List Entry :=
  if Config.startMargin < ((t.start - old.start).natAbs : Int) then placeEntry t.entry l
  else l.map (fun x => if x.num = t.num then { t.entry with start := x.start } else x)

/-- A full directory doubles its stride and keeps the multiples of the new one (R98). At stride 256 the block numbers
run out before a full directory is asked for more, so 256 is never doubled (DEDUCED: notes/assumptions/25.md). -/
def Bdr.decimate (d : Bdr) : Bdr :=
  if d.stride < Config.maxStride then
    { d with stride := 2 * d.stride, entries := d.entries.filter (fun e => e.num % (2 * d.stride) = 0) }
  else d

/-- The addition of an entry under step 5 of R102: decimation first when the directory is full, then the entry if its
number is a multiple of the stride. A directory that decimation leaves full takes no entry (R97 against R98; DEDUCED:
notes/assumptions/25.md). -/
def Bdr.add (t : Traversal) (d : Bdr) : Bdr :=
  let d := if Config.maxEntries ≤ d.entries.length then d.decimate else d
  if t.num % d.stride = 0 ∧ d.entries.length < Config.maxEntries then
    { d with entries := placeEntry t.entry d.entries }
  else d

/-- The traversal report is taken: it is below a known EOD and not beyond the known limit plus one (R102, steps 1 and
2). -/
def Bdr.takes (d : Bdr) (k : Nat) : Bool :=
  (match d.eod with | some e => decide (k < e) | none => true) && decide ((k : Int) ≤ d.known + 1)

/-- A traversal report (R102). -/
def Bdr.traverse (t : Traversal) (d : Bdr) : Bdr :=
  if d.takes t.num then
    let d := { d with known := max d.known t.num }
    match d.entry t.num with
    | some old => { d with entries := retraverse t old d.entries }
    | none => if t.num % d.stride = 0 then d.add t else d
  else d

/-- EOD set to `b`: the entries at or above it removed, the known limit lowered (R108). -/
def Bdr.cut (b : Nat) (d : Bdr) : Bdr :=
  { d with entries := d.entries.filter (fun e => e.num < b), known := min d.known ((b : Int) - 1), eod := some b }

/-- EOD is known and below `b`: a blank-tape report or a rollback to `b` is not taken (R108, R109). -/
def Bdr.endsBelow (d : Bdr) (b : Nat) : Bool := match d.eod with | some e => decide (e < b) | none => false

/-- The blank-tape report for block `n`, and the rollback to `n` (R108, R109). -/
def Bdr.lowerEod (n : Nat) (d : Bdr) : Bdr := if d.endsBelow n then d else d.cut n

/-- The truncation at the take of a write of block `n` (R107). -/
def Bdr.truncate (n : Nat) (d : Bdr) : Bdr :=
  { d with entries := d.entries.filter (fun e => e.num < n), known := min d.known ((n : Int) - 1), eod := some (n + 1) }

/-- Block `n` is at or beyond a known EOD. -/
def Bdr.atEnd (d : Bdr) (n : Nat) : Bool := match d.eod with | some e => decide (e ≤ n) | none => false

/-- A number bounded by EOD, when EOD is known (R139, R161). -/
def Bdr.bound (d : Bdr) (n : Nat) : Nat := match d.eod with | some e => min n e | none => n

/-- The strides the directory takes (R98). -/
def strides : List Nat := [1, 2, 4, 8, 16, 32, 64, 128, 256]

/-- What the directory keeps at all times: entries strictly increasing in number and in start, multiples of the stride,
at most 4096, none above the known limit; below a known EOD; the known limit at least −1 (R97 to R100). -/
abbrev Bdr.wf (d : Bdr) : Prop :=
  d.entries.Pairwise (fun x y => x.num < y.num ∧ x.start < y.start)
    ∧ (∀ e ∈ d.entries, e.num % d.stride = 0 ∧ (e.num : Int) ≤ d.known)
    ∧ d.entries.length ≤ Config.maxEntries
    ∧ d.stride ∈ strides
    ∧ -1 ≤ d.known
    ∧ (∀ b ∈ d.eod, d.known ≤ (b : Int) - 1)

end Sys2Proof.Machine
end

