-- ==== Sys2Proof/Machine/ServoOps.lean ====
section
/-! DEFINITION. The named operations of the Transport Servo: its orders (R24, R28, R32, R33), one decoded capstan or reel
count (R34 to R41, R46, R47, R50), the marker logic (R38), a revolution (R48, R49), and the period expiry (R23). Every
later change of the servo's state is one of these. -/

namespace Sys2Proof.Machine

/-! ## Presentation -/

/-- The servo presents Vc and both reel commands: the amplifiers take them at the rise of CMD-STB (R185). -/
def Tsv.present (v : Tsv) : Tsv :=
  { v with capCmd := BitVec.ofInt 12 v.vc, srlCmd := BitVec.ofInt 9 v.supply.cmd, trlCmd := BitVec.ofInt 9 v.takeup.cmd,
           strobes := v.strobes + 1 }

/-- A reel placed in a command mode: its measurement runs on only under regulation (R47, R51). -/
def ReelState.setMode (m : ReelMode) (r : ReelState) : ReelState :=
  { r with mode := m, measuring := r.measuring && m = .regulated }

/-- Both reel commands set to 0, in zero mode (R58). -/
def Tsv.zeroReels (v : Tsv) : Tsv :=
  { v with supply := { v.supply.setMode .zero with cmd := 0 }, takeup := { v.takeup.setMode .zero with cmd := 0 } }

/-! ## Orders -/

/-- A move order to position `x` with the class given: the move record of R28, its latch clear. Any completion not yet
taken is void, because the order it belongs to has been replaced (R24; DEDUCED: notes/assumptions/29.md). -/
def Tsv.orderMoveAt (x : Int) (forward : Bool) (c : Speed) (i : Issuer) (v : Tsv) : Tsv :=
  { v with order := .move { target := x, forward := forward, speed := c, latch := false } i, report := none }

/-- The distance of a move at its take (R28). -/
def Tsv.distance (v : Tsv) (x : Int) (forward : Bool) : Int := if forward then x - v.counter else v.counter - x

/-- A move order to position `x`, classed by its distance (R24, R28). -/
def Tsv.orderMove (x : Int) (forward : Bool) (i : Issuer) (v : Tsv) : Tsv :=
  v.orderMoveAt x forward (classOf (v.distance x forward)) i

/-- A run order: the capstan target is the signed class value (R24, R32). -/
def Tsv.orderRun (c : Speed) (forward : Bool) (i : Issuer) (v : Tsv) : Tsv :=
  { v with order := .run c forward i, target := signed forward c.value, report := none }

/-- A stop order: target 0; it carries the class FAST when it replaces a FAST order (R24, R25, R32). -/
def Tsv.orderStop (i : Issuer) (v : Tsv) : Tsv :=
  { v with order := .stop v.order.isFast i, target := 0, report := none }

/-- The fault ramp order: target 0, step 160 (R33). -/
def Tsv.orderFaultRamp (v : Tsv) : Tsv :=
  { v with order := .faultRamp, target := 0, step := 160, report := none }

/-- The hard stop order: Vc, the target and both reel commands 0 at once, and presented at once (R24, R33). -/
def Tsv.hardStop (v : Tsv) : Tsv :=
  ({ v with vc := 0, target := 0, order := .none, report := none } : Tsv).zeroReels.present

/-- An order of the engine: discarded while the fault ramp is in force (R24). -/
def Tsv.engineOrder (f : Tsv → Tsv) (v : Tsv) : Tsv := if v.order = .faultRamp then v else f v

/-! ## Revolution measurement -/

/-- A measurement begins: accumulator 0, both snapshots taken now (R47). -/
def ReelState.restart (counter : Int) (r : ReelState) : ReelState :=
  { r with acc := 0, capSnap := counter, loopSnap := r.loop }

/-- Both reels' measurements are restarted, the counter having been set (R50). -/
def Tsv.restartBoth (v : Tsv) : Tsv :=
  { v with supply := v.supply.restart v.counter, takeup := v.takeup.restart v.counter }

/-- The counter is set rather than counted (R35, R50). -/
def Tsv.setCounter (x : Int) (v : Tsv) : Tsv := ({ v with counter := x } : Tsv).restartBoth

/-- One decoded count of a reel: while the measurement runs it is added to the accumulator, but a count against the accumulator's direction
restarts the measurement (R47, R50). The accumulator does not pass ±1024 (R47; DESIGN CHOICE:
notes/assumptions/26.md). -/
def ReelState.count (forward : Bool) (counter : Int) (r : ReelState) : ReelState :=
  if ¬ r.measuring then r
  else if (forward ∧ r.acc < 0) ∨ (¬ forward ∧ 0 < r.acc) then r.restart counter
  else { r with acc := limit (-1024) 1024 (r.acc + signed forward 1) }

/-- A revolution is complete and its step has not been taken (R47, R48). -/
def ReelState.revolutionDue (r : ReelState) : Bool := r.acc.natAbs = 1024

/-- A completed revolution: the measured pack updates the estimate and the measurement restarts (R48, R49). -/
def ReelState.revolve (w : Reel) (counter : Int) (r : ReelState) : ReelState :=
  ({ r with pack := newPack r.pack (measuredPack w (counter - r.capSnap) ((r.loop : Int) - r.loopSnap)) } : ReelState).restart
    counter

/-- The reel of a name. -/
def Tsv.reel (v : Tsv) : Reel → ReelState
  | .supply => v.supply
  | .takeup => v.takeup

/-- Change the reel of a name. -/
def Tsv.onReel (w : Reel) (f : ReelState → ReelState) (v : Tsv) : Tsv :=
  match w with
  | .supply => { v with supply := f v.supply }
  | .takeup => { v with takeup := f v.takeup }

/-! ## Glitches -/

/-- A glitch adds one to the glitch count, up to 255; the one that brings it from 7 to 8 in a detecting deck state makes
the report due (R36). -/
def Tsv.glitch (d : Deck) (v : Tsv) : Tsv :=
  { v with glitches := min Config.glitchMax (v.glitches + 1),
           glitchDue := v.glitchDue || (v.glitches + 1 = Config.glitchLimit && d.detectsTach) }

/-! ## Markers -/

/-- One count of travel over a marker line: at 16 counts of travel the sighting is accepted (R38). -/
def Sighting.travelled : Sighting → Sighting
  | .seeing first travel => if travel + 1 = Config.markerTravel then .accepted else .seeing first (travel + 1)
  | x => x

/-- The first-sighting position of a sighting that this count accepts (R38). -/
def Sighting.acceptedFrom : Sighting → Option Int
  | .seeing first travel => if travel + 1 = Config.markerTravel then some first else none
  | _ => none

/-- A change of a marker line (R38). -/
def Sighting.line (level : Bool) (counter : Int) : Sighting → Sighting
  | .clear => if level then .seeing counter 0 else .clear
  | .seeing f t => if level then .seeing f t else .clear
  | .accepted => if level then .accepted else .clear

/-- Both sighting states set to CLEAR, a line that is true being taken as going true now, and the EOT flag and recorded
position removed (R38, R40). -/
def Tsv.clearMarkers (v : Tsv) : Tsv :=
  { v with lp := Sighting.fresh v.lpLine v.counter, eot := Sighting.fresh v.eotLine v.counter, eotPassed := false,
           eotPos := none, lpDue := none, eotDue := none }

/-! ## A decoded capstan count -/

/-- The EOT-passed flag after a count: a reverse count that brings the counter below the recorded position clears it (R40). One
that only leaves it below, the counter standing below already, clears the flag too (DESIGN CHOICE:
notes/assumptions/52.md). -/
def eotAfter (passed : Bool) (pos : Option Int) (forward : Bool) (counter : Int) : Bool :=
  match pos with
  | some p => if ¬ forward ∧ counter < p then false else passed
  | none => passed

/-- The count is an overrun detection, but for the deck state (R41). -/
def overrunAt (passed : Bool) (pos : Option Int) (forward : Bool) (counter : Int) : Bool :=
  match pos with
  | some p => passed && forward && decide (p + Config.overrun < counter)
  | none => false

/-- One decoded capstan count: the counter, the tally, the marker travel and the EOT flag (R34, R35, R38, R40). -/
def Tsv.count (forward : Bool) (v : Tsv) : Tsv :=
  let c := countOn v.counter forward
  { v with
      counter := c
      tally := v.tally + signed forward 1
      counted := true
      lp := v.lp.travelled
      eot := v.eot.travelled
      lpDue := if v.lp.acceptedFrom = none then v.lpDue else some forward
      eotDue := match v.eot.acceptedFrom with | some f => some (forward, f) | none => v.eotDue
      eotPassed := eotAfter v.eotPassed v.eotPos forward c }

/-- An arrival on the capstan tach pair (R34). -/
def Tsv.capstanArrival (d : Deck) (p : Pair) (v : Tsv) : Tsv :=
  let v' := match decodeTurn v.lastPair p with
    | .forward => v.count true
    | .reverse => v.count false
    | .same => v
    | .glitch => v.glitch d
  { v' with lastPair := p }

/-- An arrival on a reel tach pair (R46). -/
def Tsv.reelArrival (d : Deck) (w : Reel) (p : Pair) (v : Tsv) : Tsv :=
  let v' := match decodeTurn (v.reel w).last p with
    | .forward => v.onReel w (ReelState.count true v.counter)
    | .reverse => v.onReel w (ReelState.count false v.counter)
    | .same => v
    | .glitch => v.glitch d
  v'.onReel w (fun r => { r with last := p })

/-! ## The period expiry -/

/-- Step 1: the stall test on the tally just closed, and the tally closed. The period that brings the count to 50 in a
detecting deck state makes the report due (R23, R37). -/
def Tsv.closeTally (d : Deck) (v : Tsv) : Tsv :=
  let stalled := decide (64 ≤ v.vcPeriod.natAbs) && !v.counted
  { v with
      stall := if stalled then min Config.stallMax (v.stall + 1) else 0
      stallDue := v.stallDue || (stalled && v.stall + 1 = Config.stallMax && d.detectsTach)
      tally := 0
      counted := false }

/-- Step 2: the braking test of a positioning move whose latch is clear (R29). -/
def Tsv.brake (v : Tsv) : Tsv :=
  match v.order with
  | .move m i =>
    if m.latch then { v with target := 0 }
    else if v.distance m.target m.forward ≤ dstop v.vc.natAbs (stepFor v.order v.vc v.target).toNat then
      { v with target := 0, order := .move { m with latch := true } i }
    else { v with target := signed m.forward m.speed.value }
  | _ => v

/-- Step 3: the step A is set and Vc stepped, under the hold when either saturation flag stands (R25, R26). -/
def Tsv.stepCapstan (v : Tsv) : Tsv :=
  let a := stepFor v.order v.vc v.target
  let vc := stepVc v.vc v.target a (v.supply.satFlag || v.takeup.satFlag)
  { v with step := a, vc := vc, vcPeriod := vc }

/-- The command mode of a reel at an expiry, from the deck state and the reading just sampled (R51, R56). -/
def modeAt (w : Reel) (d : Deck) (m : ReelMode) (l : Nat) : ReelMode :=
  match d with
  | .unloaded | .vacuumUp | .faultedHard => .zero
  | .loopForm => if m = .forming ∧ ¬ loopFormed l then .forming else .regulated
  | .windOff => match w with | .supply => .fixed | .takeup => .zero
  | .loadPointSearch | .rezero | .ready | .rewindOut | .faultStop | .faultedSoft => .regulated

/-- The regulated command, from the loop reading held: FF + C limited, with the saturation flag and count of R54 and R55. -/
def ReelState.regulate (w : Reel) (d : Deck) (vc : Int) (gain : Nat) (r : ReelState) : ReelState :=
  let sum := commandSum w vc r.pack gain r.loop
  if limitCommand sum = sum then { r with cmd := sum, satFlag := false, satCount := 0 }
  else
    { r with cmd := limitCommand sum, satFlag := true, satCount := min Config.satMax (r.satCount + 1),
             satDue := r.satDue || (r.satCount + 1 = Config.satMax && d.detectsSaturation) }

/-- Step 4 for one reel: sample, latch, command, saturation and the restarts of R47 and R50 (R43, R44, R51 to R56). The
first expiry of regulation begins a fresh measurement (R47). -/
def ReelState.expire (w : Reel) (d : Deck) (vc counter : Int) (gain l : Nat) (r : ReelState) : ReelState :=
  let m := modeAt w d r.mode l
  let sampled : ReelState := { r with loop := l, latchOut := !loopInRange l, mode := m }
  let calm (c : Int) : ReelState :=
    ({ sampled with cmd := c, measuring := false, satFlag := false, satCount := 0 } : ReelState).restart counter
  match m with
  | .zero => calm 0
  | .fixed => calm (-64)
  | .forming => calm (if l < 448 then 32 else -32)
  | .regulated =>
    let x : ReelState := { sampled.regulate w d vc gain with measuring := true }
    if r.measuring && !x.satFlag then x else x.restart counter

/-- The expiry turns this column's latch from IN to OUT (R44). -/
def ReelState.goesOut (l : Nat) (r : ReelState) : Bool := !r.latchOut && !loopInRange l

/-- Step 6: the order in force ends when the step has brought Vc to 0, and its completion is reported (R30, R32,
R33). -/
def Tsv.complete (v : Tsv) : Tsv :=
  if v.vc ≠ 0 then v
  else
    match v.order with
    | .move m i =>
      if m.latch then { v with order := .none, report := some (.moveDone i (v.counter - m.target)) } else v
    | .stop _ i => { v with order := .none, report := some (.stopDone i) }
    | .faultRamp => { v with order := .none, report := some .rampZero }
    | .none => v
    | .run _ _ _ => v

/-- The window report of an expiry (R45). -/
def windowAt (d : Deck) (ls lt : Nat) : Bool :=
  match d with
  | .loopForm => loopFormed ls && loopFormed lt
  | .windOff => decide (ls < 64) && decide (lt < 64)
  | _ => false

/-- The period expiry with the loop readings `ls` and `lt` (R23). A window report not yet taken is replaced by this expiry's
(DESIGN CHOICE: notes/assumptions/38.md). -/
def Tsv.expire (d : Deck) (gain ls lt : Nat) (v : Tsv) : Tsv :=
  let u := (v.closeTally d).brake.stepCapstan
  let u := { u with supply := u.supply.expire .supply d u.vc u.counter gain ls,
                    takeup := u.takeup.expire .takeup d u.vc u.counter gain lt,
                    windowReport := windowAt d ls lt }
  u.present.complete

/-! ## Load start, clears and searches -/

/-- A reel at a load start: seed, fresh measurement, latch IN, command 0 in zero mode, no saturation (R60). -/
def ReelState.loadStart (seed counter : Int) (r : ReelState) : ReelState :=
  ({ r with pack := seed, latchOut := false, cmd := 0, mode := .zero, measuring := false, satFlag := false,
             satCount := 0 } : ReelState).restart counter

/-- The servo at a load start (R5, R42, R60). -/
def Tsv.loadStart (v : Tsv) : Tsv :=
  ({ v with vc := 0, target := 0, step := 80, order := .none, report := none, glitches := 0, stall := 0, windowReport := false,
            supply := v.supply.loadStart Config.packSeedS v.counter,
            takeup := v.takeup.loadStart Config.packSeedT v.counter } : Tsv).clearMarkers

/-- A reel's saturation flag cleared and its count set to 0 (R55). -/
def ReelState.clearSat (r : ReelState) : ReelState := { r with satFlag := false, satCount := 0 }

/-- The counts a clear sets to 0: glitch, stall and both saturation counts (R55, R71, R73). -/
def Tsv.clearCounts (v : Tsv) : Tsv :=
  { v with glitches := 0, stall := 0, supply := v.supply.clearSat,
           takeup := v.takeup.clearSat }

/-- Both loop-out latches set to IN (R44). -/
def Tsv.latchesIn (v : Tsv) : Tsv :=
  { v with supply := { v.supply with latchOut := false }, takeup := { v.takeup with latchOut := false } }

/-- Both reels placed in a mode (R6, R56). -/
def Tsv.setModes (ms mt : ReelMode) (v : Tsv) : Tsv :=
  { v with supply := v.supply.setMode ms, takeup := v.takeup.setMode mt }

end Sys2Proof.Machine
end

