-- ==== Sys2Proof/Machine/PortOps.lean ====
section
/-! DEFINITION. The named operations of the channel ports: events (R176), records (R174), the record count and the charge
(R80, R152), the EOD bound (R161), and rollback with its deferred error (R162, R163). -/

namespace Sys2Proof.Machine

/-- The writer assignment set. -/
def Arb.setWriter (w : Option PortId) (r : Arb) : Arb := { r with writer := w }

/-- The port of a name. -/
def State.port (s : State) : PortId → Port
  | .a => s.portA
  | .b => s.portB

/-- Change the port of a name. -/
def State.onPort (p : PortId) (f : Port → Port) (s : State) : State :=
  match p with
  | .a => { s with portA := f s.portA }
  | .b => { s with portB := f s.portB }

/-- Change the servo. -/
def State.onTsv (f : Tsv → Tsv) (s : State) : State := { s with tsv := f s.tsv }

/-- Change the deck sequencer. -/
def State.onDsq (f : Dsq → Dsq) (s : State) : State := { s with dsq := f s.dsq }

/-- Change the engine. -/
def State.onOpe (f : Ope → Ope) (s : State) : State := { s with ope := f s.ope }

/-- Change the buffer. -/
def State.onBbf (f : Bbf → Bbf) (s : State) : State := { s with bbf := f s.bbf }

/-- Change the directory. -/
def State.onBdr (f : Bdr → Bdr) (s : State) : State := { s with bdr := f s.bdr }

/-- Change the arbiter. -/
def State.onArb (f : Arb → Arb) (s : State) : State := { s with arb := f s.arb }

/-- `n` free values drawn (notes/assumptions/3.md, notes/assumptions/4.md). -/
def State.drawn (n : Nat) (s : State) : State := { s with draws := s.draws + n }

/-- The port is not put out of service by its strap (R22). -/
def State.enabled (s : State) : PortId → Bool
  | .a => true
  | .b => s.dsq.portbEn

/-- The port is in service: enabled, with LINK-ACT true (R169). -/
def State.inService (s : State) (p : PortId) : Bool := s.enabled p && (s.port p).linkAct

/-! ## Counts -/

/-- The record references a CACHED slot (R80). -/
def Rec.pinsSlot (r : Rec) : Bool := match r.payload with | .pinned _ _ => true | _ => false

/-- The charge of a port: its slots-held count and its pins (R80). -/
def State.charge (s : State) (p : PortId) : Nat := s.bbf.held p + (s.port p).status.countP Rec.pinsSlot

/-- The record count of a port (R152). -/
def Port.recordCount (q : Port) : Nat := q.status.length + q.queue.countP Op.owed

/-! ## Events and records -/

/-- A kind added to a port's pending set; a port out of service by its strap adds none (R176). -/
def State.addEvent (k : EventKind) (p : PortId) (s : State) : State :=
  if s.enabled p then s.onPort p (fun q => { q with pendingEv := q.pendingEv ||| k.bit }) else s

/-- A kind added at both ports (R176). -/
def State.addEvents (k : EventKind) (s : State) : State := (s.addEvent k .a).addEvent k .b

/-- A COMPLETE record, not yet stamped (R174). -/
def completeRec (tag cmd : Byte) (c : Code) (detail : Nat) (data : List Byte) : Rec :=
  { kind := .complete, tag := tag, cmd := cmd, code := c, detail := detail, payload := .bytes data, stamp := none }

/-- A record enters a port's status queue (R174). -/
def State.place (p : PortId) (r : Rec) (s : State) : State := s.onPort p (fun q => { q with status := q.status ++ [r] })

/-- The COMPLETE record of an operation. -/
def opRec (o : Op) (c : Code) (detail : Nat) : Rec := completeRec o.tag o.cmd.code c detail []

/-- The records with which a list of operations completes, those that owe one (R64, R162). -/
def owedRecs (c : Code) (detail : Op → Nat) (l : List Op) : List Rec :=
  (l.filter Op.owed).map (fun o => opRec o c (detail o))

/-! ## The EOD bound -/

/-- The EOD bound lowers the port's number or a mark (R161). -/
def Port.clampedBy (d : Bdr) (q : Port) : Bool := q.next != d.bound q.next || q.marks != q.marks.map d.bound

/-- A port with its number and marks within EOD (R161). -/
def Port.bounded (d : Bdr) (q : Port) : Port := { q with next := d.bound q.next, marks := q.marks.map d.bound }

/-- The EOD bound at a port: the number and the marks lowered, and POSITION_CLAMPED added when any was (R161). -/
def State.boundPort (p : PortId) (s : State) : State :=
  let t := s.onPort p (Port.bounded s.bdr)
  if (s.port p).clampedBy s.bdr then t.addEvent .positionClamped p else t

/-- The EOD bound at both ports (R161). -/
def State.boundPorts (s : State) : State := (s.boundPort .a).boundPort .b

/-- A port's number set at the end of an operation: the lesser of the value and a known EOD (R139). -/
def State.setNext (p : PortId) (n : Nat) (s : State) : State := s.onPort p (fun q => { q with next := s.bdr.bound n })

/-! ## Rollback -/

/-- The lowest block of the writes whose record was given at take (R163). -/
def lowestGiven (l : List Op) : Option Nat :=
  (l.filterMap (fun o => if o.cmd = .writeBlock ∧ o.owed = false then o.block else none)).min?

/-- A deferred error recorded: the lower of the two block numbers is kept (R163). That a write answered at its take counts as
lost in BUFFERED mode whatever the port's mode by then is DEDUCED (notes/assumptions/16.md). -/
def State.defer (p : PortId) (n : Nat) (s : State) : State :=
  (s.onPort p (fun q => { q with deferred := some (match q.deferred with | some m => min m n | none => n) })).addEvent
    .deferredErrorSet p

/-- A deferred error recorded when there is a block to name. -/
def State.deferOpt (p : PortId) (n : Option Nat) (s : State) : State :=
  match n with
  | some n => s.defer p n
  | none => s

/-- The volume rolled back to `f`: EOD lowered, the writer's number set to `f` less its writes still ahead, and the EOD
bound applied (R162 steps 1, 4 and 5; R65). -/
def State.rollbackTo (p : PortId) (f ahead : Nat) (s : State) : State :=
  let s := s.onBdr (Bdr.lowerEod f)
  (s.setNext p (f - ahead)).boundPorts

/-- The rollback of a write whose port has been reset: steps 1 and 5 of R162 alone. -/
def State.rollbackOrphan (f : Nat) (s : State) : State := (s.onBdr (Bdr.lowerEod f)).boundPorts

/-- The slots of operations become FREE. -/
def State.freeSlots (l : List Op) (s : State) : State := l.foldl (fun s o => s.onBbf (Bbf.freeOpt o.slot)) s

/-- The detail of a CANCELLED operation lost in a rollback: its block for a write, 0 for the others (R162). -/
def lostDetail (o : Op) : Nat := o.block.getD 0

/-- The operations `lost` of a port leave its queue: their slots become FREE and those that owe a record complete
CANCELLED (R162 steps 2 and 3). -/
def State.loseOps (p : PortId) (kept lost : List Op) (s : State) : State :=
  (s.freeSlots lost).onPort p
    (fun q => { q with queue := kept, status := q.status ++ owedRecs .cancelled lostDetail lost })

/-- The number of writes in a list of operations. -/
def writesIn (l : List Op) : Nat := l.countP (fun o => o.cmd.isWrite)

/-- The first operation of a queue that is a write of block `f` or above, and everything behind it, are lost. -/
def isLostFrom (f : Nat) (o : Op) : Bool := o.cmd.isWrite && decide (f ≤ o.block.getD 0)

end Sys2Proof.Machine
end

