-- ==== Sys2Proof/Machine/DeckOps.lean ====
section
/-! DEFINITION. The end of an engine operation (R130, R132), and the named operations of the Deck Sequencer: load, unload
and re-zero with their entry effects (R5 to R13), the fault stop and its rollback (R62 to R65), the hard stop (R67) and
the two clears (R70 to R73). -/

namespace Sys2Proof.Machine

/-! ## The end of an engine operation -/

/-- The EOT-warning latch is cleared when the servo's flag is clear (R132). -/
def State.latchTest (s : State) : State :=
  if s.tsv.eotPassed then s else s.onOpe (fun e => { e with eotLatch := false })

/-- An operation that ends through the engine with OK completes OK_EOT when the EOT-passed flag is set (R132). -/
def State.engineCode (s : State) (c : Code) : Code := if c = .ok ∧ s.tsv.eotPassed then .okEot else c

/-- The operation a job executes leaves its port's queue, and the records `recs` it owes enter the status queue; an
orphaned operation and a panel rewind leave nothing (R133, R145). -/
def State.leaveQueue (j : Job) (recs : List Rec) (s : State) : State :=
  match j.actor with
  | .port p =>
    if j.orphan then s
    else s.onPort p (fun q => { q with queue := q.queue.tail, status := q.status ++ (if j.op.owed then recs else []) })
  | .panel => s

/-- The executing operation ends: no job, its correction count dropped, the EOT latch tested (R63, R132). -/
def State.dropJob (s : State) : State :=
  (s.onOpe (fun e => { e with job := none, corrections := 0 })).latchTest

/-- The executing operation completes with a code and a detail. -/
def State.finishJob (j : Job) (c : Code) (detail : Nat) (s : State) : State :=
  (s.leaveQueue j [opRec j.op (s.engineCode c) detail]).dropJob

/-- The engine goes IDLE: attempt number 0 (R114). -/
def State.goIdle (s : State) : State := s.onOpe (fun e => { e with phase := .idle, attempt := 0, asking := false })

/-- The operation has ended at an end point with the tape running: the arbiter is asked for its choice (R130). -/
def State.askAtEnd (s : State) : State := s.onOpe (fun e => { e with asking := true })

/-- After an operation: the engine goes IDLE at rest, or asks at an end point. -/
def State.after (atRest : Bool) (s : State) : State := if atRest then s.goIdle else s.askAtEnd

/-- A LOAD or UNLOAD held by the engine completes as its command says (R9, R11). -/
def State.finishDeckJob (c : Cmd → Code) (s : State) : State :=
  match s.ope.job with
  | some j => if j.stage = .deck then (s.finishJob j (c j.op.cmd) 0).goIdle else s
  | none => s

/-- The port whose operation a job executes, when it is not orphaned. -/
def Job.port (j : Job) : Option PortId :=
  match j.actor with
  | .port p => if j.orphan then none else some p
  | .panel => none

/-- The number of the port whose operation a job executes is set (R139). -/
def State.jobNext (j : Job) (n : Nat) (s : State) : State :=
  match j.port with
  | some p => s.setNext p n
  | none => s

/-! ## Deck states -/

/-- The deck enters a state; the flash starts lit at the entry to a flashing state, and FAULTED HARD after FAULT_STOP
goes on flashing (R16, R67). -/
def Dsq.enter (d : Deck) (q : Dsq) : Dsq :=
  { q with deck := d,
           flash := if d = .rezero ∨ d = .faultStop ∨ (d = .faultedHard ∧ q.deck ≠ .faultStop) then true else q.flash }

/-- The deck enters a state. -/
def State.enterDeck (d : Deck) (s : State) : State := s.onDsq (Dsq.enter d)

/-- The sequence timer set or stopped. -/
def State.setTimer (t : Option SeqTimer) (s : State) : State := s.onDsq (fun q => { q with timer := t })

/-- The marker search set or ended. -/
def State.setSearch (x : Option Search) (s : State) : State := s.onDsq (fun q => { q with search := x })

/-- A fault is reported to the deck sequencer (R61). -/
def State.reportFault (x : FaultReport) (s : State) : State := s.onDsq (fun q => { q with faults := q.faults ++ [x] })

/-- A fault is reported when `b`. -/
def State.reportWhen (b : Bool) (x : FaultReport) (s : State) : State := if b then s.reportFault x else s

/-! ## Load -/

/-- The drive lines are good: AMP-RDY true and AMP-FLT false (R4, R70). -/
def State.driveGood (s : State) : Bool := s.dsq.ampRdy && !s.dsq.ampFlt

/-- What a LOAD or UNLOAD that ends in UNLOADED completes with (R9, R11). -/
def unloadedCode (c : Cmd) : Code := if c = .load then .loadFailed else .ok

/-- Entry to LOOP_FORM: the 4 s timer, and both reels forming (R6, R56). -/
def State.enterLoopForm (s : State) : State :=
  ((s.enterDeck .loopForm).setTimer (some .loopForm)).onTsv
    (fun v => { v.setModes .forming .forming with windowReport := false })

/-- Entry to VACUUM_UP, the load start (R5); VACUUM_UP ends at entry when both senses are already true. -/
def State.loadStart (s : State) : State :=
  let s := ((s.enterDeck .vacuumUp).setTimer (some .vacuumUp)).onTsv Tsv.loadStart
  if s.dsq.vacS && s.dsq.vacT then s.enterLoopForm else s

/-- A load fails straight to UNLOADED: Vc and the reel commands 0 at once, brakes engaged, pump off (R9). -/
def State.loadFail (s : State) : State :=
  ((((s.onTsv Tsv.hardStop).enterDeck .unloaded).setTimer none).setSearch none).latchTest.finishDeckJob unloadedCode

/-- A search begins: the search travel count 0 (R7, R12). -/
def State.beginSearch (p : SearchPass) (s : State) : State :=
  s.onDsq (fun q => { q with searchTravel := 0, search := some ⟨p, .running⟩ })

/-- Entry to LOAD_POINT_SEARCH: the counter set to −2,000, and a run forward at CREEP (R7). -/
def State.enterLoadPointSearch (s : State) : State :=
  (((s.enterDeck .loadPointSearch).setTimer none).beginSearch .load).onTsv
    (fun v => ((v.setCounter Config.searchStart).setModes .regulated .regulated).orderRun .creep true .deck)

/-- Entry to LOADING REZERO: the directory cleared, the markers cleared, and the reverse pass at FAST (R12, R60). Every
cached slot stays as it stands (R12, R91 against R89; DEDUCED: notes/assumptions/41.md). -/
def State.enterRezero (s : State) : State :=
  ((((s.enterDeck .rezero).setTimer none).beginSearch .rezeroReverse).onBdr (fun _ => Bdr.cleared)).onTsv
    (fun v => v.clearMarkers.orderRun .fast false .deck)

/-- The forward pass of a re-zero begins (R12). -/
def State.rezeroForward (s : State) : State :=
  (s.beginSearch .rezeroForward).onTsv (Tsv.orderRun .creep true .deck)

/-- A port's number 0, its marks removed and the overflow flag cleared (R8, R10, R147). -/
def Port.atLoadPoint (q : Port) : Port := { q with next := 0, marks := [], overflow := false }

/-- Both ports at block 0 with empty stacks. -/
def State.portsAtLoadPoint (s : State) : State := (s.onPort .a Port.atLoadPoint).onPort .b Port.atLoadPoint

/-- Any entry to READY: the search over, both loop-out latches IN, the EOT latch tested (R44, R132). -/
def State.enterReady (s : State) : State :=
  ((((s.enterDeck .ready).setTimer none).setSearch none).onTsv Tsv.latchesIn).latchTest

/-- The engine at the load point: deck next-block number 0, valid, expected start 3,000 (R114, R134). -/
def Ope.atLoadPoint (e : Ope) : Ope := { e with deckNext := 0, posValid := true, expStart := Config.firstStart }

/-- READY reached from a load (R8). -/
def State.readyFromLoad (s : State) : State :=
  let s := (s.onBdr (fun _ => Bdr.cleared)).portsAtLoadPoint
  let s := s.onDsq (fun q => { q with writeEnable := q.ring, autoCount := 0 })
  let s := s.onTsv (fun v => { v with glitches := 0 })
  let s := (s.onOpe (fun e => { e.atLoadPoint with failCount := 0, eotLatch := false })).enterReady
  (s.finishDeckJob (fun _ => .ok)).addEvents .deckReady

/-- READY reached from a re-zero (R12). -/
def State.readyFromRezero (s : State) : State := ((s.onOpe Ope.atLoadPoint).enterReady).addEvents .deckReady

/-! ## Unload -/

/-- The writer is released, when there is one: its queued writes are removed, those that owe a record completing
CANCELLED, and WRITER_CHANGED is added at both ports (R10, R156). -/
def State.releaseForUnload (s : State) : State :=
  match s.arb.writer with
  | none => s
  | some p =>
    let lost := (s.port p).queue.filter (fun o => o.cmd.isWrite)
    let kept := (s.port p).queue.filter (fun o => !o.cmd.isWrite)
    ((s.loseOps p kept lost).onArb (Arb.setWriter none)).addEvents .writerChanged

/-- The effects of an unload's entry, but for the deck state and DECK_NOT_READY (R10, R91, R134). -/
def State.unloadEffects (s : State) : State :=
  let s := s.releaseForUnload
  let s := s.onDsq (fun q => { q with writeEnable := false })
  let s := (s.onBdr (fun _ => Bdr.cleared)).portsAtLoadPoint
  let s := s.onOpe (fun e => { e with deckNext := 0, posValid := false, failCount := 0 })
  s.onBbf Bbf.unload

/-- Entry to UNLOADING REWIND_OUT: a reverse move to −2,000 (R11). -/
def State.enterRewindOut (s : State) : State :=
  (((s.enterDeck .rewindOut).setTimer none).setSearch none).onTsv (Tsv.orderMove Config.searchStart false .deck)

/-- Entry to UNLOADING WIND_OFF: the 6 s timer, the supply reel in fixed take-in and the take-up reel in zero mode (R11,
R57). -/
def State.enterWindOff (s : State) : State :=
  (((s.enterDeck .windOff).setTimer (some .windOff)).setSearch none).onTsv
    (fun v => { v.setModes .fixed .zero with windowReport := false })

/-- An unload starts (R10); `notReady` is false for an unload that carries out a failed search. -/
def State.unloadStart (notReady : Bool) (s : State) : State :=
  let s := s.unloadEffects.enterRewindOut
  if notReady then s.addEvents .deckNotReady else s

/-- WIND_OFF ends: both reel commands 0, brakes engaged, pump off, UNLOADED (R11, R57). -/
def State.windOffEnd (s : State) : State :=
  ((((s.onTsv (fun v => v.zeroReels.present)).enterDeck .unloaded).setTimer none).latchTest).finishDeckJob unloadedCode

/-! ## Fault stop -/

/-- The engine at the notice of fault stop: no operation, the outputs to the head electronics low, the flag clear, IDLE
(R63, R117). -/
def Ope.noticed (e : Ope) : Ope :=
  { e with phase := .idle, job := none, waiting := none, asking := false, attempt := 0, corrections := 0,
           posValid := false, wrErase := false, wrGate := false, wrMark := false }

/-- The permit dropped (R63, R158). -/
def Arb.dropPermit (r : Arb) : Arb := { r with holder := none, chainRun := 0, lastChain := false }

/-- The engine's part of a fault stop, and the arbiter's (R63). -/
def State.engineNotice (s : State) : State := (s.onOpe Ope.noticed).onArb Arb.dropPermit

/-- The slot of a job the notice ends becomes FREE (R63). -/
def State.freeJob (j : Option Job) (s : State) : State :=
  match j with
  | some j => s.onBbf (Bbf.freeOpt j.op.slot)
  | none => s

/-- A port's part of a fault stop: its motion operations leave the queue, those that owe a record completing
FAULT_ABORTED, and their slots become FREE (R63, R64). -/
def State.removeMotion (p : PortId) (s : State) : State :=
  let lost := (s.port p).queue.filter (fun o => o.cmd.isMotion)
  let kept := (s.port p).queue.filter (fun o => !o.cmd.isMotion)
  (s.freeSlots lost).onPort p
    (fun q => { q with queue := kept, status := q.status ++ owedRecs .faultAborted (fun _ => 0) lost })

/-- The writes of a queue. -/
def writesOf (l : List Op) : List Op := l.filter (fun o => o.cmd.isWrite)

/-- The lowest block of a list of writes. -/
def lowestBlock (l : List Op) : Option Nat := (l.filterMap (fun o => o.block)).min?

/-- The rollback of a fault stop for the writes `lost` of a port: a deferred error names the lowest of them whose record was
given at its take (R65, R163), the port being in BUFFERED mode at that take (R179; DEDUCED: notes/assumptions/16.md). -/
def State.faultRollback (p : PortId) (lost : List Op) (s : State) : State :=
  match lowestBlock lost with
  | some f => (s.rollbackTo p f 0).deferOpt p (lowestGiven lost)
  | none => s

/-- The rollback of an orphaned write that a fault stop ends (R133). -/
def State.orphanRollback (j : Option Job) (s : State) : State :=
  match j with
  | some j => if j.orphan && j.op.cmd.isWrite then s.rollbackOrphan j.n else s
  | none => s

/-- The fault stop (R62 to R65). A READ that it ends makes no traversal report, whatever its attempts (DESIGN CHOICE:
notes/assumptions/54.md). -/
def State.beginFaultStop (k : FaultKind) (s : State) : State :=
  let lostA := writesOf s.portA.queue
  let lostB := writesOf s.portB.queue
  let job := s.ope.job
  let waiting := s.ope.waiting
  let s := s.onDsq (fun q => { q.enter .faultStop with faultKind := some k, escKind := none, resume := some q.deck, timer := none, search := none })
  let s := (s.onTsv Tsv.orderFaultRamp).engineNotice
  let s := ((s.freeJob job).freeJob waiting)
  let s := (s.removeMotion .a).removeMotion .b
  let s := ((s.orphanRollback job).orphanRollback waiting)
  let s := (s.faultRollback .a lostA).faultRollback .b lostB
  s.addEvents .faultStopBegun

/-- The hard stop of an escalation: brakes engaged, the kind recorded (R67, R68). -/
def State.escalate (k : FaultKind) (s : State) : State :=
  ((s.onDsq (fun q => { q with escKind := some k })).enterDeck .faultedHard).onTsv Tsv.hardStop

/-- A report of the kind escalates to a hard stop in the deck state (R61, R67, R68). -/
def Deck.escalatesOn (d : Deck) (k : FaultKind) : Bool :=
  (d = .faultStop && (k = .loopOut || k = .tach || k = .vacuumLoss || k = .drive))
    || (d = .faultedSoft && (k = .vacuumLoss || k = .drive))

/-- A report in the deck state begins a fault stop (R61, R62). -/
def Deck.faultStops (d : Deck) : Bool := d.isLoading || d = .ready || d.isUnloading

/-- The deck sequencer acts on a fault report by the deck state (R61). -/
def State.takeFault (k : FaultKind) (s : State) : State :=
  if s.dsq.deck.faultStops then s.beginFaultStop k
  else if s.dsq.deck.escalatesOn k then s.escalate k
  else s

/-! ## Clearing a fault -/

/-- The five checks of a clear, each true when it fails: VAC-S, VAC-T, LOOP-S, LOOP-T, DRIVE (R70). -/
def State.failedChecks (s : State) : List Bool :=
  [!s.dsq.vacS, !s.dsq.vacT, !loopInRange s.tsv.supply.loop, !loopInRange s.tsv.takeup.loop, !s.driveGood]

/-- All five checks pass (R70). -/
def State.checksPass (s : State) : Bool := !s.failedChecks.any id

/-- The detail of CONDITION_PERSISTS: a bit for each check that failed (R72, R174). -/
def checksDetail (l : List Bool) : Nat := (l.zipIdx.map (fun x => if x.1 then 2 ^ x.2 else 0)).sum

/-- Where an accepted clear goes, by resume point and fault kind (R71). -/
def clearTarget (resume : Option Deck) (k : Option FaultKind) : Deck :=
  match resume with
  | some .vacuumUp | some .loopForm | some .loadPointSearch => .loadPointSearch
  | some .rezero => .rezero
  | some .rewindOut => .rewindOut
  | some .windOff => .windOff
  | _ => if k = some .tach then .rezero else .ready

/-- The three fault items become absent (R76). -/
def Dsq.noFault (q : Dsq) : Dsq := { q with faultKind := none, escKind := none, resume := none }

/-- The state an accepted clear goes to is entered with its entry actions (R71). -/
def State.resumeAt (d : Deck) (s : State) : State :=
  match d with
  | .loadPointSearch => s.enterLoadPointSearch
  | .rezero => s.enterRezero
  | .rewindOut => s.enterRewindOut
  | .windOff => s.enterWindOff
  | _ => s.enterReady

/-- An accepted clear (R71). -/
def State.acceptedClear (s : State) : State :=
  let d := clearTarget s.dsq.resume s.dsq.faultKind
  let s := (s.onDsq Dsq.noFault).onTsv Tsv.clearCounts
  let s := s.onOpe (fun e => { e with failCount := 0 })
  (s.resumeAt d).addEvents .faultCleared

/-- A hard clear adds DECK_NOT_READY when the deck had been ready since the last one (R73). -/
def hardNotReady (resume : Option Deck) : Bool := resume = some .ready || resume = some .rezero

/-- A hard clear: the effects of an unload's entry, and UNLOADED (R73). -/
def State.hardClear (s : State) : State :=
  let notReady := hardNotReady s.dsq.resume
  let s := ((s.onDsq Dsq.noFault).onTsv Tsv.clearCounts).unloadEffects
  let s := ((s.enterDeck .unloaded).setTimer none).latchTest
  let s := if notReady then s.addEvents .deckNotReady else s
  s.addEvents .faultCleared

end Sys2Proof.Machine
end

