-- ==== Sys2Proof/Machine/EngineOps.lean ====
section
/-! DEFINITION. The named operations of the Operation Engine: moves and runs (R118, R125, R137), positioning (R135, R136,
R139), the beginning of each operation (R4, R10, R118, R125, R141 to R144), failed writes (R123, R162), landings (R31,
R136, R144) and the judgement of the block at the read head (R116, R120). -/

namespace Sys2Proof.Machine

/-! ## Moves and runs -/

/-- The engine gives the servo an order (R24). -/
def State.engineOrder (f : Tsv → Tsv) (s : State) : State := s.onTsv (Tsv.engineOrder f)

/-- The executing operation moves to `x`: phase MOVE, no correction yet (R31, R135). -/
def State.moveTo (j : Job) (st : Stage) (x : Int) (forward : Bool) (s : State) : State :=
  (s.onOpe (fun e => { e with job := some { j with stage := st, moveTarget := x }, phase := .move, corrections := 0 })).engineOrder
    (Tsv.orderMove x forward .engine)

/-- A run forward at NORMAL (R32). -/
def State.runNormal (s : State) : State := s.engineOrder (Tsv.orderRun .normal true .engine)

/-- A STOP, in phase STOP, with the executing operation at a stage (R122, R127, R128, R146). -/
def State.stopAt (j : Job) (st : Stage) (s : State) : State :=
  (s.onOpe (fun e => { e with job := some { j with stage := st }, phase := .stop })).engineOrder (Tsv.orderStop .engine)

/-- Attempt `a` of a write is taken up: W computed, WR-ERASE raised, the run ordered, phase RUN (R118, R122, R131). -/
def State.runWrite (j : Job) (a : Nat) (s : State) : State :=
  (s.onOpe (fun e =>
    { e with job := some { j with stage := .writing }, phase := .run, attempt := a, w := e.expStart + Config.retryShift * a,
             wrErase := true, seen := Seen.nothing, handed := [] })).runNormal

/-- Attempt `a` of a read is taken up: its slot empty, WR-ERASE lowered, the run ordered, phase RUN (R125, R127). -/
def State.runRead (j : Job) (a : Nat) (s : State) : State :=
  let s := match j.op.slot with
    | some i => s.onBbf (Bbf.modify i (fun x => { x with data := [] }))
    | none => s
  (s.onOpe (fun e =>
    { e with job := some { j with stage := .reading }, phase := .run, attempt := a, wrErase := false,
             seen := Seen.nothing })).runNormal

/-- Blocks are read forward without delivery: the SCAN of a positioning, or a SPACE crossing (R137, R141). The attempt number
stands: these rules set none (DEDUCED: notes/assumptions/51.md). WR-ERASE is lowered here for a forward SPACE taken up as a
continuation of a write too, where R141 names the lowering at rest alone (DESIGN CHOICE: notes/assumptions/55.md). -/
def State.runScan (j : Job) (st : Stage) (s : State) : State :=
  (s.onOpe (fun e =>
    { e with job := some { j with stage := st }, phase := .scan, wrErase := false, seen := Seen.nothing })).runNormal

/-! ## The ends of operations -/

/-- The executing operation completes, at rest or at an end point. -/
def State.endOp (j : Job) (c : Code) (detail : Nat) (atRest : Bool) (s : State) : State :=
  (s.finishJob j c detail).after atRest

/-- The slot of the executing operation becomes FREE (R84, R85). -/
def State.freeOwn (j : Job) (s : State) : State := s.onBbf (Bbf.freeOpt j.op.slot)

/-- A granted write that has failed or been cancelled: its slot FREE, its own record, then the rollback to its block with
everything behind it lost; an orphaned one rolls back EOD alone (R123, R133, R146, R162, R163). -/
def State.failWrite (j : Job) (c : Code) (detail : Nat) (s : State) : State :=
  let s := (s.freeOwn j).finishJob j c detail
  match j.port with
  | none => s.rollbackOrphan j.n
  | some p =>
    let lost := (s.port p).queue
    ((s.loseOps p [] lost).rollbackTo p j.n 0).deferOpt p (lowestGiven (j.op :: lost))

/-- The magnitude of a SPACE count (R141, R142). -/
def Op.count (o : Op) : Nat := o.param.natAbs

/-- The executing operation ends without success, at rest or at an end point: a write as a failed write, a READ with its
slot FREE, the others with their record alone (R138, R140, R146). -/
def State.endFailed (j : Job) (c : Code) (detail : Nat) (atRest : Bool) (s : State) : State :=
  (if j.op.cmd.isWrite then s.failWrite j c detail else (s.freeOwn j).finishJob j c detail).after atRest

/-- The detail of an operation that ends CANCELLED: a SPACE's residual, a write's block, 0 for the others (R146). -/
def Job.cancelDetail (j : Job) : Nat :=
  match j.op.cmd with
  | .space => j.op.count - j.crossed
  | .writeBlock => j.n
  | .writeMark => j.n
  | _ => 0

/-- A forward SPACE begins to cross: its crossed count 0 (R141), and with the tape running, as a continuation or after a SCAN,
the attempt number 0 (R131, R139). -/
def State.runCrossing (j : Job) (atRest : Bool) (s : State) : State :=
  (s.onOpe (fun e => { e with attempt := if atRest then e.attempt else 0 })).runScan { j with crossed := 0 } .crossing

/-- A READ or forward SPACE at the end of data completes END_OF_DATA with nothing done (R139). -/
def State.endOfData (j : Job) (atRest : Bool) (s : State) : State :=
  match j.op.cmd with
  | .space => s.endOp j .endOfData j.op.count atRest
  | _ => (s.freeOwn j).endOp j .endOfData j.n atRest

/-! ## Positioning -/

/-- Positioning is complete and the operation proceeds: at rest, or with the tape running after a SCAN or at a
continuation (R139, R131, R142, R143). A backward SPACE or a LOCATE whose target a new EOD has fallen below ends
END_OF_DATA (R160; DEDUCED: notes/assumptions/39.md) with its port at EOD and the detail of its own rule, which for a LOCATE is
the target fixed at the grant (R139). -/
def State.positioned (j : Job) (atRest : Bool) (s : State) : State :=
  match j.op.cmd with
  | .readBlock => if s.bdr.atEnd j.n then s.endOfData j atRest else s.runRead j 0
  | .writeBlock => s.runWrite j 0
  | .writeMark => s.runWrite j 0
  | .space =>
    if 0 < j.op.param then
      if s.bdr.atEnd j.n then s.endOfData j atRest else s.runCrossing j atRest
    else
      (s.jobNext j j.goal).endOp j (if s.bdr.endsBelow j.goal then .endOfData else .ok) (j.op.count - (j.n - j.goal)) atRest
  | .locate =>
    (s.jobNext j j.goal).endOp j (if j.toEod || s.bdr.endsBelow j.goal then .endOfData else .ok) j.goal atRest
  | _ => s

/-- The rest point a lookup's lower answer gives, and the way that takes it (R106, R135). -/
def lowerWay (d : Bdr) (t : Nat) : Way × Nat × Int :=
  match d.lookup t with
  | .exact e => (.lower e.num e.start, e.num, e.rest)
  | .lower e => (.lower e.num e.start, e.num, e.rest)
  | .loadPoint => (.loadPoint, 0, 0)

/-- Block `t` is EOD and the block before it has an entry: that entry (R135, case 3). -/
def eodEntry (d : Bdr) (t : Nat) : Option Entry :=
  if d.eod = some t ∧ 0 < t then d.entry (t - 1) else none

/-- A positioning move to `x`: forward when it lies above the counter, reverse otherwise (R135). -/
def State.positionMove (j : Job) (w : Way) (x : Int) (s : State) : State :=
  s.moveTo j (.positioning w) x (decide (s.tsv.counter < x))

/-- Positioning to the block the job goes to begins (R135). `atRest` is false only when the tape runs at an end point,
and then the first case holds (R131). -/
def State.positionTo (j : Job) (atRest : Bool) (s : State) : State :=
  let t := j.goal
  if s.ope.posValid ∧ s.ope.deckNext = t then s.positioned j atRest
  else
    match s.bdr.entry t with
    | some e => s.positionMove j (.exact e.start) e.rest
    | none =>
      match eodEntry s.bdr t with
      | some e => s.positionMove j (.afterEod e.endPos) (e.endPos + 350)
      | none =>
        let w := lowerWay s.bdr t
        if s.ope.posValid ∧ s.ope.deckNext = w.2.1 then s.runScan j .scanning
        else s.positionMove j w.1 w.2.2

/-- The engine's numbers at the accepted landing of a positioning move (R136). -/
def Ope.landed (w : Way) (t : Nat) (e : Ope) : Ope :=
  match w with
  | .exact start => { e with deckNext := t, expStart := start, posValid := true }
  | .afterEod endPos => { e with deckNext := t, expStart := endPos + Config.gap, posValid := true }
  | .lower k start => { e with deckNext := k, expStart := start, posValid := true }
  | .loadPoint => { e with deckNext := 0, expStart := Config.firstStart, posValid := true }

/-! ## The beginning of an operation -/

/-- The job of an operation granted: the block it names, and where it positions to, as they stand at the grant (R139,
R142, R143). -/
def State.jobOf (p : PortId) (o : Op) (s : State) : Job :=
  let next := (s.port p).next
  let n := if o.cmd.isWrite then o.block.getD next else next
  let goal := match o.cmd with
    | .locate => s.bdr.bound o.param.toNat
    | .space => if 0 < o.param then n else n - o.count
    | _ => n
  { actor := .port p, op := o, n := n, orphan := false, aborted := false, stage := .deck, goal := goal, moveTarget := 0,
    crossed := 0, toEod := o.cmd = .locate ∧ s.bdr.atEnd o.param.toNat }

/-- A READ or forward SPACE is at the end of data (R125, R139). -/
def State.atDataEnd (s : State) (n : Nat) : Bool := s.bdr.atEnd n || n = Config.blockLimit

/-- The granted operation begins, with the tape at rest or as a continuation (R4, R10, R118, R125, R139, R141 to
R144). -/
def State.beginOp (j : Job) (atRest : Bool) (s : State) : State :=
  match j.op.cmd with
  | .load =>
    let s := s.onOpe (fun e => { e with job := some { j with stage := .deck }, phase := .move })
    if s.dsq.deck = .ready then s.finishDeckJob (fun _ => .ok)
    else if s.driveGood then s.loadStart
    else s.loadFail
  | .unload => (s.onOpe (fun e => { e with job := some { j with stage := .deck }, phase := .move })).unloadStart true
  | .rewind => s.moveTo j .rewinding 0 (decide (¬ 0 < s.tsv.counter))
  | .readBlock => if s.atDataEnd j.n then s.endOfData j atRest else s.positionTo j atRest
  | .writeBlock => s.positionTo j atRest
  | .writeMark => s.positionTo j atRest
  | .space =>
    if j.op.param = 0 then s.endOp j .ok 0 atRest
    else if 0 < j.op.param then
      if s.atDataEnd j.n then s.endOfData j atRest else s.positionTo j atRest
    else if j.goal = j.n then s.endOp j .ok j.op.count atRest
    else s.positionTo j atRest
  | .locate => s.positionTo j atRest
  | _ => s

/-- The operation is a continuation: a READ, a write or a forward SPACE of the deck next-block number, the position
valid, and for a READ EOD above it (R131). -/
def State.continues (j : Job) (s : State) : Bool :=
  s.ope.posValid && s.ope.deckNext = j.n &&
    match j.op.cmd with
    | .readBlock => !s.atDataEnd j.n
    | .writeBlock => true
    | .writeMark => true
    | .space => decide (0 < j.op.param)
    | _ => false

/-! ## Landings -/

/-- The expected start a landing at the load point takes: the start of block 0's entry, else 3,000 (R144). -/
def Bdr.blockZeroStart (d : Bdr) : Int :=
  match d.entry 0 with
  | some e => e.start
  | none => Config.firstStart

/-- A landing accepted, by what the move was for (R128, R136, R138, R144, R145). A write that ends END_OF_DATA at its landing
leaves the position-valid flag that the landing set (R138; DEDUCED: notes/assumptions/43.md). A landing at the load point
toward block 0 itself has no block for R137 to read: there is no SCAN, and the positioning is complete at rest (R136;
DEDUCED: notes/assumptions/49.md). -/
def State.landed (j : Job) (s : State) : State :=
  match j.stage with
  | .positioning w =>
    let s := s.onOpe (Ope.landed w j.goal)
    match w with
    | .exact _ => s.positioned j true
    | .afterEod _ => s.positioned j true
    | .lower _ _ => if s.ope.deckNext = j.goal then s.positioned j true else s.runScan j .scanning
    | .loadPoint => if s.ope.deckNext = j.goal then s.positioned j true else s.runScan j .scanning
  | .retryMove =>
    if j.op.cmd.isWrite then s.runWrite j (s.ope.attempt + 1) else s.runRead j (s.ope.attempt + 1)
  | .blankMove inScan =>
    let s := s.onOpe (fun e => { e with posValid := true })
    let b := s.ope.deckNext
    if inScan then
      if j.op.cmd.isWrite then (s.endFailed j .endOfData b true).jobNext j b
      else (s.jobNext j b).endFailed j .endOfData (if j.op.cmd = .space ∧ 0 < j.op.param then j.op.count - j.crossed else b) true
    else (s.onOpe (fun e => { e with deckNext := j.n })).endFailed j .blankTape j.n true
  | .rewinding =>
    let s := s.onOpe (fun e => { e with deckNext := 0, posValid := true, expStart := s.bdr.blockZeroStart })
    (s.jobNext j 0).endOp j .ok 0 true
  | _ => s

/-- The block before which a move was to rest, the detail of POSITIONING_FAILED (R140). -/
def State.restBlock (j : Job) (s : State) : Nat :=
  match j.stage with
  | .positioning _ => j.goal
  | .retryMove => j.n
  | .blankMove inScan => if inScan then s.ope.deckNext else j.n
  | _ => 0

/-- A third correction has failed: the operation ends POSITIONING_FAILED with the flag clear (R31, R140). A READ whose retry move
fails makes no traversal report (DESIGN CHOICE: notes/assumptions/54.md). -/
def State.positioningFailed (j : Job) (s : State) : State :=
  let d := s.restBlock j
  (s.onOpe (fun e => { e with posValid := false })).endFailed j .positioningFailed d true

/-- The engine takes a move completion with final error `e` (R31). An orphaned operation's landing is judged like any
other (R133). -/
def State.moveDone (e : Int) (s : State) : State :=
  match s.ope.job with
  | none => s
  | some j =>
    if e.natAbs ≤ Config.landing then s.landed j
    else if s.ope.corrections < Config.maxCorrections then
      (s.onOpe (fun x => { x with corrections := x.corrections + 1 })).engineOrder
        (Tsv.orderMoveAt j.moveTarget (decide (e < 0)) .creep .engine)
    else s.positioningFailed j

/-! ## The block at the read head -/

/-- The engine looks for read arrivals: RUN or TRANSFER of a read, SCAN and SPACE, and TRANSFER or VERIFY of a write
(R116). -/
def State.looking (s : State) : Bool :=
  match s.ope.job with
  | none => false
  | some j =>
    match j.stage with
    | .scanning => true
    | .crossing => true
    | .reading => true
    | .writing => s.ope.phase = .transfer || s.ope.phase = .verify
    | _ => false

/-- The engine is looking as a verification does (R120). -/
def State.verifying (s : State) : Bool :=
  match s.ope.job with
  | none => false
  | some j => j.stage = .writing

/-- The data length of a block seen: the bytes counted less its check field (R116). -/
def Seen.dataLen (k : CheckKind) (x : Seen) : Nat := x.count - k.size

/-- The block is a tape mark: the mark pattern was seen, and RD-SIG fell (R116). -/
def Seen.isMark (x : Seen) : Bool := x.mark && !x.limited

/-- The block's length is one a data block can have (R116). -/
def Seen.lenOk (k : CheckKind) (x : Seen) : Bool :=
  k.size < x.count && decide (x.count - k.size ≤ Config.maxBytes) && !x.limited

/-- The data bytes of a block seen. -/
def Seen.data (k : CheckKind) (x : Seen) : List Byte := x.bytes.take (x.dataLen k)

/-- A good check: the recorded field is the one computed over the data (R115, R116). A mark is not checked. -/
def Seen.good (k : CheckKind) (x : Seen) : Bool :=
  x.isMark || (x.lenOk k && decide (x.bytes.drop (x.dataLen k) = checkField k (x.data k)))

/-- The byte length a block is reported with (R116). -/
def Seen.reportLen (k : CheckKind) (x : Seen) : Nat := if x.isMark then 0 else limitNat 1 Config.maxBytes (x.dataLen k)

/-- The extent a block is reported with: 300 for a mark, by its length for a data block, and by the travel for a block of
no proper length or ended at the limit (R116). -/
def Seen.reportExtent (k : CheckKind) (x : Seen) : Int :=
  if x.isMark then Config.markExtent
  else if x.lenOk k then dataExtent (x.dataLen k)
  else limit 121 2742 (x.endAt.getD 0 - x.start - 280)

/-- The traversal report of a block seen (R101). -/
def Seen.report (k : CheckKind) (n : Nat) (x : Seen) : Traversal :=
  { num := n, start := x.start, extent := x.reportExtent k, len := x.reportLen k, mark := x.isMark,
    failed := !x.good k }

/-- The end point of a block seen (R125, R137). -/
def Seen.endPoint (k : CheckKind) (x : Seen) : Int := x.start + x.reportExtent k + Config.headGap

/-- The block seen has ended and its end point has been reached (R125). -/
def State.endPointDue (s : State) : Bool :=
  s.ope.seen.endAt.isSome && decide (s.ope.seen.endPoint s.dsq.params.check ≤ s.tsv.counter)

/-- The engine's numbers after block `k` has been passed: the next block, valid, and its expected start (R114, R134). -/
def Ope.passed (k : Nat) (endPos : Int) (e : Ope) : Ope :=
  { e with deckNext := k + 1, posValid := true, expStart := endPos + Config.gap }

/-- The position of the end of the block seen. -/
def State.seenEnd (s : State) : Int := s.ope.seen.start + s.ope.seen.reportExtent s.dsq.params.check

/-- The traversal report of the block seen as block `n` is handed to the directory (R101). -/
def State.reportSeen (n : Nat) (s : State) : State :=
  s.onBdr (Bdr.traverse (s.ope.seen.report s.dsq.params.check n))

/-- The traversal report of the block seen as block `n`, taken with the engine's numbers after it (R101, R126, R137). -/
def State.passSeen (n : Nat) (s : State) : State := (s.reportSeen n).onOpe (Ope.passed n s.seenEnd)

/-- The extent of the write being executed (R118, R124). -/
def State.writeExtent (j : Job) (s : State) : Int :=
  if j.op.cmd = .writeMark then Config.markExtent
  else match j.op.slot with
    | some i => dataExtent (s.bbf.slot i).len
    | none => dataExtent 0

/-- The verification passes (R120, R124). -/
def State.verifyPasses (j : Job) (s : State) : Bool :=
  let x := s.ope.seen
  let ended := decide (x.rises = 1) && x.endAt.isSome && !x.limited
  if j.op.cmd = .writeMark then ended && x.mark
  else
    match j.op.slot with
    | some i =>
      let all := writtenBytes s.dsq.params.check (s.bbf.slot i).data
      ended && !x.mark && decide (x.count = all.length) && decide (x.bytes = s.ope.handed) && decide (s.ope.handed = all)
    | none => false

/-- A failure raises the consecutive failure count, which does not pass its limit (R129). -/
def State.raiseFailures (s : State) : State :=
  s.onOpe (fun e => { e with failCount := min s.dsq.params.failLimit (e.failCount + 1) })

/-- The failure limit has been reached: MEDIA is reported and the operation is held in STOP until the notice (R129). -/
def State.mediaHold (j : Job) (s : State) : State := (s.stopAt j .mediaHold).reportFault FaultKind.media.report

end Sys2Proof.Machine
end

