-- ==== Sys2Proof/Machine/Ops.lean ====
section
/-! DEFINITION. What ends every event: operations completed at their ports (R88, R148, R149), the arbiter's choice and
grant (R157 to R159), the stop when there is no continuation (R130), the event records (R177) and the stamping of the
records the event placed (R174). -/

namespace Sys2Proof.Machine

/-! ## Heads, readiness and hits -/

/-- The head operation of a port that is not granted; a port out of service by its strap has none (R22, R157). -/
def State.head (s : State) (p : PortId) : Option Op :=
  if s.enabled p then
    match (s.port p).queue with
    | o :: _ => if o.granted then none else some o
    | [] => none
  else none

/-- A head operation is ready for the arbiter (R4, R157). -/
def State.opReady (s : State) (p : PortId) (o : Op) : Bool :=
  let motion := s.dsq.deck = .ready && s.dsq.online
  match o.cmd with
  | .load => s.dsq.online && s.ope.phase = .idle && (s.dsq.deck = .unloaded || s.dsq.deck = .ready)
  | .readBlock => motion && decide (s.charge p < Config.maxCharge) && !s.bbf.writesBlock (s.port p).next
  | .writeBlock => motion
  | .writeMark => motion
  | .space => motion
  | .locate => motion
  | .rewind => motion
  | .unload => motion && s.arb.writer ≠ some p.other && (s.port p.other).queue.isEmpty
  | _ => false

/-- A port is a candidate for the arbiter (R158). -/
def State.isCandidate (s : State) (p : PortId) : Bool :=
  match s.head p with
  | some o => s.opReady p o
  | none => false

/-- The slot from which a port's head READ is served from the cache, when every condition of R88 holds. -/
def State.hitSlot (s : State) (p : PortId) : Option Nat :=
  match s.head p with
  | some o =>
    if o.cmd = .readBlock ∧ s.bdr.atEnd (s.port p).next = false ∧ s.charge p < Config.maxCharge
        ∧ (s.port p).deferred = none then
      match s.bbf.cachedSlot (s.port p).next with
      | some i => if (s.bbf.slot i).pins < 2 then some i else none
      | none => none
    else none
  | none => none

/-- A port operation stands at a port's head (R148, R149). -/
def State.portOpAt (s : State) (p : PortId) : Option Op :=
  match s.head p with
  | some o => if o.cmd = .pushMark ∨ o.cmd = .returnToMark then some o else none
  | none => none

/-! ## Operations completed at the port -/

/-- The head operation leaves its queue with a record. -/
def State.completeHead (p : PortId) (r : Rec) (s : State) : State :=
  s.onPort p (fun q => { q with queue := q.queue.tail, status := q.status ++ [r] })

/-- The stack after a push: at depth 4 the bottom mark is discarded and the overflow flag set (R148). -/
def Port.pushed (q : Port) : Port :=
  if q.marks.length < Config.maxMarks then { q with marks := q.marks ++ [q.next] }
  else { q with marks := q.marks.tail ++ [q.next], overflow := true }

/-- PUSH MARK and RETURN TO MARK complete at the head (R148, R149). -/
def State.portOp (p : PortId) (o : Op) (s : State) : State :=
  let q := s.port p
  if o.cmd = .pushMark then (s.onPort p Port.pushed).completeHead p (opRec o .ok q.next)
  else
    match q.marks.getLast? with
    | some m =>
      (s.onPort p (fun q => { q with marks := q.marks.dropLast, next := m })).completeHead p (opRec o .ok m)
    | none => (s.onPort p (fun q => { q with overflow := false })).completeHead p (opRec o .markStackEmpty q.next)

/-- A READ served from the cache (R88). -/
def State.serveHit (p : PortId) (i : Nat) (s : State) : State :=
  match (s.port p).queue with
  | o :: _ =>
    let n := (s.port p).next
    let r : Rec :=
      { kind := .data, tag := o.tag, cmd := o.cmd.code, code := if s.ope.eotLatch then .okEot else .ok, detail := n,
        payload := .pinned i (s.bbf.slot i).len, stamp := none }
    ((s.completeHead p r).onBbf (Bbf.hit i)).onPort p (fun q => { q with next := n + 1 })
  | [] => s

/-! ## The arbiter -/

/-- The chain rule: the holder goes on (R159). -/
def State.chainGoesOn (s : State) (cand : PortId → Bool) (p : PortId) : Bool :=
  s.arb.holder = some p && s.arb.lastChain && cand p && (decide (s.arb.chainRun < Config.maxChain) || !cand p.other)

/-- The port the arbiter chooses among the candidates, and whether by the chain rule (R159). -/
def State.choose (s : State) (cand : PortId → Bool) : Option (PortId × Bool) :=
  if s.chainGoesOn cand .a then some (.a, true)
  else if s.chainGoesOn cand .b then some (.b, true)
  else if cand .a && cand .b then some (s.arb.lastServed.other, false)
  else if cand .a then some (.a, false)
  else if cand .b then some (.b, false)
  else none

/-- The arbiter's state after a grant (R159). -/
def Arb.granted (p : PortId) (byChain : Bool) (o : Op) (r : Arb) : Arb :=
  { r with holder := some p, lastServed := p, chainRun := if byChain then min Config.maxChain (r.chainRun + 1) else 0,
           lastChain := o.chain }

/-- The slot of an operation granted: a write's becomes WRITING, and a READ obtains a READING slot (R83, R85). -/
def State.grantSlot (p : PortId) (o : Op) (s : State) : Option Nat × State :=
  match o.cmd with
  | .writeBlock =>
    match o.slot with
    | some i => (o.slot, s.onBbf (Bbf.modify i (fun x => { x with state := .writing })))
    | none => (none, s)
  | .readBlock =>
    match s.bbf.candidate with
    | some i =>
      (some i, s.onBbf (Bbf.take i { Slot.freed with state := .reading, owner := some p, block := some (s.port p).next, tag := o.tag }))
    | none => (none, s)
  | _ => (o.slot, s)

/-- The head operation of a port, marked granted with its slot. -/
def markGranted (o : Op) : List Op → List Op
  | _ :: l => o :: l
  | [] => []

/-- The engine granted to a port (R159): with the tape at rest the operation begins; at an end point a continuation is
taken up at once, and any other waits for the stop (R130, R131), even one that will complete with no motion (DEDUCED:
notes/assumptions/42.md). -/
def State.grant (p : PortId) (byChain : Bool) (s : State) : State :=
  match (s.port p).queue with
  | [] => s
  | o :: _ =>
    let (slot, s) := s.grantSlot p o
    let o := { o with granted := true, slot := slot }
    let s := s.onPort p (fun q => { q with queue := markGranted o q.queue })
    let s := s.onArb (Arb.granted p byChain o)
    let j := s.jobOf p o
    if s.ope.asking then
      let s := s.onOpe (fun e => { e with asking := false })
      if s.continues j then s.beginOp j false
      else (s.onOpe (fun e => { e with waiting := some j, phase := .stop })).engineOrder (Tsv.orderStop .engine)
    else s.beginOp j true

/-! ## Settling -/

/-- One free choice drawn (assumption 3). -/
def State.draw (s : State) : Bool × State := (Config.eitherFirst s.draws, s.drawn 1)

/-- The arbiter may choose: the engine is IDLE, or asks at an end point (R158). -/
def State.mayChoose (s : State) : Bool := s.ope.asking || (s.ope.phase = .idle && s.ope.job.isNone)

/-- The arbiter's next grant. When the engine was IDLE before the event and the event made both heads ready, either may be
taken first, and it is then the only candidate (R158); otherwise R159. -/
def State.grantNext (fresh : Bool) (s : State) : Option State :=
  let cand := s.isCandidate
  if fresh && cand .a && cand .b then
    let (x, t) := s.draw
    let p : PortId := if x then .a else .b
    (t.choose (fun q => q = p)).map (fun c => t.grant c.1 c.2)
  else (s.choose cand).map (fun c => s.grant c.1 c.2)

/-- A READ served from the cache; when both ports' tests pass, either may be taken first (R88). -/
def State.hitNext (a b : Option Nat) (s : State) : Option State :=
  match a, b with
  | some i, some k =>
    let (x, t) := s.draw
    some (if x then t.serveHit .a i else t.serveHit .b k)
  | some i, none => some (s.serveHit .a i)
  | none, some k => some (s.serveHit .b k)
  | none, none => none

/-- The next thing an event brings about at the heads of the queues, and whether both heads may still have become ready
together: a port operation completes, or a READ is served from the cache, or the arbiter grants. A hit and a grant that
meet are taken in either order (R157). -/
def State.settleOne (fresh : Bool) (s : State) : Option (State × Bool) :=
  match s.portOpAt .a, s.portOpAt .b with
  | some o, _ => some (s.portOp .a o, fresh)
  | none, some o => some (s.portOp .b o, fresh)
  | none, none =>
    let a := s.hitSlot .a
    let b := s.hitSlot .b
    let hit := a.isSome || b.isSome
    let choice := s.mayChoose && (s.isCandidate .a || s.isCandidate .b)
    if hit && choice then
      let (x, t) := s.draw
      if x then (t.hitNext a b).map (fun u => (u, fresh)) else (t.grantNext fresh).map (fun u => (u, false))
    else if hit then (s.hitNext a b).map (fun u => (u, fresh))
    else if choice then (s.grantNext fresh).map (fun u => (u, false))
    else none

/-- Everything the event brings about at the heads of the queues: each turn takes one operation from a queue or grants
it. -/
def settleLoop : Nat → Bool → State → State
  | 0, _, s => s
  | n + 1, fresh, s =>
    match s.settleOne fresh with
    | some (t, fresh') => settleLoop n fresh' t
    | none => s

/-- No operation continues at an end point: the engine orders STOP and enters phase STOP with no executing operation
(R130). -/
def State.closeAsk (s : State) : State :=
  if s.ope.asking then
    (s.onOpe (fun e => { e with asking := false, phase := .stop })).engineOrder (Tsv.orderStop .engine)
  else s

/-! ## Event records and stamps -/

/-- The conditions of the event record test at a port (R177). -/
def Port.eventDue (q : Port) : Bool :=
  q.linkAct && !q.hold && (q.pendingEv &&& q.mask) ≠ 0 && decide (q.recordCount < Config.maxRecords)

/-- An EVENT record placed: the kinds delivered leave the pending set, and the hold is set (R177). -/
def Port.deliver (q : Port) : Port :=
  let k := q.pendingEv &&& q.mask
  { q with
      pendingEv := q.pendingEv &&& ~~~ q.mask
      hold := true
      status := q.status ++
        [{ kind := .event, tag := 0, cmd := 0, code := .ok, detail := k.toNat, payload := .bytes [], stamp := none }] }

/-- The event record test at a port (R177). -/
def State.eventTest (p : PortId) (s : State) : State :=
  if s.enabled p && (s.port p).eventDue then s.onPort p Port.deliver else s

/-- Header byte 4, the flags and the next-block number as they stand (R174, Table 10-2). -/
def State.stampOf (s : State) (p : PortId) : Stamp :=
  let q := s.port p
  { deckByte := s.dsq.deck.byte
    flags := byteOf s.ope.eotLatch s.dsq.online (s.arb.writer = some p) q.deferred.isSome q.overflow false false false
    next := q.next }

/-- A record placed in this event takes its stamp (R174). -/
def Rec.stamped (x : Stamp) (r : Rec) : Rec := if r.stamp = none then { r with stamp := some x } else r

/-- Every record of a port placed in this step takes its stamp, with the values at the end of the whole step (R174; DEDUCED:
notes/assumptions/45.md). -/
def State.stampPort (p : PortId) (s : State) : State :=
  let x := s.stampOf p
  s.onPort p (fun q => { q with status := q.status.map (Rec.stamped x) })

/-- The end of an event that touches the records or the pending sets alone: the event record tests, and the stamps (R174,
R177). -/
def State.seal (s : State) : State := (((s.eventTest .a).eventTest .b).stampPort .a).stampPort .b

/-- The end of an event: the heads settled, the stop of R130, the event record tests and the stamps. `before` is the
state in which the event was taken. Where the event also lets a held WRITE BLOCK frame be admitted (R81), the cache hits and
the slot requests of grants made here come before that admission, which is its own row, but at the end of a record, where R175
puts the admission first; R79 allows either order (DESIGN CHOICE: notes/assumptions/48.md). -/
def State.settle (s before : State) : State :=
  (settleLoop (s.portA.queue.length + s.portB.queue.length) (before.ope.phase = .idle) s).closeAsk.seal

/-- A step of the part: while RESET is true no arrival is taken and no timer runs (R189). -/
def taken (s : State) (body : State → State) : Host.Outcome State Fault Refusal :=
  .next (if s.inReset then s else body s)

end Sys2Proof.Machine
end

