-- ==== Sys2Proof/Machine/DeckSteps.lean ====
section
/-! DEFINITION. The steps of the Deck Sequencer: the window reports and timers of load and unload, the travel limits, the
lamp flash, its input lines, the panel, and the fault reports (chapters 1 and 4). -/

namespace Sys2Proof.Machine

/-! ## Load, unload and re-zero -/

/-- LOOP_FORM_COMPLETE (R6). -/
def execLoopFormComplete (s : State) : Host.Outcome State Fault Refusal :=
  taken s fun s => if s.dsq.deck = .loopForm ∧ s.tsv.windowReport then s.enterLoadPointSearch else s

/-- WIND_OFF_COMPLETE (R11). -/
def execWindOffComplete (s : State) : Host.Outcome State Fault Refusal :=
  taken s fun s => if s.dsq.deck = .windOff ∧ s.tsv.windowReport then s.windOffEnd.settle s else s

/-- VACUUM_UP_TIMEOUT (R5). -/
def execVacuumUpTimeout (s : State) : Host.Outcome State Fault Refusal :=
  taken s fun s => if s.dsq.deck = .vacuumUp ∧ s.dsq.timer = some .vacuumUp then s.loadFail.settle s else s

/-- LOOP_FORM_TIMEOUT (R6). -/
def execLoopFormTimeout (s : State) : Host.Outcome State Fault Refusal :=
  taken s fun s => if s.dsq.deck = .loopForm ∧ s.dsq.timer = some .loopForm then s.loadFail.settle s else s

/-- WIND_OFF_TIMEOUT (R11). -/
def execWindOffTimeout (s : State) : Host.Outcome State Fault Refusal :=
  taken s fun s => if s.dsq.deck = .windOff ∧ s.dsq.timer = some .windOff then s.windOffEnd.settle s else s

/-- A search or pass fails: a STOP is ordered (R7, R13). -/
def State.searchFailed (p : SearchPass) (s : State) : State :=
  (s.setSearch (some ⟨p, .failed⟩)).onTsv (Tsv.orderStop .deck)

/-- LOAD_POINT_SEARCH_LIMIT (R7). -/
def execLoadPointSearchLimit (s : State) : Host.Outcome State Fault Refusal :=
  taken s fun s =>
    if s.dsq.search = some ⟨.load, .running⟩ ∧ Config.searchLimit ≤ s.dsq.searchTravel then s.searchFailed .load else s

/-- REZERO_TRAVEL_LIMIT (R13). -/
def execRezeroTravelLimit (s : State) : Host.Outcome State Fault Refusal :=
  taken s fun s =>
    if s.dsq.search = some ⟨.rezeroReverse, .running⟩ ∧ Config.rezeroLimit ≤ s.dsq.searchTravel then
      s.searchFailed .rezeroReverse
    else if s.dsq.search = some ⟨.rezeroForward, .running⟩ ∧ Config.searchLimit ≤ s.dsq.searchTravel then
      s.searchFailed .rezeroForward
    else s

/-- A deck state in which a lamp flashes (R16). -/
def Deck.flashes : Deck → Bool
  | .rezero | .faultStop | .faultedHard => true
  | _ => false

/-- LAMP_FLASH_EXPIRY (R16). -/
def execLampFlashExpiry (s : State) : Host.Outcome State Fault Refusal :=
  taken s fun s => if s.dsq.deck.flashes then s.onDsq (fun q => { q with flash := !q.flash }) else s

/-! ## Input lines -/

/-- The held level of a vacuum sense. -/
def Dsq.vac (q : Dsq) : Reel → Bool
  | .supply => q.vacS
  | .takeup => q.vacT

/-- The held level of a vacuum sense set. -/
def Dsq.setVac (r : Reel) (level : Bool) (q : Dsq) : Dsq :=
  match r with
  | .supply => { q with vacS := level }
  | .takeup => { q with vacT := level }

/-- VACUUM_ARRIVAL (R5, R18); an arrival at the level the line holds is none. -/
def execVacuumArrival (r : Reel) (level : Bool) (s : State) : Host.Outcome State Fault Refusal :=
  taken s fun s =>
    if s.dsq.vac r = level then s
    else
      let t := s.onDsq (Dsq.setVac r level)
      if level then (if t.dsq.deck = .vacuumUp ∧ t.dsq.vacS ∧ t.dsq.vacT then t.enterLoopForm else t)
      else t.reportWhen t.dsq.deck.detectsVacuumLoss FaultKind.vacuumLoss.report

/-- The held level of a drive line. -/
def Dsq.driveLine (q : Dsq) : DriveLine → Bool
  | .ampRdy => q.ampRdy
  | .ampFlt => q.ampFlt

/-- The held level of a drive line set. -/
def Dsq.setDriveLine (l : DriveLine) (level : Bool) (q : Dsq) : Dsq :=
  match l with
  | .ampRdy => { q with ampRdy := level }
  | .ampFlt => { q with ampFlt := level }

/-- The level of a drive line that is a failure: AMP-FLT true, AMP-RDY false (R19). -/
def driveFails : DriveLine → Bool → Bool
  | .ampRdy, level => !level
  | .ampFlt, level => level

/-- DRIVE_ARRIVAL (R19); an arrival at the level the line holds is none. -/
def execDriveArrival (l : DriveLine) (level : Bool) (s : State) : Host.Outcome State Fault Refusal :=
  taken s fun s =>
    if s.dsq.driveLine l = level then s
    else (s.onDsq (Dsq.setDriveLine l level)).reportWhen (driveFails l level && s.dsq.deck ≠ .unloaded) FaultKind.drive.report

/-- RING_ARRIVAL (R20). -/
def execRingArrival (level : Bool) (s : State) : Host.Outcome State Fault Refusal :=
  taken s (State.onDsq (fun q => { q with ring := level }))

/-- ONLINE_SWITCH_ARRIVAL (R14). -/
def execOnlineSwitchArrival (level : Bool) (s : State) : Host.Outcome State Fault Refusal :=
  taken s fun s =>
    if s.dsq.online = level then s
    else ((s.onDsq (fun q => { q with online := level })).addEvents .onlineChanged).settle s

/-! ## The panel -/

/-- A button other than RESET acts: offline, with the engine IDLE (R15). -/
def State.panelActs (s : State) : Bool := !s.dsq.online && s.ope.phase = .idle

/-- LOAD_BUTTON (R4, R15). -/
def execLoadButton (s : State) : Host.Outcome State Fault Refusal :=
  taken s fun s =>
    if s.panelActs && s.dsq.deck = .unloaded then (if s.driveGood then s.loadStart else s.loadFail) else s

/-- UNLOAD_BUTTON (R10, R15). -/
def execUnloadButton (s : State) : Host.Outcome State Fault Refusal :=
  taken s fun s =>
    if s.panelActs && s.dsq.deck = .ready && !s.bbf.hasWrite then (s.unloadStart true).settle s else s

/-- The operation of a panel rewind: no port, no record (R145). -/
def panelOp : Op :=
  { cmd := .rewind, tag := 0, param := 0, chain := false, owed := false, block := none, slot := none, granted := true }

/-- The job of a panel rewind (R145). -/
def panelJob : Job :=
  { actor := .panel, op := panelOp, n := 0, orphan := false, aborted := false, stage := .rewinding, goal := 0,
    moveTarget := 0, crossed := 0, toEod := false }

/-- REWIND_BUTTON (R15, R145). -/
def execRewindButton (s : State) : Host.Outcome State Fault Refusal :=
  taken s fun s =>
    if s.panelActs && s.dsq.deck = .ready then s.moveTo panelJob .rewinding 0 (decide (¬ 0 < s.tsv.counter)) else s

/-- RESET_BUTTON: acts as CLEAR FAULT in FAULTED with no record (R74). -/
def execResetButton (s : State) : Host.Outcome State Fault Refusal :=
  taken s fun s =>
    if s.dsq.deck = .faultedSoft then (if s.checksPass then s.acceptedClear.settle s else s)
    else if s.dsq.deck = .faultedHard then s.hardClear.settle s
    else s

/-! ## Fault reports -/

/-- A report that has been made leaves the list of those not yet taken. -/
def State.dropReport (x : FaultReport) (s : State) : State := s.onDsq (fun q => { q with faults := q.faults.erase x })

/-- FAULT_REPORT: the deck sequencer takes a report that has been made, and acts on its kind; one that is ignored changes no state
and gives no record or event (R61). -/
def execFaultReport (x : FaultReport) (s : State) : Host.Outcome State Fault Refusal :=
  taken s fun s =>
    if x ∈ s.dsq.faults then
      if s.dsq.deck.faultStops || s.dsq.deck.escalatesOn x.kind then ((s.dropReport x).takeFault x.kind).settle s
      else s.dropReport x
    else s

end Sys2Proof.Machine
end

