-- ==== Sys2Proof/Machine/LinkOps.lean ====
section
/-! DEFINITION. The named operations of a port's link: the receive-ready line and a frame's errors (R170, R171), the bytes
of a status record (Table 10-2), and the reset of a port (R165). -/

namespace Sys2Proof.Machine

/-! ## The frame in progress -/

/-- The header of the frame in progress. -/
def Rx.header (x : Rx) : Hdr := Hdr.parse x.bytes

/-- A frame header awaited, CI-FRM being true. -/
def Rx.fresh : Rx := { Rx.none with state := .header }

/-- CI-RDY: true while the port will take the next inbound byte (R170, R184, R189). -/
def State.ciRdy (s : State) (p : PortId) : Bool :=
  let x := (s.port p).rx
  !s.inReset && s.inService p &&
    match x.state with
    | .idle => true
    | .header => decide (x.bytes.length < 9)
    | .held => false
    | .data => true
    | .drain => true
    | .ended => false

/-- Change the frame in progress at a port. -/
def State.onRx (p : PortId) (f : Rx → Rx) (s : State) : State := s.onPort p (fun q => { q with rx := f q.rx })

/-- (DEDUCED in part: notes/assumptions/23.md.) The frame becomes an error frame: its FILLING slot, if any, becomes FREE, and the bytes to come are drained, or the
frame has ended (R82, R170, R171). -/
def State.frameFault (p : PortId) (s : State) : State :=
  let q := s.port p
  (s.onBbf (Bbf.freeOpt q.rx.slot)).onRx p
    (fun x => { x with state := if q.ciFrm then .drain else .ended, bad := true, slot := none })

/-- Odd parity: the eight data lines and the parity line carry an odd number of true levels (R168). -/
def oddParity (v : Byte) (parity : Bool) : Bool := (bitsUp v).foldl xor parity

/-- The parity level the port sends with a byte (R168). -/
def parityFor (v : Byte) : Bool := !(bitsUp v).foldl xor false

/-- Every byte of the frame's data has been received. -/
def State.dataComplete (s : State) (p : PortId) : Bool :=
  match (s.port p).rx.slot with
  | some i => decide ((s.bbf.slot i).len ≤ (s.bbf.slot i).data.length)
  | none => true

/-! ## Record bytes -/

/-- The code of a record kind (Table 10-2). -/
def RecKind.byte : RecKind → Byte
  | .complete => 1
  | .data => 2
  | .event => 3

/-- The data of a record, a slot's bytes being read as they are sent (R174). -/
def State.payloadBytes (s : State) : Payload → List Byte
  | .bytes l => l
  | .delivering i n => (s.bbf.slot i).data.take n
  | .pinned i n => (s.bbf.slot i).data.take n

/-- The data length of a record (Table 10-2). -/
def Payload.len : Payload → Nat
  | .bytes l => l.length
  | .delivering _ n => n
  | .pinned _ n => n

/-- The fifteen header bytes of a stamped record (Table 10-2). -/
def Rec.header (r : Rec) (x : Stamp) : List Byte :=
  [r.kind.byte, r.tag, r.cmd, r.code.byte, x.deckByte, x.flags] ++ beBytes 3 x.next ++ beBytes 4 r.detail
    ++ beBytes 2 r.payload.len

/-- The bytes of a stamped record as it is sent (Table 10-2). -/
def State.recordBytes (s : State) (r : Rec) (x : Stamp) : List Byte := r.header x ++ s.payloadBytes r.payload

/-- The number of bytes of a record. -/
def Rec.size (r : Rec) : Nat := 15 + r.payload.len

/-! ## Records leaving -/

/-- What a record references is released when its last byte is sent: a DELIVERING slot is discarded or enters CACHED, a
pin is released (R86, R89). -/
def Bbf.releaseSent (x : Payload) (b : Bbf) : Bbf :=
  match x with
  | .bytes _ => b
  | .delivering i _ => if (b.slot i).discard then b.free i else b.enterCached i
  | .pinned i _ => b.unpin i

/-- A record discarded releases its pin; a DELIVERING slot is freed with its port's slots (R89, R93). -/
def Bbf.releaseDiscarded (x : Payload) (b : Bbf) : Bbf :=
  match x with
  | .bytes _ => b
  | .delivering _ _ => b
  | .pinned i _ => b.unpin i

/-! ## Port reset -/

/-- A port in its power-on context: its link lines keep their levels, SO-FRM is low (R165, R169, R184). -/
def Port.resetContext (q : Port) : Port :=
  { Port.powerOn with linkAct := q.linkAct, ciFrm := q.ciFrm, soRdy := q.soRdy, soData := q.soData, soPar := q.soPar }

/-- The operation of a reset port is orphaned (R133). -/
def Job.orphanAt (p : PortId) (j : Job) : Job := if j.actor = .port p then { j with orphan := true } else j

/-- Steps 1 and 2 of R165: the slots and the pins of the port given back. -/
def State.giveBack (p : PortId) (s : State) : State :=
  let recs := (s.port p).status
  s.onBbf (fun b => (recs.foldl (fun b r => b.releaseDiscarded r.payload) b).mapSlots (Slot.portReset p))

/-- Step 3 of R165. -/
def State.orphanJobs (p : PortId) (s : State) : State :=
  s.onOpe (fun e => { e with job := e.job.map (Job.orphanAt p), waiting := e.waiting.map (Job.orphanAt p) })

/-- Step 4 of R165: the rollback to the lowest queued write that was not granted. -/
def State.dropQueued (p : PortId) (s : State) : State :=
  match lowestBlock (writesOf ((s.port p).queue.filter (fun o => !o.granted))) with
  | some f => s.rollbackOrphan f
  | none => s

/-- Step 5 of R165. -/
def State.releaseWriterAt (p : PortId) (s : State) : State :=
  if s.arb.writer = some p then
    (s.onArb (Arb.setWriter none)).addEvent .writerChanged p.other
  else s

/-- Step 6 of R165. -/
def Arb.releasePermit (p : PortId) (r : Arb) : Arb :=
  if r.holder = some p then r.dropPermit else r

/-- The reset of a port: steps 1 to 7 of R165, the receive state IDLE. -/
def State.resetPort (p : PortId) (s : State) : State :=
  let s := (((s.giveBack p).orphanJobs p).dropQueued p).releaseWriterAt p
  (s.onArb (Arb.releasePermit p)).onPort p Port.resetContext

/-- The take of PORT RESET: the port is reset, the record placed, and what is left of the frame is drained (R165, R170). -/
def State.takePortReset (p : PortId) (s : State) : State :=
  let h := (s.port p).rx.header
  let s := s.resetPort p
  (s.onRx p (fun x => { x with state := if (s.port p).ciFrm then .drain else .idle })).place p
    (completeRec h.tag h.code .ok 0 [])

end Sys2Proof.Machine
end

