-- ==== Sys2Proof/Machine/LinkSteps.lean ====
section
/-! DEFINITION. The steps of a port's link: the frame received byte by byte, its errors and its answers as a damaged or
unknown frame, the loss and return of the link, and the bytes of a record sent (R81, R165, R166, R168 to R172, R175). -/

namespace Sys2Proof.Machine

/-! ## Receiving a frame -/

/-- CI_FRM_RISES (R170); with the line true there is no rise. -/
def execCiFrmRises (p : PortId) (s : State) : Host.Outcome State Fault Refusal :=
  taken s fun s =>
    if (s.port p).ciFrm then s
    else
      let t := s.onPort p (fun q => { q with ciFrm := true })
      if t.inService p ∧ (t.port p).rx.state = .idle then t.onRx p (fun _ => Rx.fresh) else t

/-- A byte in HEADER before the ninth is stored; with bad parity it is stored and the frame is in error (R170, R171). -/
def State.headerByte (p : PortId) (v : Byte) (ok : Bool) (s : State) : State :=
  let t := s.onRx p (fun x => { x with bytes := x.bytes ++ [v] })
  if ok then t else t.frameFault p

/-- A data byte is stored at the next place of the frame's slot (R81). -/
def State.storeByte (p : PortId) (v : Byte) (s : State) : State :=
  match (s.port p).rx.slot with
  | some i => s.onBbf (Bbf.modify i (fun x => { x with data := x.data ++ [v] }))
  | none => s

/-- A byte taken within a frame, CI-FRM true and the port in service (R170, R171). A tag byte that comes in DRAIN is
discarded like any other (DEDUCED: notes/assumptions/44.md). -/
def State.byteIn (p : PortId) (v : Byte) (parity : Bool) (s : State) : State :=
  let x := (s.port p).rx
  let ok := oddParity v parity
  match x.state with
  | .idle => s
  | .header => if x.bytes.length < 9 then s.headerByte p v ok else s.frameFault p
  | .held => s.frameFault p
  | .data => if ok ∧ s.dataComplete p = false then s.storeByte p v else (s.frameFault p).settle s
  | .drain => s
  | .ended => if x.bad then s else (s.frameFault p).settle s

/-- INBOUND_BYTE (R168, R170): ignored while CI-FRM is false or the port is out of service. -/
def execInboundByte (p : PortId) (v : Byte) (parity : Bool) (s : State) : Host.Outcome State Fault Refusal :=
  taken s fun s => if (s.port p).ciFrm && s.inService p then s.byteIn p v parity else s

/-- The frame has ended. -/
def State.rxEnd (p : PortId) (s : State) : State := s.onRx p (fun x => { x with state := .ended })

/-- What the fall of CI-FRM does to the frame in progress (R170, R171). -/
def State.frameFall (p : PortId) (s : State) : State :=
  let x := (s.port p).rx
  match x.state with
  | .idle => s
  | .header => if x.bytes.length < 9 then s.frameFault p else if x.isRead then s.rxEnd p else s
  | .held => s.frameFault p
  | .data => if s.dataComplete p then s.rxEnd p else (s.frameFault p).settle s
  | .drain => if x.bad then s.rxEnd p else s.onRx p (fun _ => Rx.none)
  | .ended => s

/-- FRAME_END (R170); with CI-FRM false there is no fall. -/
def execFrameEnd (p : PortId) (s : State) : Host.Outcome State Fault Refusal :=
  taken s fun s =>
    if (s.port p).ciFrm then (s.onPort p (fun q => { q with ciFrm := false })).frameFall p else s

/-- The nine header bytes are in and have not been read (R170). -/
def Rx.headerDue (x : Rx) : Bool := x.state = .header && decide (9 ≤ x.bytes.length) && !x.isRead

/-- The port reads the header (R170). -/
def State.readHeader (p : PortId) (s : State) : State :=
  let q := s.port p
  let h := q.rx.header
  if h.inError then s.frameFault p
  else if h.cmd = some .portReset then (s.takePortReset p).settle s
  else if h.cmd = some .writeBlock ∧ 0 < h.dataLen then
    if q.ciFrm then s.onRx p (fun x => { x with state := .held, isRead := true }) else s.frameFault p
  else s.onRx p (fun x => { x with state := if q.ciFrm then .header else .ended, isRead := true })

/-- FRAME_HEADER_COMPLETE (R170). -/
def execFrameHeaderComplete (p : PortId) (s : State) : Host.Outcome State Fault Refusal :=
  taken s fun s => if (s.port p).rx.headerDue then s.readHeader p else s

/-- The conditions of R152 for the data of a WRITE BLOCK (R80, R81). -/
def State.mayAdmit (s : State) (p : PortId) : Bool :=
  let q := s.port p
  s.inService p && q.rx.state = .held && decide (q.recordCount < Config.maxRecords)
    && decide (q.queue.length < Config.maxOps) && q.queue.all (fun o => o.cmd.isWrite)
    && decide (s.charge p < Config.maxCharge)

/-- A slot is allocated in FILLING for the frame (R79, R81). -/
def State.allotSlot (p : PortId) (i : Nat) (s : State) : State :=
  let h := (s.port p).rx.header
  (s.onBbf (Bbf.take i { Slot.freed with state := .filling, owner := some p, len := h.dataLen, tag := h.tag })).onRx p
    (fun x => { x with state := .data, slot := some i })

/-- The data of the frame held is admitted into the slot that R79 gives. -/
def State.admitData (p : PortId) (s : State) : State :=
  match s.bbf.candidate with
  | some i => s.allotSlot p i
  | none => s

/-- WRITE_DATA_ADMITTED (R81, R152). -/
def execWriteDataAdmitted (p : PortId) (s : State) : Host.Outcome State Fault Refusal :=
  taken s fun s => if s.mayAdmit p then s.admitData p else s

/-! ## The take of a frame -/

/-- The frame in progress leaves the port; when CI-FRM is already true again, the next frame's header is awaited (R170). -/
def Port.nextFrame (q : Port) : Port := { q with rx := if q.ciFrm then Rx.fresh else Rx.none }

/-- A frame has ended at a port in service, and the port's record count is below 8 (R152, R170). -/
def State.endedWithRoom (s : State) (p : PortId) : Bool :=
  s.inService p && (s.port p).rx.state = .ended && decide ((s.port p).recordCount < Config.maxRecords)

/-- The frame that has ended leaves the port with an answer of its own, tag and code as received (R171, R172). -/
def State.answerFrame (p : PortId) (c : Code) (s : State) : State :=
  let h := (s.port p).rx.header
  (s.onPort p Port.nextFrame).place p (completeRec h.tag h.code c 0 [])

/-- An error frame has ended and may be taken (R172). -/
def State.errorFrameDue (s : State) (p : PortId) : Bool := s.endedWithRoom p && (s.port p).rx.bad

/-- A good frame of a code that is not in Table 10-3 has ended and may be taken (R172). -/
def State.unknownFrameDue (s : State) (p : PortId) : Bool :=
  s.endedWithRoom p && !(s.port p).rx.bad && (s.port p).rx.header.cmd = none

/-- FRAME_ERROR (R172). -/
def execFrameError (p : PortId) (s : State) : Host.Outcome State Fault Refusal :=
  taken s fun s => if s.errorFrameDue p then (s.answerFrame p .frameError).seal else s

/-- BAD_COMMAND (R172). -/
def execBadCommand (p : PortId) (s : State) : Host.Outcome State Fault Refusal :=
  taken s fun s => if s.unknownFrameDue p then (s.answerFrame p .badCommand).seal else s

/-! ## The link -/

/-- LINK_LOSS (R165, R169): with LINK-ACT false there is no loss, and a port out of service by its strap only holds the
level (R22). -/
def execLinkLoss (p : PortId) (s : State) : Host.Outcome State Fault Refusal :=
  taken s fun s =>
    if (s.port p).linkAct then
      let t := s.onPort p (fun q => { q with linkAct := false })
      if t.enabled p then (t.resetPort p).settle s else t
    else s

/-- LINK_RESTORED (R166): the event record test is made; with LINK-ACT true there is nothing to restore. -/
def execLinkRestored (p : PortId) (s : State) : Host.Outcome State Fault Refusal :=
  taken s fun s =>
    if (s.port p).linkAct then s else (s.onPort p (fun q => { q with linkAct := true })).seal

/-! ## Sending records -/

/-- The next byte of the head record, when the port has one to pass (R175). -/
def State.nextByte (s : State) (p : PortId) : Option Byte :=
  match (s.port p).status with
  | [] => none
  | r :: _ =>
    match r.stamp with
    | some x => (s.recordBytes r x)[(s.port p).sent]?
    | none => none

/-- A byte passed on the outbound link with odd parity (R168, R175). -/
def Port.pass (v : Byte) (q : Port) : Port :=
  { q with soFrm := true, soData := v, soPar := parityFor v, sent := q.sent + 1 }

/-- SO-FRM raised before the first byte of a record (R175). -/
def Port.raiseFrame (q : Port) : Port := { q with soFrm := true }

/-- STATUS_BYTE_SENT (R168, R175): in service the port raises SO-FRM for the record at the head and passes its next byte
while SO-RDY is true. That SO-FRM rises in this step is a DESIGN CHOICE (notes/assumptions/40.md). -/
def execStatusByteSent (p : PortId) (soRdy : Bool) (s : State) : Host.Outcome State Fault Refusal :=
  taken s fun s =>
    let t := s.onPort p (fun q => { q with soRdy := soRdy })
    match t.nextByte p with
    | some v => if t.inService p then t.onPort p (if soRdy then Port.pass v else Port.raiseFrame) else t
    | none => t

end Sys2Proof.Machine
end

