-- ==== Sys2Proof/Machine/TakeOps.lean ====
section
/-! DEFINITION. The named operations of the take of a frame (R152 to R154, R172): when a frame may be taken, the tests that
refuse it, a queued operation joining its queue, a write with its truncation (R160), and the answer of an immediate
command. -/

namespace Sys2Proof.Machine

/-! ## When a frame is taken -/

/-- A good frame of the command has ended at the port, with room for its record (R152, R170). -/
def State.holdsFrame (s : State) (p : PortId) (c : Cmd) : Bool :=
  s.endedWithRoom p && !(s.port p).rx.bad && (s.port p).rx.header.cmd = some c

/-- The queue has room (R152). -/
def Port.queueRoom (q : Port) : Bool := decide (q.queue.length < Config.maxOps)

/-- The conditions of R152 for the take of a frame of the command. Those of a WRITE BLOCK with data were met at its
admission, and its queue cannot have grown since: its test here holds then. -/
def State.takes (s : State) (p : PortId) (c : Cmd) : Bool :=
  s.holdsFrame p c &&
    match c with
    | .writeBlock => (s.port p).rx.header.dataLen = 0 || (s.port p).queueRoom
    | .writeMark => (s.port p).queueRoom && (s.port p).queue.all (fun o => o.cmd.isWrite)
    | _ => !c.isQueued || (s.port p).queueRoom

/-! ## Refusals -/

/-- The block number a write would be given (R154). -/
def Port.writeNumber (q : Port) : Nat := q.next + writesIn q.queue

/-- The tests of R153, in order: the code and the detail of the first that applies. -/
def State.refusal (s : State) (p : PortId) (c : Cmd) : Option (Code × Nat) :=
  let q := s.port p
  let d := s.dsq.deck
  match q.deferred with
  | some n => some (.deferredError, n)
  | none =>
    if c.isMotion && !s.dsq.online then some (.offline, 0)
    else if c = .load && (d.isUnloading || d = .faultStop || d.isFaulted) then some (.wrongState, 0)
    else if c.isMotion && c ≠ .load && d ≠ .ready then some (.wrongState, 0)
    else if c.isWrite && s.arb.writer ≠ some p then some (.notWriter, 0)
    else if c = .unload && (s.arb.writer = some p.other || !(s.port p.other).queue.isEmpty) then
      some (.otherPortActive, 0)
    else if c.isWrite && decide (Config.blockLimit ≤ q.writeNumber) then some (.badParameter, 0)
    else none

/-- The answer to a frame enters the status queue (R154, R174). -/
def State.answer (p : PortId) (h : Hdr) (c : Code) (detail : Nat) (data : List Byte) (s : State) : State :=
  s.place p (completeRec h.tag h.code c detail data)

/-- A frame refused at its take: its slot, if any, becomes FREE, and a DEFERRED_ERROR removes the deferred error (R82,
R153). -/
def State.refuse (p : PortId) (h : Hdr) (slot : Option Nat) (c : Code) (detail : Nat) (s : State) : State :=
  let t := (s.onBbf (Bbf.freeOpt slot)).answer p h c detail []
  if c = .deferredError then t.onPort p (fun q => { q with deferred := none }) else t

/-! ## Queued operations -/

/-- The operation a frame makes (R151). -/
def frameOp (c : Cmd) (h : Hdr) : Op :=
  { cmd := c, tag := h.tag, param := opParam c h.param, chain := h.chain, owed := true, block := none, slot := none,
    granted := false }

/-- An operation joins the tail of its queue (R154). -/
def State.joinQueue (p : PortId) (o : Op) (s : State) : State := s.onPort p (fun q => { q with queue := q.queue ++ [o] })

/-- A frame of a queued operation that is not a write refused, or its operation at the tail of the queue (R153, R154). -/
def State.queueFrame (p : PortId) (c : Cmd) (s : State) : State :=
  let h := (s.port p).rx.header
  let t := s.onPort p Port.nextFrame
  match s.refusal p c with
  | some (code, detail) => t.refuse p h none code detail
  | none => t.joinQueue p (frameOp c h)

/-- The take of a queued operation that is not a write (R153, R154). -/
def State.takeQueued (p : PortId) (c : Cmd) (s : State) : State :=
  if s.takes p c then (s.queueFrame p c).settle s else s

/-! ## Writes -/

/-- Truncation at `n`: the directory, the ports and the buffer, in that order (R160). -/
def State.truncateAt (n : Nat) (s : State) : State :=
  ((s.onBdr (Bdr.truncate n)).boundPorts).onBbf (Bbf.truncate n)

/-- The FILLING slot of a write's frame becomes PENDING with its block number, the tag dropped (R82). -/
def State.makePending (slot : Option Nat) (n : Nat) (s : State) : State :=
  match slot with
  | some i => s.onBbf (Bbf.modify i (fun x => { x with state := .pending, block := some n, tag := 0 }))
  | none => s

/-- The write is answered at its take (R154). -/
def Port.answersAtTake (q : Port) (c : Cmd) : Bool := q.mode = .buffered && c = .writeBlock

/-- The operation of a write of block `n` (R151, R154). -/
def writeOp (c : Cmd) (h : Hdr) (n : Nat) (slot : Option Nat) (atTake : Bool) : Op :=
  { frameOp c h with owed := !atTake, block := some n, slot := slot }

/-- The record of a buffered write given at its take (R132, R154). -/
def State.answerBuffered (p : PortId) (h : Hdr) (n : Nat) (s : State) : State :=
  s.answer p h (if s.ope.eotLatch then .okEot else .ok) n []

/-- A write taken as block `n` (R154, R160). -/
def State.acceptWrite (p : PortId) (c : Cmd) (h : Hdr) (slot : Option Nat) (n : Nat) (s : State) : State :=
  let atTake := (s.port p).answersAtTake c
  let t := ((s.truncateAt n).makePending slot n).joinQueue p (writeOp c h n slot atTake)
  if atTake then t.answerBuffered p h n else t

/-- A write's frame that passes its frame checks refused, or taken as a write (R153, R154). -/
def State.writeFrame (p : PortId) (c : Cmd) (s : State) : State :=
  let h := (s.port p).rx.header
  let slot := (s.port p).rx.slot
  let t := s.onPort p Port.nextFrame
  match s.refusal p c with
  | some (code, detail) => t.refuse p h slot code detail
  | none => t.acceptWrite p c h slot (s.port p).writeNumber

/-- The take of a write that passes its frame checks (R153, R154). -/
def State.takeWrite (p : PortId) (c : Cmd) (s : State) : State := (s.writeFrame p c).settle s

/-! ## Immediate commands -/

/-- A frame of an immediate command refused DEFERRED_ERROR under test 1 of R153, or answered by its own rule `body` (R154,
R172). -/
def State.immediateFrame (p : PortId) (body : Hdr → State → State) (s : State) : State :=
  let h := (s.port p).rx.header
  let t := s.onPort p Port.nextFrame
  match (s.port p).deferred with
  | some n => t.refuse p h none .deferredError n
  | none => body h t

/-- The take of an immediate command other than SENSE. The heads of the queues are looked at where the answer may have made one
ready: where a deferred error is removed, and where `readies` says so of the states before and after. -/
def State.takeImmediate (p : PortId) (c : Cmd) (body : Hdr → State → State) (readies : State → State → Bool) (s : State) : State :=
  if s.takes p c then
    let t := s.immediateFrame p body
    if (s.port p).deferred.isSome || readies s t then t.settle s else t.seal
  else s

end Sys2Proof.Machine
end

