-- ==== Sys2Proof/Machine/SenseOps.lean ====
section
/-! DEFINITION. The data of the SENSE and QUERY DIRECTORY records (R180, R181, Table 10-6). -/

namespace Sys2Proof.Machine

/-- The sighting state of a marker (Table 10-6, byte 24). -/
def Sighting.code : Sighting → Nat
  | .clear => 0
  | .seeing _ _ => 1
  | .accepted => 2

/-- The code of an order (Table 10-6, byte 17). -/
def Order.code : Order → Byte
  | .none => 0
  | .move _ _ => 1
  | .run _ _ _ => 2
  | .stop _ _ => 3
  | .faultRamp => 4

/-- The code of an engine phase (Table 10-6, byte 49). -/
def Phase.byte : Phase → Byte
  | .idle => 0
  | .move => 1
  | .scan => 2
  | .run => 3
  | .transfer => 4
  | .verify => 5
  | .stop => 6

/-- The code of a reel's command mode (Table 10-6). -/
def ReelMode.byte : ReelMode → Byte
  | .zero => 0
  | .forming => 1
  | .regulated => 2
  | .fixed => 3

/-- The code of a port, 0 none (Table 10-6). -/
def portByte : Option PortId → Byte
  | none => 0
  | some .a => 1
  | some .b => 2

/-- A flag as a byte. -/
def flagByte (b : Bool) : Byte := if b then 1 else 0

/-- A number below 256 as a byte. -/
def natByte (n : Nat) : Byte := BitVec.ofNat 8 n

/-- `n` bytes for which Table 10-6 states no value, free values counted from `k` (assumption 4). -/
def unstated (k n : Nat) : List Byte := (List.range n).map (fun i => Config.unstatedByte (k + i))

/-- Bytes 0 to 11: the deck sequencer. -/
def Dsq.sense (q : Dsq) : List Byte :=
  [q.deck.byte, faultByte q.faultKind, faultByte q.escKind, (q.resume.map Deck.byte).getD 0xFF, natByte q.autoCount,
   byteOf q.writeEnable q.online q.portbEn q.ampRdy q.ampFlt q.vacS q.vacT q.ring, natByte q.deckNum,
   natByte q.params.gain, (match q.params.check with | .k16 => 16 | .k32 => 32), natByte q.params.retryLimit,
   natByte q.params.failLimit, flagByte q.params.autoClear]

/-- Ten bytes of a reel (bytes 29 to 48). -/
def ReelState.sense (r : ReelState) : List Byte :=
  beBytes 2 r.loop ++ beInt 2 r.pack ++ beInt 2 r.cmd ++
    [r.mode.byte, flagByte r.satFlag, natByte r.satCount, flagByte r.latchOut]

/-- Byte 24: the markers. Table 10-6 gives bits 6 and 7 no meaning, and the model sends them as 0 (DESIGN CHOICE:
notes/assumptions/50.md). -/
def Tsv.markerByte (v : Tsv) : Byte :=
  natByte (v.lp.code + 4 * v.eot.code + 16 * v.eotPassed.toNat + 32 * v.eotPos.isSome.toNat)

/-- Bytes 12 to 48: the servo. The EOT marker position has no stated value when it is not recorded, and is sent in two's
complement (DESIGN CHOICE: notes/assumptions/53.md). -/
def Tsv.sense (k : Nat) (v : Tsv) : List Byte :=
  beInt 2 v.vc ++ beInt 2 v.target ++ beInt 1 v.step ++ [v.order.code] ++ beInt 4 v.counter
    ++ [natByte v.glitches, natByte v.stall, v.markerByte]
    ++ (match v.eotPos with | some p => beInt 4 p | none => unstated (k + 25) 4)
    ++ v.supply.sense ++ v.takeup.sense

/-- Byte 50: the executing port, 3 for a panel rewind. -/
def Job.portByte (j : Job) : Byte :=
  match j.actor with
  | .port .a => 1
  | .port .b => 2
  | .panel => 3

/-- Byte 51: the executing operation's command code, 0 for a panel rewind. -/
def Job.cmdByte (j : Job) : Byte :=
  match j.actor with
  | .port _ => j.op.cmd.code
  | .panel => 0

/-- Bytes 49 to 62: the engine. The expected start is sent in two's complement (DESIGN CHOICE: notes/assumptions/53.md). -/
def Ope.sense (e : Ope) : List Byte :=
  [e.phase.byte, (e.job.map Job.portByte).getD 0, (e.job.map Job.cmdByte).getD 0, natByte e.attempt]
    ++ beBytes 3 e.deckNext ++ [flagByte e.posValid] ++ beInt 4 e.expStart ++ [natByte e.failCount, flagByte e.eotLatch]

/-- Bytes 63 to 66: the arbiter. -/
def Arb.sense (r : Arb) : List Byte :=
  [portByte r.holder, portByte (some r.lastServed), natByte r.chainRun, portByte r.writer]

/-- Bytes 67 to 78: the directory. EOD has no stated value when it is unknown. -/
def Bdr.sense (k : Nat) (d : Bdr) : List Byte :=
  beBytes 2 d.stride ++ beBytes 2 d.entries.length ++ beInt 4 d.known
    ++ (match d.eod with | some e => beBytes 3 e | none => unstated (k + 75) 3) ++ [flagByte d.eod.isSome]

/-- The state byte of a slot, bit 7 set when withdrawn (R89). -/
def Slot.stateByte (x : Slot) : Byte :=
  match x.state with
  | .free => 0
  | .filling => 1
  | .pending => 2
  | .writing => 3
  | .reading => 4
  | .delivering => 5
  | .cached => if x.block.isNone then 0x86 else 6

/-- Six bytes of a slot; the pin count has no stated value but in CACHED (R77). -/
def Slot.sense (k : Nat) (x : Slot) : List Byte :=
  [x.stateByte, portByte x.owner] ++ beBytes 3 (x.block.getD 0xFFFFFF)
    ++ (if x.state = .cached then [natByte x.pins] else unstated k 1)

/-- Bytes 79 to 178: the buffer. -/
def Bbf.sense (k : Nat) (b : Bbf) : List Byte :=
  [natByte (b.slots.countP (fun x => x.state = .free)), natByte (b.slots.countP (fun x => x.state = .cached)),
   natByte (b.held .a), natByte (b.held .b)]
    ++ (List.range 16).flatMap (fun i => (b.slot i).sense (k + 88 + 6 * i))

/-- Two bytes of a queue place: command code and tag, head first; an empty place has code 0 and no stated tag. -/
def opSense (k : Nat) : Option Op → List Byte
  | some o => [o.cmd.code, o.tag]
  | none => 0 :: unstated k 1

/-- Three bytes of a mark place, bottom first; an empty place has no stated value. -/
def markSense (k : Nat) : Option Nat → List Byte
  | some m => beBytes 3 m
  | none => unstated k 3

/-- Bytes 179 to 212: the asking port's context. The status queue count includes the SENSE record. Table 10-6 gives bits 4 to 7
of byte 205 no meaning, and the model sends them as 0 (DESIGN CHOICE: notes/assumptions/50.md). -/
def Port.sense (k : Nat) (q : Port) : List Byte :=
  beBytes 3 q.next ++ [natByte q.queue.length]
    ++ (List.range 4).flatMap (fun i => opSense (k + 184 + 2 * i) q.queue[i]?)
    ++ [natByte (q.status.length + 1), natByte q.marks.length]
    ++ (List.range 4).flatMap (fun i => markSense (k + 193 + 3 * i) q.marks[i]?)
    ++ [byteOf (q.mode = .buffered) q.overflow q.hold q.deferred.isSome false false false false]
    ++ beBytes 2 q.mask.toNat ++ beBytes 2 q.pendingEv.toNat ++ beBytes 3 (q.deferred.getD 0xFFFFFF)

/-- The 215 bytes of SENSE (Table 10-6). -/
def State.sense (s : State) (p : PortId) : List Byte :=
  s.dsq.sense ++ s.tsv.sense s.draws ++ s.ope.sense ++ s.arb.sense ++ s.bdr.sense s.draws ++ s.bbf.sense s.draws
    ++ (s.port p).sense s.draws ++ [natByte (s.bbf.held p), natByte (s.charge p)]

/-- Bytes 0 to 17 of a QUERY DIRECTORY record for an entry. Its start and rest point are sent in two's complement (DESIGN
CHOICE: notes/assumptions/53.md). -/
def Entry.query (form : Byte) (e : Entry) : List Byte :=
  [form] ++ beBytes 3 e.num ++ beInt 4 e.start ++ beInt 2 e.extent ++ beBytes 2 e.len
    ++ [flagByte e.mark, flagByte e.failed] ++ beInt 4 e.rest

/-- The 30 bytes of QUERY DIRECTORY (R111, R181). The known limit is sent in two's complement (DESIGN CHOICE:
notes/assumptions/53.md). -/
def Bdr.query (n : Nat) (d : Bdr) : List Byte :=
  (match d.lookup n with
    | .exact e => e.query 2
    | .lower e => e.query 1
    | .loadPoint => List.replicate 18 0)
    ++ beBytes 2 d.stride ++ beBytes 2 d.entries.length ++ beInt 4 d.known ++ beBytes 3 (d.eod.getD 0)
    ++ [flagByte d.eod.isSome]

end Sys2Proof.Machine
end

