-- ==== Sys2Proof/Machine/ImmediateCommands.lean ====
section
/-! DEFINITION. The takes of the immediate commands of Table 10-3. -/

namespace Sys2Proof.Machine

/-! ## The rules of the immediate commands, each on the header of its frame and the state with the frame gone -/

/-- SENSE answered with the state at its take, not refused DEFERRED_ERROR (R180). Its count of free bytes drawn is the model's
own (assumption 4). -/
def State.senseFrame (p : PortId) (s : State) : State :=
  ((s.onPort p Port.nextFrame).answer p (s.port p).rx.header .ok 0 (s.sense p)).drawn 215

/-- QUERY DIRECTORY (R111, R181). -/
def State.answerQuery (p : PortId) (h : Hdr) (s : State) : State :=
  s.answer p h .ok (queryNumber h.param) (s.bdr.query (queryNumber h.param))

/-- The operation of a job is an orphaned write (R133). -/
def Job.isOrphanWrite (j : Job) : Bool := j.orphan && j.op.cmd.isWrite

/-- An orphaned write is executing, or has been granted and waits for the stop (R155). -/
def Ope.orphanWrite (e : Ope) : Bool := e.job.any Job.isOrphanWrite || e.waiting.any Job.isOrphanWrite

/-- What ASSIGN WRITER answers (R155). -/
def State.assignCode (s : State) (p : PortId) : Code :=
  if !s.dsq.writeEnable then .writeProtected
  else if s.ope.orphanWrite then .writerBusy
  else if s.arb.writer = some p.other then .writerBusy
  else .ok

/-- The writer assignment changed, with WRITER_CHANGED at both ports (R155, R156). -/
def State.setWriter (w : Option PortId) (s : State) : State :=
  (s.onArb (Arb.setWriter w)).addEvents .writerChanged

/-- ASSIGN WRITER (R155). -/
def State.assignWriter (p : PortId) (h : Hdr) (s : State) : State :=
  let c := s.assignCode p
  (if c = .ok ∧ s.arb.writer = none then s.setWriter (some p) else s).answer p h c 0 []

/-- RELEASE WRITER (R156). -/
def State.releaseWriter (p : PortId) (h : Hdr) (s : State) : State :=
  if 0 < writesIn (s.port p).queue then s.answer p h .wrongState 0 []
  else (if s.arb.writer = some p then s.setWriter none else s).answer p h .ok 0 []

/-- SET PORT OPTIONS (R179). -/
def State.setPortOptions (p : PortId) (h : Hdr) (s : State) : State :=
  (s.onPort p (fun q => { q with mask := eventSetOf h.param, mode := modeOf h.param })).answer p h .ok
    (optionsActedOn h.param) []

/-- SET DECK PARAMETERS (R21). -/
def State.setDeckParameters (p : PortId) (h : Hdr) (s : State) : State :=
  if s.dsq.deck ≠ .unloaded then s.answer p h .wrongState 0 []
  else
    match checkKindOf h.param with
    | none => s.answer p h .badParameter 0 []
    | some k => (s.onDsq (fun q => { q with params := paramsOf h.param k })).answer p h .ok 0 []

/-- ACKNOWLEDGE EVENTS (R178). -/
def State.acknowledgeEvents (p : PortId) (h : Hdr) (s : State) : State :=
  let left := (s.port p).pendingEv &&& ~~~ eventSetOf h.param
  (s.onPort p (fun q => { q with pendingEv := left, hold := false })).answer p h .ok left.toNat []

/-- CLEAR FAULT (R69 to R73). -/
def State.clearFault (p : PortId) (h : Hdr) (s : State) : State :=
  match s.dsq.deck with
  | .faultedSoft =>
    if s.checksPass then s.acceptedClear.answer p h .ok 0 []
    else s.answer p h .conditionPersists (checksDetail s.failedChecks) []
  | .faultedHard => s.hardClear.answer p h .ok 0 []
  | _ => s.answer p h .wrongState 0 []

/-- A CANCELLED operation's detail under ABORT: the magnitude of a SPACE's count, 0 for the others (R164; DEDUCED:
notes/assumptions/15.md). -/
def abortDetail (o : Op) : Nat := if o.cmd = .space then o.count else 0

/-- The operations ABORT cancels: not granted, and owing a record (R164, step 1). -/
def Op.aborts (o : Op) : Bool := !o.granted && o.owed

/-- A buffered write at or behind the lowest cancelled one, lost with it (R164, step 2). -/
def Op.lostBehind (f : Option Nat) (o : Op) : Bool :=
  match f with
  | some f => !o.granted && !o.owed && isLostFrom f o
  | none => false

/-- Steps 1 and 2 of R164: the queued operations cancelled, and the rollback when a write is among them. -/
def State.cancelQueued (p : PortId) (s : State) : State :=
  let q := (s.port p).queue
  let cancelled := q.filter Op.aborts
  let f := lowestBlock (writesOf cancelled)
  let behind := q.filter (Op.lostBehind f)
  let kept := q.filter (fun o => !o.aborts && !o.lostBehind f)
  let t := (s.freeSlots (cancelled ++ behind)).onPort p
    (fun q => { q with queue := kept, status := q.status ++ cancelled.map (fun o => opRec o .cancelled (abortDetail o)) })
  match f with
  | some f => (t.rollbackTo p f (writesIn kept)).deferOpt p (lowestGiven behind)
  | none => t

/-- An operation that an abort notice ends at the next end point: a LOCATE or SPACE in the SCAN of its positioning (R146). -/
def Cmd.abortsInScan (c : Cmd) : Bool := c = .locate || c = .space

/-- An operation granted at an end point and not yet begun that an abort notice ends at the stop completion; a LOAD or an
UNLOAD is not affected (R146, R164). -/
def Cmd.abortsWaiting (c : Cmd) : Bool := c.isMotion && c ≠ .load && c ≠ .unload

/-- The engine's act on an abort notice for the executing operation, by its stage (R146). -/
def State.abortJob (j : Job) (s : State) : State :=
  let marked := s.onOpe (fun e => { e with job := some { j with aborted := true } })
  match j.stage with
  | .positioning _ => s.stopAt j .abortStop
  | .rewinding => s.stopAt j .abortStop
  | .scanning => if j.op.cmd.abortsInScan then marked else s
  | .crossing => marked
  | _ => s

/-- The abort notice of a port (R146, R164 step 3). -/
def State.abortNotice (p : PortId) (s : State) : State :=
  match s.ope.job with
  | some j => if j.port = some p then s.abortJob j else s
  | none =>
    match s.ope.waiting with
    | some j =>
      if j.port = some p ∧ j.op.cmd.abortsWaiting then
        s.onOpe (fun e => { e with waiting := some { j with aborted := true } })
      else s
    | none => s

/-- ABORT (R146, R164): its detail is the number of CANCELLED records placed. -/
def State.abort (p : PortId) (h : Hdr) (s : State) : State :=
  ((s.cancelQueued p).abortNotice p).answer p h .ok ((s.port p).queue.filter Op.aborts).length []

/-! ## The takes -/

/-- The answer makes no head operation ready. -/
def readiesNone (_ _ : State) : Bool := false

/-- SENSE (R180). -/
def execSense (p : PortId) (s : State) : Host.Outcome State Fault Refusal :=
  taken s fun s => if s.takes p .sense then (s.senseFrame p).seal else s

/-- QUERY_DIRECTORY (R111, R181). -/
def execQueryDirectory (p : PortId) (s : State) : Host.Outcome State Fault Refusal :=
  taken s (State.takeImmediate p .queryDirectory (State.answerQuery p) readiesNone)

/-- ASSIGN_WRITER (R155). -/
def execAssignWriter (p : PortId) (s : State) : Host.Outcome State Fault Refusal :=
  taken s (State.takeImmediate p .assignWriter (State.assignWriter p) readiesNone)

/-- RELEASE_WRITER (R156). The release can make the other port's UNLOAD ready. -/
def execReleaseWriter (p : PortId) (s : State) : Host.Outcome State Fault Refusal :=
  taken s (State.takeImmediate p .releaseWriter (State.releaseWriter p) fun s t => s.arb.writer ≠ t.arb.writer)

/-- SET_PORT_OPTIONS (R179). -/
def execSetPortOptions (p : PortId) (s : State) : Host.Outcome State Fault Refusal :=
  taken s (State.takeImmediate p .setPortOptions (State.setPortOptions p) readiesNone)

/-- SET_DECK_PARAMETERS (R21). -/
def execSetDeckParameters (p : PortId) (s : State) : Host.Outcome State Fault Refusal :=
  taken s (State.takeImmediate p .setDeckParameters (State.setDeckParameters p) readiesNone)

/-- ACKNOWLEDGE_EVENTS (R178). -/
def execAcknowledgeEvents (p : PortId) (s : State) : Host.Outcome State Fault Refusal :=
  taken s (State.takeImmediate p .acknowledgeEvents (State.acknowledgeEvents p) readiesNone)

/-- CLEAR_FAULT (R69 to R73). A clear that is not refused changes the deck state. -/
def execClearFault (p : PortId) (s : State) : Host.Outcome State Fault Refusal :=
  taken s (State.takeImmediate p .clearFault (State.clearFault p) fun s t => s.dsq.deck ≠ t.dsq.deck)

/-- ABORT (R146, R164). -/
def execAbort (p : PortId) (s : State) : Host.Outcome State Fault Refusal :=
  taken s (State.takeImmediate p .abort (State.abort p) fun _ _ => true)

/-- PORT_RESET (R165): taken when its header is complete, whatever the record count (R152, R170). -/
def execPortReset (p : PortId) (s : State) : Host.Outcome State Fault Refusal :=
  taken s fun s =>
    let x := (s.port p).rx
    if x.headerDue ∧ x.header.inError = false ∧ x.header.cmd = some .portReset then (s.takePortReset p).settle s else s

end Sys2Proof.Machine
end

