-- ==== Sys2Proof/Machine/QueuedCommands.lean ====
section
/-! DEFINITION. The takes of the queued commands of Table 10-3. -/

namespace Sys2Proof.Machine

/-- LOAD (R4, R153, R154). -/
def execLoad (p : PortId) (s : State) : Host.Outcome State Fault Refusal := taken s (State.takeQueued p .load)

/-- READ_BLOCK (R153, R154, R157). -/
def execReadBlock (p : PortId) (s : State) : Host.Outcome State Fault Refusal := taken s (State.takeQueued p .readBlock)

/-- WRITE_BLOCK (R154): with data length 0 refused BAD_PARAMETER before the tests of R153 (R172). -/
def execWriteBlock (p : PortId) (s : State) : Host.Outcome State Fault Refusal :=
  taken s fun s =>
    if s.takes p .writeBlock then
      if (s.port p).rx.header.dataLen = 0 then (s.answerFrame p .badParameter).seal else s.takeWrite p .writeBlock
    else s

/-- WRITE_MARK (R124, R154). -/
def execWriteMark (p : PortId) (s : State) : Host.Outcome State Fault Refusal :=
  taken s fun s => if s.takes p .writeMark then s.takeWrite p .writeMark else s

/-- SPACE (R141, R142, R153, R154). -/
def execSpace (p : PortId) (s : State) : Host.Outcome State Fault Refusal := taken s (State.takeQueued p .space)

/-- LOCATE (R143, R153, R154). -/
def execLocate (p : PortId) (s : State) : Host.Outcome State Fault Refusal := taken s (State.takeQueued p .locate)

/-- REWIND (R144, R153, R154). -/
def execRewind (p : PortId) (s : State) : Host.Outcome State Fault Refusal := taken s (State.takeQueued p .rewind)

/-- UNLOAD (R10, R153, R154). -/
def execUnload (p : PortId) (s : State) : Host.Outcome State Fault Refusal := taken s (State.takeQueued p .unload)

/-- PUSH_MARK (R148, R154). -/
def execPushMark (p : PortId) (s : State) : Host.Outcome State Fault Refusal := taken s (State.takeQueued p .pushMark)

/-- RETURN_TO_MARK (R149, R154). -/
def execReturnToMark (p : PortId) (s : State) : Host.Outcome State Fault Refusal :=
  taken s (State.takeQueued p .returnToMark)

end Sys2Proof.Machine
end

