-- ==== Sys2Proof/Machine/RecordSteps.lean ====
section
/-! DEFINITION. The end of a record's sending, and the frame that was waiting for it (R175). -/

namespace Sys2Proof.Machine

/-- What the take of a frame of a command does, before the end of the event (R153, R154, R172). A PORT RESET never waits: it is
taken at its header (R170). -/
def State.takeFrame (p : PortId) (c : Cmd) (s : State) : State :=
  match c with
  | .load => s.queueFrame p .load
  | .readBlock => s.queueFrame p .readBlock
  | .writeBlock => if (s.port p).rx.header.dataLen = 0 then s.answerFrame p .badParameter else s.writeFrame p .writeBlock
  | .writeMark => s.writeFrame p .writeMark
  | .space => s.queueFrame p .space
  | .locate => s.queueFrame p .locate
  | .rewind => s.queueFrame p .rewind
  | .unload => s.queueFrame p .unload
  | .pushMark => s.queueFrame p .pushMark
  | .returnToMark => s.queueFrame p .returnToMark
  | .sense => s.senseFrame p
  | .queryDirectory => s.immediateFrame p (State.answerQuery p)
  | .assignWriter => s.immediateFrame p (State.assignWriter p)
  | .releaseWriter => s.immediateFrame p (State.releaseWriter p)
  | .setPortOptions => s.immediateFrame p (State.setPortOptions p)
  | .setDeckParameters => s.immediateFrame p (State.setDeckParameters p)
  | .acknowledgeEvents => s.immediateFrame p (State.acknowledgeEvents p)
  | .clearFault => s.immediateFrame p (State.clearFault p)
  | .abort => s.immediateFrame p (State.abort p)
  | .portReset => s

/-- The frame that waits at a port is taken, or its data admitted, when the conditions of R152 hold; else nothing happens. -/
def State.takeWaiting (p : PortId) (s : State) : State :=
  if s.mayAdmit p then s.admitData p
  else if s.errorFrameDue p then s.answerFrame p .frameError
  else if s.unknownFrameDue p then s.answerFrame p .badCommand
  else
    match (s.port p).rx.header.cmd with
    | some c => if s.takes p c then s.takeFrame p c else s
    | none => s

/-- The head record leaves the status queue, SO-FRM falls, and what it references is released (R86, R89, R175). -/
def State.recordLeaves (p : PortId) (r : Rec) (s : State) : State :=
  (s.onPort p (fun q => { q with status := q.status.tail, soFrm := false, sent := 0 })).onBbf (Bbf.releaseSent r.payload)

/-- RECORD_SENT (R175): due when the last byte of the head record has been passed. At the fall of the record count a waiting
frame is taken, then a READ at a head may be served from the cache, and then the event record test is made. That the take
is made in this step, though it is also a row of its own, is a DESIGN CHOICE (notes/assumptions/46.md). -/
def execRecordSent (p : PortId) (s : State) : Host.Outcome State Fault Refusal :=
  taken s fun s =>
    match (s.port p).status with
    | [] => s
    | r :: _ => if (s.port p).sent = r.size then ((s.recordLeaves p r).takeWaiting p).settle s else s

end Sys2Proof.Machine
end

