-- ==== Sys2Proof/Machine/ResetSteps.lean ====
section
/-! DEFINITION. Power-up and the RESET line (R22, R185, R189). -/

namespace Sys2Proof.Machine

/-- The part held in reset: every block at its power-on values, no record and no event (R189). The commands that wait and
the count of free values drawn are not the part's. -/
def State.heldInReset (s : State) : State :=
  { State.powerOn Levels.low with inReset := true, draws := s.draws, pending := s.pending }

/-- The part at the fall of RESET: straps, ONLINE, LINK-ACT and every other input sampled, and the zero commands presented
once (R185, R186, R189). -/
def State.fallOfReset (lv : Levels) (s : State) : State :=
  { State.powerOn lv with
      tsv := { (State.powerOn lv).tsv with strobes := 1 }, draws := s.draws, pending := s.pending }

/-- POWER_UP (R189). -/
def execPowerUp (s : State) : Host.Outcome State Fault Refusal := .next s.heldInReset

/-- RESET_RISE (R189). -/
def execResetRise (s : State) : Host.Outcome State Fault Refusal := .next s.heldInReset

/-- RESET_FALL (R189); with RESET false there is no fall. It ends the supply monitor's hold too, which has no row of its own
(DESIGN CHOICE: notes/assumptions/47.md). -/
def execResetFall (lv : Levels) (s : State) : Host.Outcome State Fault Refusal :=
  .next (if s.inReset then s.fallOfReset lv else s)

end Sys2Proof.Machine
end

