-- ==== Sys2Proof/Machine/ServoSteps.lean ====
section
/-! DEFINITION. The steps of the Transport Servo: the period expiry, the reports it makes due, the tach and marker
arrivals, and the completions its issuers take (chapters 2 and 3). -/

namespace Sys2Proof.Machine

/-! ## The period expiry and its reports -/

/-- The tally handed to the deck sequencer while a marker search runs, counted in the direction of the search (R7, R12,
R23). -/
def Dsq.addTravel (tally : Int) (q : Dsq) : Dsq :=
  match q.search with
  | some ⟨.load, .running⟩ => { q with searchTravel := q.searchTravel + tally }
  | some ⟨.rezeroForward, .running⟩ => { q with searchTravel := q.searchTravel + tally }
  | some ⟨.rezeroReverse, .running⟩ => { q with searchTravel := q.searchTravel - tally }
  | _ => q

/-- The period expiry (R23), with the LOOP_OUT reports of R44. -/
def State.periodExpiry (ls lt : Nat) (s : State) : State :=
  let v := s.tsv
  let d := s.dsq.deck
  let s := (s.onDsq (Dsq.addTravel v.tally)).onTsv (Tsv.expire d s.dsq.params.gain ls lt)
  (s.reportWhen (d.detectsLoopOut && v.supply.goesOut ls) (FaultKind.loopOut.reportAt .supply)).reportWhen
    (d.detectsLoopOut && v.takeup.goesOut lt) (FaultKind.loopOut.reportAt .takeup)

/-- REGULATION_PERIOD_EXPIRY (R23). -/
def execRegulationPeriodExpiry (loopS loopT : Nat) (s : State) : Host.Outcome State Fault Refusal :=
  taken s (State.periodExpiry (loopSample loopS) (loopSample loopT))

/-- STALL_LIMIT (R37). -/
def execStallLimit (s : State) : Host.Outcome State Fault Refusal :=
  taken s fun s => if s.tsv.stallDue then (s.onTsv (fun v => { v with stallDue := false })).reportFault FaultKind.tach.report else s

/-- REEL_SATURATION_LIMIT (R55). -/
def execReelSaturationLimit (r : Reel) (s : State) : Host.Outcome State Fault Refusal :=
  taken s fun s =>
    if (s.tsv.reel r).satDue then
      (s.onTsv (Tsv.onReel r (fun x => { x with satDue := false }))).reportFault (FaultKind.reelSaturation.reportAt r)
    else s

/-- TACH_GLITCH_LIMIT (R36). -/
def execTachGlitchLimit (s : State) : Host.Outcome State Fault Refusal :=
  taken s fun s => if s.tsv.glitchDue then (s.onTsv (fun v => { v with glitchDue := false })).reportFault FaultKind.tach.report else s

/-! ## Tach arrivals -/

/-- An arrival on the capstan tach pair, with the EOT_OVERRUN report of R41. -/
def State.capstanTach (p : Pair) (s : State) : State :=
  let turn := decodeTurn s.tsv.lastPair p
  let t := s.onTsv (Tsv.capstanArrival s.dsq.deck p)
  t.reportWhen
    (turn = .forward && s.dsq.deck.detectsOverrun && overrunAt t.tsv.eotPassed t.tsv.eotPos true t.tsv.counter)
    FaultKind.eotOverrun.report

/-- CAPSTAN_TACH_ARRIVAL (R34). -/
def execCapstanTachArrival (p : Pair) (s : State) : Host.Outcome State Fault Refusal := taken s (State.capstanTach p)

/-- REEL_TACH_ARRIVAL (R46). -/
def execReelTachArrival (r : Reel) (p : Pair) (s : State) : Host.Outcome State Fault Refusal :=
  taken s fun s => s.onTsv (Tsv.reelArrival s.dsq.deck r p)

/-- REVOLUTION_COMPLETE (R48). -/
def execRevolutionComplete (r : Reel) (s : State) : Host.Outcome State Fault Refusal :=
  taken s fun s =>
    if (s.tsv.reel r).revolutionDue then s.onTsv (Tsv.onReel r (ReelState.revolve r s.tsv.counter)) else s

/-! ## Markers -/

/-- A change of a marker line; an arrival at the level the line holds changes nothing (R38). -/
def Tsv.markerArrival (m : Marker) (level : Bool) (v : Tsv) : Tsv :=
  match m with
  | .loadPoint => if v.lpLine = level then v else { v with lpLine := level, lp := v.lp.line level v.counter }
  | .eot => if v.eotLine = level then v else { v with eotLine := level, eot := v.eot.line level v.counter }

/-- MARKER_LINE_ARRIVAL (R38). -/
def execMarkerLineArrival (m : Marker) (level : Bool) (s : State) : Host.Outcome State Fault Refusal :=
  taken s (State.onTsv (Tsv.markerArrival m level))

/-- The load-point marker accepted, the last count forward or reverse: in a marker search the counter is set to the signed
travel, and the deck sequencer orders a STOP (R7, R12, R39). -/
def State.lpAccepted (forward : Bool) (s : State) : State :=
  match s.dsq.search with
  | some ⟨p, .running⟩ =>
    (s.setSearch (some ⟨p, .accepted⟩)).onTsv (fun v => (v.setCounter (signed forward Config.markerTravel)).orderStop .deck)
  | _ => s

/-- LOAD_POINT_MARKER_ACCEPTED (R39). -/
def execLoadPointMarkerAccepted (s : State) : Host.Outcome State Fault Refusal :=
  taken s fun s =>
    match s.tsv.lpDue with
    | some forward => (s.onTsv (fun v => { v with lpDue := none })).lpAccepted forward
    | none => s

/-- The EOT marker accepted with a forward count, first sighted at `first` (R40, R132). -/
def State.eotAccepted (first : Int) (s : State) : State :=
  let t := s.onTsv (fun v => { v with eotPos := some first, eotPassed := true })
  if s.tsv.eotPassed then t
  else ((t.onOpe (fun e => { e with eotLatch := true })).addEvents .eotPassed).seal

/-- EOT_MARKER_ACCEPTED (R40). -/
def execEotMarkerAccepted (s : State) : Host.Outcome State Fault Refusal :=
  taken s fun s =>
    match s.tsv.eotDue with
    | some (forward, first) =>
      let t := s.onTsv (fun v => { v with eotDue := none })
      if forward then t.eotAccepted first else t
    | none => s

/-! ## Completions -/

/-- The completion not yet taken is taken. -/
def State.clearReport (s : State) : State := s.onTsv (fun v => { v with report := none })

/-- MOVE_COMPLETION: the deck sequencer's move ends REWIND_OUT, the engine judges its landing (R11, R31). -/
def execMoveCompletion (s : State) : Host.Outcome State Fault Refusal :=
  taken s fun s =>
    match s.tsv.report with
    | some (.moveDone .deck _) => if s.dsq.deck = .rewindOut then s.clearReport.enterWindOff else s.clearReport
    | some (.moveDone .engine e) => (s.clearReport.moveDone e).settle s
    | _ => s

/-- The deck sequencer takes a stop completion: the end of a marker search or of one of its passes (R7, R8, R9, R12,
R13). -/
def State.deckStopDone (s : State) : State :=
  match s.dsq.search with
  | some ⟨.load, .accepted⟩ => s.readyFromLoad
  | some ⟨.load, .failed⟩ => s.unloadStart false
  | some ⟨.rezeroReverse, .accepted⟩ => s.rezeroForward
  | some ⟨.rezeroForward, .accepted⟩ => s.readyFromRezero
  | some ⟨.rezeroReverse, .failed⟩ => (s.unloadEffects.enterWindOff).addEvents .deckNotReady
  | some ⟨.rezeroForward, .failed⟩ => (s.unloadEffects.enterWindOff).addEvents .deckNotReady
  | _ => s

/-- WR-ERASE lowered. -/
def State.lowerErase (s : State) : State := s.onOpe (fun e => { e with wrErase := false })

/-- The point a retry moves back to: for a write the expected start less 250, for a read the start just seen less 250
(R122, R127). -/
def State.retryPoint (j : Job) (s : State) : Int :=
  (if j.op.cmd.isWrite then s.ope.expStart else s.ope.seen.start) - Config.restBefore

/-- An orphaned operation that is stopped between two attempts makes no further one and ends there: a write as a failed
write, a read with the directory report of its last attempt (R133; DEDUCED: notes/assumptions/17.md). -/
def State.endOrphan (j : Job) (s : State) : State :=
  if j.op.cmd.isWrite then (s.onOpe (fun e => { e with posValid := false })).endFailed j .writeCheckFailed j.n true
  else (s.passSeen j.n).endFailed j .readCheckFailed j.n true

/-- The engine takes a stop completion (R122, R123, R127, R128, R130, R138, R146). -/
def State.engineStopDone (s : State) : State :=
  match s.ope.job with
  | some j =>
    match j.stage with
    | .retryStop =>
      if j.orphan then s.lowerErase.endOrphan j else s.lowerErase.moveTo j .retryMove (s.retryPoint j) false
    | .blankStop inScan => s.moveTo j (.blankMove inScan) (s.ope.expStart - Config.restBefore) false
    | .abortStop => (s.onOpe (fun e => { e with posValid := false })).endFailed j .cancelled j.cancelDetail true
    | _ => s
  | none =>
    if s.ope.phase ≠ .stop then s
    else
      match s.ope.waiting with
      | some j =>
        let t := s.lowerErase.onOpe (fun e => { e with waiting := none })
        if j.aborted then t.endFailed j .cancelled j.cancelDetail true else t.beginOp j true
      | none => s.lowerErase.goIdle

/-- STOP_COMPLETION (R32). -/
def execStopCompletion (s : State) : Host.Outcome State Fault Refusal :=
  taken s fun s =>
    match s.tsv.report with
    | some (.stopDone .deck) => (s.clearReport.deckStopDone).settle s
    | some (.stopDone .engine) => (s.clearReport.engineStopDone).settle s
    | _ => s

/-- Auto-clear at the entry to FAULTED SOFT: on, a LOOP_OUT or REEL_SATURATION fault, the count below 4, the checks
passing (R75). -/
def State.autoClear (s : State) : State :=
  let q := s.dsq
  if q.params.autoClear && (q.faultKind = some .loopOut || q.faultKind = some .reelSaturation)
      && decide (q.autoCount < Config.maxAutoClear) && s.checksPass then
    (s.onDsq (fun q => { q with autoCount := q.autoCount + 1 })).acceptedClear
  else s

/-- FAULT_RAMP_ZERO (R66). -/
def execFaultRampZero (s : State) : Host.Outcome State Fault Refusal :=
  taken s fun s =>
    match s.tsv.report with
    | some .rampZero =>
      if s.dsq.deck = .faultStop then ((s.clearReport.enterDeck .faultedSoft).autoClear).settle s else s.clearReport
    | _ => s

end Sys2Proof.Machine
end

