-- ==== Sys2Proof/Machine/TransferSteps.lean ====
section
/-! DEFINITION. The steps of a transfer and of a block seen at the read head: the write gate, the byte requests and the
verification (R117 to R124), the read arrivals (R116), the end points of reads and of scanned blocks, and blank tape
(R125 to R129, R137, R138, R141). -/

namespace Sys2Proof.Machine

/-! ## Writing -/

/-- The write the engine is executing, when it is in the phase given (R118 to R120). -/
def State.writeIn (s : State) (ph : Phase) : Option Job :=
  match s.ope.job with
  | some j => if j.stage = .writing ∧ s.ope.phase = ph then some j else none
  | none => none

/-- WR-GATE raised, with WR-MARK for a mark; the block seen and the bytes handed out begin afresh (R119, R120, R124). -/
def Ope.openGate (mark : Bool) (e : Ope) : Ope :=
  { e with phase := .transfer, wrGate := true, wrMark := mark, seen := Seen.nothing, handed := [] }

/-- WRITE_GATE_OPEN (R119): due when the counter is at W or beyond. -/
def execWriteGateOpen (s : State) : Host.Outcome State Fault Refusal :=
  taken s fun s =>
    match s.writeIn .run with
    | some j => if s.ope.w ≤ s.tsv.counter then s.onOpe (Ope.openGate (j.op.cmd = .writeMark)) else s
    | none => s

/-- WR-GATE and WR-MARK lowered (R119, R124). -/
def Ope.closeGate (e : Ope) : Ope := { e with phase := .verify, wrGate := false, wrMark := false }

/-- WRITE_GATE_CLOSE (R119): due when the counter is at W + extent or beyond. -/
def execWriteGateClose (s : State) : Host.Outcome State Fault Refusal :=
  taken s fun s =>
    match s.writeIn .transfer with
    | some j => if s.ope.w + s.writeExtent j ≤ s.tsv.counter then s.onOpe Ope.closeGate else s
    | none => s

/-- The bytes of the block being laid: the slot's data, then the check field; a mark has none (R117, R124). -/
def State.bytesToLay (j : Job) (s : State) : List Byte :=
  if j.op.cmd = .writeMark then []
  else match j.op.slot with
    | some i => writtenBytes s.dsq.params.check (s.bbf.slot i).data
    | none => []

/-- A byte placed on WR-DATA and counted as handed out (R117). -/
def Ope.hand (v : Byte) (e : Ope) : Ope := { e with wrData := v, handed := e.handed ++ [v] }

/-- The next byte answers a request, when there is one (R117, R187). -/
def State.byteRequest (j : Job) (s : State) : State :=
  match (s.bytesToLay j)[s.ope.handed.length]? with
  | some v => s.onOpe (Ope.hand v)
  | none => s

/-- WRITE_BYTE_REQUEST (R117, R187): ignored while WR-GATE is false and after the last check byte. -/
def execWriteByteRequest (s : State) : Host.Outcome State Fault Refusal :=
  taken s fun s =>
    match s.ope.job with
    | some j => if s.ope.wrGate then s.byteRequest j else s
    | none => s

/-- The traversal report of a verified write (R121, R124). -/
def State.writeReport (j : Job) (s : State) : Traversal :=
  { num := j.n, start := s.ope.w, extent := s.writeExtent j,
    len := if j.op.cmd = .writeMark then 0 else match j.op.slot with | some i => (s.bbf.slot i).len | none => 0,
    mark := j.op.cmd = .writeMark, failed := false }

/-- The slot of a verified write enters CACHED (R84, R121). -/
def Bbf.cacheOpt (i : Option Nat) (b : Bbf) : Bbf := match i with | some i => b.enterCached i | none => b

/-- The failure count set to 0 (R129). -/
def State.noFailures (s : State) : State := s.onOpe (fun e => { e with failCount := 0 })

/-- A passed verification (R121, R124). -/
def State.writePassed (j : Job) (s : State) : State :=
  let endPos := s.ope.w + s.writeExtent j
  let s := (s.noFailures.onBdr (Bdr.traverse (s.writeReport j))).onBbf (Bbf.cacheOpt j.op.slot)
  ((s.onOpe (Ope.passed j.n endPos)).jobNext j (j.n + 1)).endOp j .ok j.n false

/-- A failed attempt may be made again: the retry limit is not reached and the operation is not orphaned (R122, R127,
R133). -/
def State.mayRetry (j : Job) (s : State) : Bool := decide (s.ope.attempt < s.dsq.params.retryLimit) && !j.orphan

/-- The end of a write that failed its last attempt: the position is no longer valid, the tape is stopped with no
operation; an orphaned write asks the arbiter at the end point (R123, R130, R133). -/
def State.writeFailed (j : Job) (s : State) : State :=
  let s := (s.onOpe (fun e => { e with posValid := false })).failWrite j .writeCheckFailed j.n
  if j.orphan then s.askAtEnd
  else (s.onOpe (fun e => { e with phase := .stop })).engineOrder (Tsv.orderStop .engine)

/-- A failed verification: the failure limit, a retry, or the failed write (R122, R123, R129). -/
def State.verifyFailed (j : Job) (s : State) : State :=
  let s := s.raiseFailures
  if s.dsq.params.failLimit ≤ s.ope.failCount then s.mediaHold j
  else if s.mayRetry j then s.stopAt j .retryStop
  else s.writeFailed j

/-- VERIFY_END_POINT (R120): due when the counter is at W + extent + 300 or beyond. -/
def execVerifyEndPoint (s : State) : Host.Outcome State Fault Refusal :=
  taken s fun s =>
    match s.writeIn .verify with
    | some j =>
      if s.ope.w + s.writeExtent j + Config.headGap ≤ s.tsv.counter then
        (if s.verifyPasses j then s.writePassed j else s.verifyFailed j).settle s
      else s
    | none => s

/-! ## Arrivals at the read head -/

/-- The read is under way: RUN or TRANSFER of a READ BLOCK (R125). -/
def State.readingNow (s : State) : Bool :=
  match s.ope.job with
  | some j => j.stage = .reading
  | none => false

/-- A block's signal has begun and has not ended (R116). -/
def Seen.inProgress (x : Seen) : Bool := decide (0 < x.rises) && x.endAt.isNone

/-- A first rise of RD-SIG: the observed start is the counter less 300 (R116). -/
def Seen.begin (counter : Int) (mark : Bool) (x : Seen) : Seen :=
  { x with rises := 1, start := counter - Config.headGap, mark := mark }

/-- A rise of RD-SIG while the engine looks. The first begins a block; a read then enters TRANSFER with the expected start
at the observed start (R125). A later one is counted, which a verification fails on (R120); elsewhere it changes nothing
else (DEDUCED: notes/assumptions/19.md). -/
def State.signalRise (s : State) : State :=
  if s.ope.seen.rises = 0 then
    let t := s.onOpe (fun e => { e with seen := e.seen.begin s.tsv.counter e.rdMark })
    if s.readingNow then t.onOpe (fun e => { e with phase := .transfer, expStart := e.seen.start }) else t
  else s.onOpe (fun e => { e with seen := { e.seen with rises := e.seen.rises + 1 } })

/-- RD_SIG_RISE (R116); with the line true there is no rise. -/
def execRdSigRise (s : State) : Host.Outcome State Fault Refusal :=
  taken s fun s =>
    if s.ope.rdSig then s
    else
      let t := s.onOpe (fun e => { e with rdSig := true })
      if t.looking then t.signalRise else t

/-- A byte joins the block seen: counted, and kept up to 16,388 (R116). -/
def Seen.addByte (v : Byte) (x : Seen) : Seen :=
  { x with bytes := if x.bytes.length < Config.keptBytes then x.bytes ++ [v] else x.bytes, count := x.count + 1 }

/-- The bytes of a read are stored in its slot in order (R125). -/
def State.storeRead (s : State) : State :=
  match s.ope.job with
  | some j =>
    match j.stage, j.op.slot with
    | .reading, some i => s.onBbf (Bbf.modify i (fun x => { x with data := s.ope.seen.bytes }))
    | _, _ => s
  | none => s

/-- READ_BYTE_STROBE (R116): taken while the engine looks, RD-SIG is true and the block has not been taken as ended. -/
def execReadByteStrobe (v : Byte) (s : State) : Host.Outcome State Fault Refusal :=
  taken s fun s =>
    if s.looking && s.ope.rdSig && s.ope.seen.inProgress then
      (s.onOpe (fun e => { e with seen := e.seen.addByte v })).storeRead
    else s

/-- The signal ends: the position of the fall is kept (R116). -/
def Seen.close (counter : Int) (x : Seen) : Seen := if x.inProgress then { x with endAt := some counter } else x

/-- RD_SIG_FALL (R116); with the line false there is no fall. -/
def execRdSigFall (s : State) : Host.Outcome State Fault Refusal :=
  taken s fun s =>
    if s.ope.rdSig then
      let t := s.onOpe (fun e => { e with rdSig := false })
      if t.looking then t.onOpe (fun e => { e with seen := e.seen.close s.tsv.counter }) else t
    else s

/-- RD-MARK seen true at a moment since the rise (R116). -/
def Seen.sawMark (x : Seen) : Seen := if x.inProgress then { x with mark := true } else x

/-- RD_MARK_ARRIVAL (R116): the level is held, and a true level marks the block in progress. -/
def execRdMarkArrival (level : Bool) (s : State) : Host.Outcome State Fault Refusal :=
  taken s fun s =>
    let t := s.onOpe (fun e => { e with rdMark := level })
    if level && t.looking then t.onOpe (fun e => { e with seen := e.seen.sawMark }) else t

/-- READ_BLOCK_LENGTH_LIMIT (R116): due when the counter is at the observed start plus 3,100 or beyond with the signal
still up. -/
def execReadBlockLengthLimit (s : State) : Host.Outcome State Fault Refusal :=
  taken s fun s =>
    if s.looking && s.ope.seen.inProgress && decide (s.ope.seen.start + Config.lengthLimit ≤ s.tsv.counter) then
      s.onOpe (fun e => { e with seen := { e.seen with endAt := some s.tsv.counter, limited := true } })
    else s

/-! ## Reading -/

/-- The slot of a good read becomes DELIVERING with the bytes read (R85, R126). -/
def Slot.delivered (data : List Byte) (x : Slot) : Slot :=
  { x with state := .delivering, len := data.length, data := data }

/-- The DATA record of a good read (R126, R174). -/
def State.dataRec (j : Job) (i len : Nat) (s : State) : Rec :=
  { kind := .data, tag := j.op.tag, cmd := j.op.cmd.code, code := s.engineCode .ok, detail := j.n,
    payload := .delivering i len, stamp := none }

/-- A data block read with a good check: delivered, or discarded when the operation is orphaned (R126, R133). -/
def State.deliver (j : Job) (data : List Byte) (s : State) : State :=
  match j.op.slot with
  | some i =>
    if j.orphan then ((s.freeOwn j).dropJob).askAtEnd
    else
      ((s.onBbf (Bbf.modify i (Slot.delivered data))).leaveQueue j [s.dataRec j i data.length]).dropJob.askAtEnd
  | none => s.dropJob.askAtEnd

/-- A good block at the end point of a read (R126). -/
def State.readGood (j : Job) (s : State) : State :=
  let x := s.ope.seen
  let t := (s.noFailures.passSeen j.n).jobNext j (j.n + 1)
  if x.isMark then (t.freeOwn j).endOp j .tapeMark j.n false
  else t.deliver j (x.data s.dsq.params.check)

/-- A bad check at the end point of a read attempt (R127, R129). The attempt after which none is made is the READ's last one,
and makes its traversal report: at the failure limit, the engine's numbers standing, as at the retry limit (R101, R133). -/
def State.readBad (j : Job) (s : State) : State :=
  let s := s.raiseFailures
  if s.dsq.params.failLimit ≤ s.ope.failCount then (s.reportSeen j.n).mediaHold j
  else if s.mayRetry j then s.stopAt j .retryStop
  else (((s.passSeen j.n).jobNext j (j.n + 1)).freeOwn j).endOp j .readCheckFailed j.n false

/-- READ_END_POINT (R125): due when the block has ended and the counter is at its end point or beyond. -/
def execReadEndPoint (s : State) : Host.Outcome State Fault Refusal :=
  taken s fun s =>
    match s.ope.job with
    | some j =>
      if j.stage = .reading ∧ s.ope.phase = .transfer ∧ s.endPointDue then
        (if s.ope.seen.good s.dsq.params.check then s.readGood j else s.readBad j).settle s
      else s
    | none => s

/-! ## Blank tape -/

/-- No rise of RD-SIG by the expected start plus 30,300 (R128, R138). -/
def State.blankDue (s : State) : Bool :=
  s.ope.seen.rises = 0 && decide (s.ope.expStart + Config.blankAfter ≤ s.tsv.counter)

/-- The blank-tape report for block `n`: EOD lowered to it and handed to both ports, unless EOD is known and lower (R108,
R161). -/
def State.blankReport (n : Nat) (s : State) : State :=
  if s.bdr.endsBelow n then s else (s.onBdr (Bdr.lowerEod n)).boundPorts

/-- READ_BLANK_TAPE (R128). -/
def execReadBlankTape (s : State) : Host.Outcome State Fault Refusal :=
  taken s fun s =>
    match s.ope.job with
    | some j =>
      if j.stage = .reading ∧ s.ope.phase = .run ∧ s.blankDue then
        ((s.stopAt j (.blankStop false)).blankReport j.n).settle s
      else s
    | none => s

/-- The scan a job is in: the SCAN of a positioning, or the crossing of a forward SPACE (R137, R141). -/
def Job.scans (j : Job) : Bool := j.stage = .scanning || j.stage = .crossing

/-- SCAN_BLANK_TAPE (R138). -/
def execScanBlankTape (s : State) : Host.Outcome State Fault Refusal :=
  taken s fun s =>
    match s.ope.job with
    | some j =>
      if j.scans ∧ s.ope.phase = .scan ∧ s.blankDue then
        ((s.stopAt j (.blankStop true)).blankReport s.ope.deckNext).settle s
      else s
    | none => s

/-! ## Scanning and spacing -/

/-- The next block of a scan is looked for. -/
def State.scanOn (j : Job) (s : State) : State := s.onOpe (fun e => { e with job := some j, seen := Seen.nothing })

/-- The outcome of a forward SPACE that has just crossed block `k`, when it ends there (R141, R146). -/
def State.crossingEnd (j : Job) (k : Nat) (mark : Bool) (s : State) : Option Code :=
  if j.aborted then some .cancelled
  else if mark then some .tapeMark
  else if j.crossed = j.op.count then some .ok
  else if s.bdr.eod = some (k + 1) then some .endOfData
  else none

/-- A block of a scan has passed: the SCAN of a positioning goes on to its goal or ends at an abort notice; a crossing is
counted and tested (R137, R139, R141, R146). An orphaned SPACE crosses on to its own end (DEDUCED:
notes/assumptions/17.md). -/
def State.scanned (j : Job) (k : Nat) (mark : Bool) (s : State) : State :=
  if j.stage = .crossing then
    let j := { j with crossed := j.crossed + 1 }
    match s.crossingEnd j k mark with
    | some c => (s.jobNext j (k + 1)).endOp j c (j.op.count - j.crossed) false
    | none => s.scanOn j
  else if j.aborted then s.endFailed j .cancelled j.cancelDetail false
  else if s.ope.deckNext = j.goal then s.positioned j false
  else s.scanOn j

/-- The end point of a scanned block: its report, the failure count, the engine's numbers (R137). -/
def State.scanEnd (j : Job) (s : State) : State :=
  let k := s.ope.deckNext
  let x := s.ope.seen
  let t := (if x.good s.dsq.params.check then s.noFailures else s).passSeen k
  t.scanned j k x.isMark

/-- SCAN_END_POINT (R137): due when the block has ended and the counter is at its end point or beyond. -/
def execScanEndPoint (s : State) : Host.Outcome State Fault Refusal :=
  taken s fun s =>
    match s.ope.job with
    | some j => if j.scans ∧ s.ope.phase = .scan ∧ s.endPointDue then (s.scanEnd j).settle s else s
    | none => s

end Sys2Proof.Machine
end

