-- ==== Sys2Proof/Machine/Dispatch.lean ====
section
/-! DEFINITION. The meaning of every command: one arm for each row of spec/opcode_table.json. -/

namespace Sys2Proof.Machine

/-- The effect of a command on everything but the queue of waiting commands. -/
def exec (i : Instr) (s : State) : Host.Outcome State Fault Refusal :=
  match i with
  | .powerUp => Sys2Proof.Machine.execPowerUp s
  | .resetRise => Sys2Proof.Machine.execResetRise s
  | .resetFall lv => Sys2Proof.Machine.execResetFall lv s
  | .regulationPeriodExpiry loopS loopT => Sys2Proof.Machine.execRegulationPeriodExpiry loopS loopT s
  | .stallLimit => Sys2Proof.Machine.execStallLimit s
  | .reelSaturationLimit r => Sys2Proof.Machine.execReelSaturationLimit r s
  | .loopFormComplete => Sys2Proof.Machine.execLoopFormComplete s
  | .windOffComplete => Sys2Proof.Machine.execWindOffComplete s
  | .vacuumUpTimeout => Sys2Proof.Machine.execVacuumUpTimeout s
  | .loopFormTimeout => Sys2Proof.Machine.execLoopFormTimeout s
  | .windOffTimeout => Sys2Proof.Machine.execWindOffTimeout s
  | .loadPointSearchLimit => Sys2Proof.Machine.execLoadPointSearchLimit s
  | .rezeroTravelLimit => Sys2Proof.Machine.execRezeroTravelLimit s
  | .lampFlashExpiry => Sys2Proof.Machine.execLampFlashExpiry s
  | .capstanTachArrival p => Sys2Proof.Machine.execCapstanTachArrival p s
  | .reelTachArrival r p => Sys2Proof.Machine.execReelTachArrival r p s
  | .tachGlitchLimit => Sys2Proof.Machine.execTachGlitchLimit s
  | .revolutionComplete r => Sys2Proof.Machine.execRevolutionComplete r s
  | .markerLineArrival m level => Sys2Proof.Machine.execMarkerLineArrival m level s
  | .loadPointMarkerAccepted => Sys2Proof.Machine.execLoadPointMarkerAccepted s
  | .eotMarkerAccepted => Sys2Proof.Machine.execEotMarkerAccepted s
  | .moveCompletion => Sys2Proof.Machine.execMoveCompletion s
  | .stopCompletion => Sys2Proof.Machine.execStopCompletion s
  | .faultRampZero => Sys2Proof.Machine.execFaultRampZero s
  | .faultReport k => Sys2Proof.Machine.execFaultReport k s
  | .vacuumArrival r level => Sys2Proof.Machine.execVacuumArrival r level s
  | .driveArrival l level => Sys2Proof.Machine.execDriveArrival l level s
  | .ringArrival level => Sys2Proof.Machine.execRingArrival level s
  | .onlineSwitchArrival level => Sys2Proof.Machine.execOnlineSwitchArrival level s
  | .loadButton => Sys2Proof.Machine.execLoadButton s
  | .unloadButton => Sys2Proof.Machine.execUnloadButton s
  | .rewindButton => Sys2Proof.Machine.execRewindButton s
  | .resetButton => Sys2Proof.Machine.execResetButton s
  | .writeGateOpen => Sys2Proof.Machine.execWriteGateOpen s
  | .writeGateClose => Sys2Proof.Machine.execWriteGateClose s
  | .writeByteRequest => Sys2Proof.Machine.execWriteByteRequest s
  | .verifyEndPoint => Sys2Proof.Machine.execVerifyEndPoint s
  | .rdSigRise => Sys2Proof.Machine.execRdSigRise s
  | .readByteStrobe v => Sys2Proof.Machine.execReadByteStrobe v s
  | .rdSigFall => Sys2Proof.Machine.execRdSigFall s
  | .readBlockLengthLimit => Sys2Proof.Machine.execReadBlockLengthLimit s
  | .readEndPoint => Sys2Proof.Machine.execReadEndPoint s
  | .readBlankTape => Sys2Proof.Machine.execReadBlankTape s
  | .scanEndPoint => Sys2Proof.Machine.execScanEndPoint s
  | .scanBlankTape => Sys2Proof.Machine.execScanBlankTape s
  | .frameHeaderComplete p => Sys2Proof.Machine.execFrameHeaderComplete p s
  | .inboundByte p v parity => Sys2Proof.Machine.execInboundByte p v parity s
  | .frameEnd p => Sys2Proof.Machine.execFrameEnd p s
  | .writeDataAdmitted p => Sys2Proof.Machine.execWriteDataAdmitted p s
  | .frameError p => Sys2Proof.Machine.execFrameError p s
  | .badCommand p => Sys2Proof.Machine.execBadCommand p s
  | .load p => Sys2Proof.Machine.execLoad p s
  | .readBlock p => Sys2Proof.Machine.execReadBlock p s
  | .writeBlock p => Sys2Proof.Machine.execWriteBlock p s
  | .writeMark p => Sys2Proof.Machine.execWriteMark p s
  | .space p => Sys2Proof.Machine.execSpace p s
  | .locate p => Sys2Proof.Machine.execLocate p s
  | .rewind p => Sys2Proof.Machine.execRewind p s
  | .unload p => Sys2Proof.Machine.execUnload p s
  | .pushMark p => Sys2Proof.Machine.execPushMark p s
  | .returnToMark p => Sys2Proof.Machine.execReturnToMark p s
  | .sense p => Sys2Proof.Machine.execSense p s
  | .queryDirectory p => Sys2Proof.Machine.execQueryDirectory p s
  | .assignWriter p => Sys2Proof.Machine.execAssignWriter p s
  | .releaseWriter p => Sys2Proof.Machine.execReleaseWriter p s
  | .setPortOptions p => Sys2Proof.Machine.execSetPortOptions p s
  | .setDeckParameters p => Sys2Proof.Machine.execSetDeckParameters p s
  | .acknowledgeEvents p => Sys2Proof.Machine.execAcknowledgeEvents p s
  | .clearFault p => Sys2Proof.Machine.execClearFault p s
  | .abort p => Sys2Proof.Machine.execAbort p s
  | .portReset p => Sys2Proof.Machine.execPortReset p s
  | .linkLoss p => Sys2Proof.Machine.execLinkLoss p s
  | .linkRestored p => Sys2Proof.Machine.execLinkRestored p s
  | .recordSent p => Sys2Proof.Machine.execRecordSent p s
  | .ciFrmRises p => Sys2Proof.Machine.execCiFrmRises p s
  | .rdMarkArrival level => Sys2Proof.Machine.execRdMarkArrival level s
  | .statusByteSent p soRdy => Sys2Proof.Machine.execStatusByteSent p soRdy s

end Sys2Proof.Machine
end

