-- ==== Sys2Proof/Safety.lean ====
section
/-! DEFINITION. The terms the claims use: how a command ends, what a record says, and what the part keeps at all times. -/

namespace Sys2Proof.Machine

/-! ## How a command ends -/

/-- The command's own effect is `u`; then the event brings about what it does at the heads of the queues: operations
completed at their ports, cache hits, the arbiter's choice, the event records and the stamps (R88, R148, R157 to R159,
R174, R177). -/
def Settles (i : Instr) (s u : State) : Prop := exec i s = .next (u.settle s)

/-- The command's own effect is `u`; then the event records due are placed and the records placed are stamped (R174,
R177). -/
def Seals (i : Instr) (s u : State) : Prop := exec i s = .next u.seal

/-- The command's whole effect is `t`. -/
def Becomes (i : Instr) (s t : State) : Prop := exec i s = .next t

/-! ## Records -/

/-- What a record says beside its stamp. -/
def Rec.content (r : Rec) : RecKind × Byte × Byte × Code × Nat × Payload := (r.kind, r.tag, r.cmd, r.code, r.detail, r.payload)

/-- The content of the first record that the step from `s` to `t` adds to a port's status queue. -/
def firstAdded (s t : State) (p : PortId) : Option (RecKind × Byte × Byte × Code × Nat × Payload) :=
  ((t.port p).status[(s.port p).status.length]?).map Rec.content

/-! ## What becomes of the slots -/

/-- `v` is the buffer `b` after its slot `i` enters the cache (R87): CACHED without owner or pin at the end of the cache list,
or FREE where a slot of the list holds its block already. Every other slot stands. -/
def Bbf.Enters (i : Nat) (b v : Bbf) : Prop :=
  let x := b.slot i
  let present := ∃ m, x.block = some m ∧ ∃ k ∈ b.cache, (b.slot k).block = some m
  (x.block.isSome = true → ¬ present →
    v = { slots := b.slots.set i { x with state := .cached, owner := none, tag := 0, pins := 0, discard := false }
          cache := b.cache.filter (· ≠ i) ++ [i] })
  ∧ (x.block = none ∨ present → v = { slots := b.slots.set i Slot.freed, cache := b.cache.filter (· ≠ i) })

/-- `v` is the buffer `b` after the bytes of a record's data have been sent (R86, R89): a DELIVERING slot is FREE with disposal
DISCARD and enters the cache otherwise; a pinned slot loses a pin, and a withdrawn one its last with its place. -/
def Bbf.Releases (r : Payload) (b v : Bbf) : Prop :=
  match r with
  | .bytes _ => v = b
  | .delivering i _ =>
    ((b.slot i).discard = true → v = { slots := b.slots.set i Slot.freed, cache := b.cache.filter (· ≠ i) })
    ∧ ((b.slot i).discard = false → b.Enters i v)
  | .pinned i _ =>
    let x := b.slot i
    (x.pins ≤ 1 → x.block = none → v = { slots := b.slots.set i Slot.freed, cache := b.cache.filter (· ≠ i) })
    ∧ (1 < x.pins ∨ x.block.isSome = true → v = { b with slots := b.slots.set i { x with pins := x.pins - 1 } })

/-- The slots of `v` but those of `except` are the slots of `b` after the truncation at `n` (R90): of those that hold block `n`
or a higher one, a CACHED slot is FREE without a pin and withdrawn with one, and a DELIVERING or READING slot takes
DISCARD. The cache list keeps the blocks below `n`. -/
def Bbf.TruncatedAt (n : Nat) (except : Option Nat) (b v : Bbf) : Prop :=
  v.cache = b.cache.filter (fun i => (b.slot i).state = .cached ∧ (b.slot i).block.any (fun k => k < n))
  ∧ ∀ i, except ≠ some i →
      let x := b.slot i
      ((∀ k, x.block = some k → k < n) → v.slot i = x)
      ∧ (∀ k, x.block = some k → n ≤ k →
          (x.state = .cached → x.pins = 0 → v.slot i = Slot.freed)
          ∧ (x.state = .cached → 0 < x.pins → v.slot i = { x with block := none })
          ∧ (x.state = .delivering ∨ x.state = .reading → v.slot i = { x with discard := true })
          ∧ (x.state ∈ [.free, .filling, .pending, .writing] → v.slot i = x))

/-- `v` is the buffer `b` after the slots of the operations `lost` are freed and the cached blocks of the volume given back
(R91): the cache list is empty, a CACHED slot is FREE without a pin and withdrawn with one, and a DELIVERING slot takes
DISCARD. -/
def Bbf.GivesBack (lost : List Op) (b v : Bbf) : Prop :=
  v.cache = []
  ∧ ∀ i,
      let x := b.slot i
      ((∃ o ∈ lost, o.slot = some i) → v.slot i = Slot.freed)
      ∧ ((∀ o ∈ lost, o.slot ≠ some i) →
          (x.state = .cached → x.pins = 0 → v.slot i = Slot.freed)
          ∧ (x.state = .cached → 0 < x.pins → v.slot i = { x with block := none })
          ∧ (x.state = .delivering → v.slot i = { x with discard := true })
          ∧ (x.state ≠ .cached → x.state ≠ .delivering → v.slot i = x))

/-- What the entry to UNLOADING or a hard clear leaves of the volume (R10, R73, R91): no writer, no write-enable flag, an empty
directory, the ports at block 0 with empty stacks, the engine at no valid position, and the slots given back with those of
the writer's queued writes, which leave its queue (R156). -/
structure Unloads (s u : State) : Prop where
  writeEnable : u.dsq.writeEnable = false
  writer : u.arb.writer = none
  directory : u.bdr = Bdr.cleared
  ports : ∀ p, (u.port p).next = 0 ∧ (u.port p).marks = [] ∧ (u.port p).overflow = false
  engine : u.ope.deckNext = 0 ∧ u.ope.posValid = false ∧ u.ope.failCount = 0
  buffer : s.bbf.GivesBack
    (match s.arb.writer with | some p => (s.port p).queue.filter (fun o => o.cmd.isWrite) | none => []) u.bbf

/-- The kinds of event that the step from `s` to `u` adds at both ports, WRITER_CHANGED among them where the writer was released
(R176). -/
def AddsEvents (s u : State) (k : EventSet) : Prop :=
  ∀ p, s.enabled p = true → (u.port p).pendingEv =
    ((s.port p).pendingEv ||| (if s.arb.writer = none then 0 else EventKind.writerChanged.bit)) ||| k

/-- `u` is `s` after an accepted clear (R71): the fault items absent, the counts 0, FAULT_CLEARED at both ports, and the state that
the resume point and the kind of the fault give, entered with its entry actions. LOAD_POINT_SEARCH sets the counter to
−2,000 and searches forward at CREEP (R7); REZERO empties the directory, clears the markers and the EOT-passed flag, a line
that is true being sighted anew, and searches in reverse at FAST (R12); REWIND_OUT moves to −2,000, and WIND_OFF starts its
timer with the supply reel in fixed take-in and the take-up reel in zero mode (R11); READY has both loops latched IN (R44)
and tests the EOT-warning latch (R132). The slots, the arbiter and but for a re-zero the directory stand. -/
def Resumes (s u : State) : Prop :=
  let goal : Deck := match s.dsq.resume with
    | some .vacuumUp => .loadPointSearch
    | some .loopForm => .loadPointSearch
    | some .loadPointSearch => .loadPointSearch
    | some .rezero => .rezero
    | some .rewindOut => .rewindOut
    | some .windOff => .windOff
    | _ => if s.dsq.faultKind = some .tach then .rezero else .ready
  let q : Dsq := { s.dsq with deck := goal, timer := none, search := none, faultKind := none, escKind := none, resume := none }
  let supply : ReelState := { s.tsv.supply with satFlag := false, satCount := 0 }
  let takeup : ReelState := { s.tsv.takeup with satFlag := false, satCount := 0 }
  let v : Tsv := { s.tsv with glitches := 0, stall := 0, supply := supply, takeup := takeup }
  let e : Ope := { s.ope with failCount := 0 }
  let sighted := fun (line : Bool) => if line then Sighting.seeing s.tsv.counter 0 else .clear
  u.bbf = s.bbf ∧ u.arb = s.arb
  ∧ (∀ p, s.enabled p = true → (u.port p).pendingEv = (s.port p).pendingEv ||| EventKind.faultCleared.bit)
  ∧ (goal ≠ .ready → u.ope = e) ∧ (goal ≠ .rezero → u.bdr = s.bdr)
  ∧ (goal = .ready →
      u.dsq = q ∧ u.ope = { e with eotLatch := s.ope.eotLatch && s.tsv.eotPassed }
      ∧ u.tsv = { v with supply := { supply with latchOut := false }, takeup := { takeup with latchOut := false } })
  ∧ (goal = .loadPointSearch →
      u.dsq = { q with searchTravel := 0, search := some ⟨.load, .running⟩ }
      ∧ u.tsv = { v with
          counter := -2000, order := .run .creep true .deck, target := 64, report := none
          supply := { supply with acc := 0, capSnap := -2000, loopSnap := supply.loop, mode := .regulated }
          takeup := { takeup with acc := 0, capSnap := -2000, loopSnap := takeup.loop, mode := .regulated } })
  ∧ (goal = .rezero →
      u.dsq = { q with flash := true, searchTravel := 0, search := some ⟨.rezeroReverse, .running⟩ }
      ∧ u.bdr = { entries := [], stride := 1, known := -1, eod := none }
      ∧ u.tsv = { v with
          lp := sighted v.lpLine, eot := sighted v.eotLine, eotPassed := false, eotPos := none, lpDue := none, eotDue := none
          order := .run .fast false .deck, target := -1280, report := none })
  ∧ (goal = .rewindOut →
      u.dsq = q
      ∧ u.tsv = { v with
          order := .move { target := -2000, forward := false, speed := classOf (s.tsv.counter + 2000), latch := false } .deck
          report := none })
  ∧ (goal = .windOff →
      u.dsq = { q with timer := some .windOff }
      ∧ u.tsv = { v with
          windowReport := false
          supply := { supply with mode := .fixed, measuring := false }
          takeup := { takeup with mode := .zero, measuring := false } })

/-! ## Takes of frames -/

/-- The command of the table that is the take of a frame of a command of Table 10-3. -/
def takeOf (c : Cmd) (p : PortId) : Instr :=
  match c with
  | .load => .load p
  | .readBlock => .readBlock p
  | .writeBlock => .writeBlock p
  | .writeMark => .writeMark p
  | .space => .space p
  | .locate => .locate p
  | .rewind => .rewind p
  | .unload => .unload p
  | .pushMark => .pushMark p
  | .returnToMark => .returnToMark p
  | .sense => .sense p
  | .queryDirectory => .queryDirectory p
  | .assignWriter => .assignWriter p
  | .releaseWriter => .releaseWriter p
  | .setPortOptions => .setPortOptions p
  | .setDeckParameters => .setDeckParameters p
  | .acknowledgeEvents => .acknowledgeEvents p
  | .clearFault => .clearFault p
  | .abort => .abort p
  | .portReset => .portReset p

/-- A frame of an immediate command that its port answers by the command's own rule: RESET false, the take conditions of
R152 met, and no deferred error. -/
structure Answered (s : State) (p : PortId) (c : Cmd) : Prop where
  running : s.inReset = false
  takes : s.takes p c = true
  noError : (s.port p).deferred = none

/-! ## What the servo keeps -/

/-- A reel within its ranges (R43, R47, R49, R54, R55). -/
structure ReelOk (r : ReelState) : Prop where
  packMin : Config.packMin ≤ r.pack
  packMax : r.pack ≤ Config.packMax
  acc : r.acc.natAbs ≤ 1024
  loop : r.loop ≤ 1023
  cmd : (r.cmd.natAbs : Int) ≤ Config.reelMax
  satCount : r.satCount ≤ Config.satMax

/-- The servo within its ranges (R35, R36, R37, section 'Capstan command and speed classes'). -/
structure ServoOk (v : Tsv) : Prop where
  vc : v.vc.natAbs ≤ 1280
  target : v.target.natAbs ≤ 1280
  counterMin : Config.counterMin ≤ v.counter
  counterMax : v.counter ≤ Config.counterMax
  glitches : v.glitches ≤ Config.glitchMax
  stall : v.stall ≤ Config.stallMax
  supply : ReelOk v.supply
  takeup : ReelOk v.takeup

/-! ## What the ports, the buffer and the arbiter share -/

/-- A port within its ranges: at most four queued operations (R150) and four marks (R147), the next-block number and the marks
within a known EOD (R139, R161). -/
structure PortOk (d : Bdr) (q : Port) : Prop where
  queue : q.queue.length ≤ Config.maxOps
  marks : q.marks.length ≤ Config.maxMarks
  next : d.bound q.next = q.next
  marksIn : q.marks.map d.bound = q.marks

/-- The ports, the buffer and the arbiter within their ranges: sixteen slots, of which only the held ones have an owner
(R77, R78), a cache list without repeats (R87), no port charged with more than eight slots and pins (R80), and a chain run
of at most 16 (R159). -/
structure SharedOk (s : State) : Prop where
  port : ∀ p, PortOk s.bdr (s.port p)
  slots : s.bbf.slots.length = 16
  owner : ∀ x ∈ s.bbf.slots, x.state.isHeld = false → x.owner = none
  cache : s.bbf.cache.Nodup
  charge : ∀ p, s.charge p ≤ Config.maxCharge
  chain : s.arb.chainRun ≤ Config.maxChain

/-! ## What the engine and the ports' records keep -/

/-- An operation that the engine holds for a port is the granted head of the port's queue (R151). -/
def State.headIs (s : State) (j : Job) : Prop :=
  ∀ p, j.port = some p → (s.port p).queue.head? = some j.op ∧ j.op.granted = true

/-- The engine beside the deck and the queues: the arbiter is not being asked, one operation at most is executing or waits
for the stop of R130, none executes in IDLE (R114), a marker search runs only while the deck searches (R7, R12), an
operation executes only in READY unless it is a LOAD or UNLOAD that the deck sequencer works for, and no port owes more
than eight records (R152), a buffered WRITE BLOCK alone owing none (R154). -/
structure EngineOk (s : State) : Prop where
  asking : s.ope.asking = false
  idle : s.ope.phase = .idle → s.ope.job = none
  waiting : s.ope.waiting.isSome → s.ope.job = none ∧ s.ope.phase = .stop ∧ s.dsq.deck = .ready
  search : ∀ x, s.dsq.search = some x → s.dsq.deck = (if x.pass = .load then .loadPointSearch else .rezero)
  deckJob : ∀ j, s.ope.job = some j → j.stage = .deck →
    (j.op.cmd = .load ∨ j.op.cmd = .unload)
      ∧ s.dsq.deck ∈ [.vacuumUp, .loopForm, .loadPointSearch, .rewindOut, .windOff]
  tapeJob : ∀ j, s.ope.job = some j → j.stage ≠ .deck → s.dsq.deck = .ready
  head : ∀ j, s.ope.job = some j ∨ s.ope.waiting = some j → s.headIs j
  owed : ∀ p, ∀ o ∈ (s.port p).queue, o.cmd ≠ .writeBlock → o.owed = true
  records : ∀ p, (s.port p).recordCount ≤ Config.maxRecords

/-! ## Predicates kept by every effect -/

/-- A predicate of the state that no change of a port, the deck sequencer, the engine, the arbiter, the buffer or the
model's own count can break, nor a change of the servo that keeps its ranges, nor a change of the directory that keeps
its order. -/
structure Closed (P : State → Prop) : Prop where
  port : ∀ p f s, P s → P (s.onPort p f)
  dsq : ∀ f s, P s → P (s.onDsq f)
  ope : ∀ f s, P s → P (s.onOpe f)
  bbf : ∀ f s, P s → P (s.onBbf f)
  arb : ∀ f s, P s → P (s.onArb f)
  drawn : ∀ n s, P s → P (s.drawn n)
  tsv : ∀ f s, (∀ v, ServoOk v → ServoOk (f v)) → P s → P (s.onTsv f)
  bdr : ∀ f s, (∀ d, Bdr.wf d → Bdr.wf (f d)) → P s → P (s.onBdr f)

end Sys2Proof.Machine
end

