-- ==== Sys2Proof/Certificates/Slice0/Obligations.lean ====
section
/-! DEFINITION. The statements for the provers. Each docstring names the rules the statement formalises. A statement says
`Settles`, `Seals` or `Becomes` (Safety.lean) of the state `u` that the command's own effect leaves: `Becomes` where that
is the whole step, `Seals` where the event records and stamps follow, `Settles` where the heads of the queues follow
first. An equation for `u` is its own frame: every field it does not name is unchanged; `q.nextFrame` is a port from which
the frame just answered has left. That every row of the table is a
step of its own, taken when it is due, is the model's choice (notes/assumptions/1.md). -/

open Sys2Proof Sys2Proof.Machine

/-! ## The block as a whole -/

/-- A step runs the command at the front of the queue on the state with the rest of the queue. (That an empty queue idles is
the model's choice, notes/assumptions/5.md.) -/
def Obligations.StepRunsTheFrontCommand : Prop :=
  (∀ (c : Instr) (rest : List Instr) (s : State),
      step { s with pending := c :: rest } = exec c { s with pending := rest })
  ∧ ∀ s : State, s.pending = [] → step s = .next s

/-- No command stops the part, none touches the queue of commands, and only the RESET line and the supply monitor change
whether the part is held in reset (R189). That one level holds the part for both, so that a fall of RESET ends a hold by the
supply monitor too, is the model's choice (notes/assumptions/47.md). -/
def Obligations.EveryCommandAnswersANextState : Prop :=
  ∀ (c : Instr) (s : State), ∃ t, exec c s = .next t ∧ t.pending = s.pending ∧
    t.inReset = (match c with
      | .powerUp => true
      | .resetRise => true
      | .resetFall _ => false
      | _ => s.inReset)

/-- Power-up and a rise of RESET hold every block at its power-on values; while RESET is true no arrival is taken and no
timer runs; the fall of RESET starts the blocks with the lines as they stand and one presentation of the zero commands
(R185, R189). That the held state has every line low is the model's choice (notes/assumptions/2.md), and so are that
without a rise there is no fall (notes/assumptions/37.md) and that one level holds the part for both RESET and the
supply monitor (notes/assumptions/47.md). -/
def Obligations.ResetLine : Prop :=
  ∀ (s : State) (lv : Levels),
    let held : State := { State.powerOn Levels.low with inReset := true, draws := s.draws, pending := s.pending }
    Becomes .powerUp s held
    ∧ Becomes .resetRise s held
    ∧ (s.inReset = true →
        Becomes (.resetFall lv) s
          { State.powerOn lv with
              tsv := { (State.powerOn lv).tsv with strobes := 1 }, draws := s.draws, pending := s.pending })
    ∧ (s.inReset = false → Becomes (.resetFall lv) s s)
    ∧ ∀ c : Instr, s.inReset = true → c ≠ .powerUp → c ≠ .resetRise → (∀ v, c ≠ .resetFall v) → Becomes c s s

/-- The power-on values of every block (R22, R42, R60, R94, R110, R114, R134, R150, R155, R158, R185, R187, R189), the input
lines as they stand: the straps, the online flag, the line pairs, the loop readings and the marker sightings are taken from
them; and the state after reset, which is them with the zero commands presented once. That every line is low there
(notes/assumptions/2.md), that DECK-NUM and a loop bus are read by their lines (notes/assumptions/6.md) and that no marker
search runs (notes/assumptions/9.md) are the model's choices. -/
def Obligations.PowerOnValues : Prop :=
  (∀ lv : Levels, let s := State.powerOn lv
    (s.dsq.deck = .unloaded ∧ s.dsq.faultKind = none ∧ s.dsq.escKind = none ∧ s.dsq.resume = none ∧ s.dsq.autoCount = 0
      ∧ s.dsq.writeEnable = false ∧ s.dsq.online = lv.online ∧ s.dsq.portbEn = lv.portbEn
      ∧ s.dsq.deckNum = lv.deckNum % 16 ∧ s.dsq.timer = none ∧ s.dsq.search = none ∧ s.dsq.searchTravel = 0 ∧ s.dsq.faults = []
      ∧ s.dsq.vacS = lv.vacS ∧ s.dsq.vacT = lv.vacT ∧ s.dsq.ampRdy = lv.ampRdy ∧ s.dsq.ampFlt = lv.ampFlt
      ∧ s.dsq.ring = lv.ring
      ∧ s.dsq.params = { gain := 6, check := .k32, retryLimit := 8, failLimit := 24, autoClear := false })
    ∧ (s.tsv.vc = 0 ∧ s.tsv.target = 0 ∧ s.tsv.step = 80 ∧ s.tsv.order = .none ∧ s.tsv.counter = 0 ∧ s.tsv.tally = 0
      ∧ s.tsv.glitches = 0 ∧ s.tsv.stall = 0 ∧ s.tsv.lastPair = lv.ctach ∧ s.tsv.lpLine = lv.markLp ∧ s.tsv.eotLine = lv.markEot
      ∧ s.tsv.lp = (if lv.markLp then .seeing 0 0 else .clear) ∧ s.tsv.eot = (if lv.markEot then .seeing 0 0 else .clear)
      ∧ s.tsv.eotPassed = false ∧ s.tsv.eotPos = none ∧ s.tsv.capCmd = 0 ∧ s.tsv.srlCmd = 0 ∧ s.tsv.trlCmd = 0)
    ∧ (∀ w : Reel, let r := s.tsv.reel w
        r.pack = (match w with | .supply => 33000 | .takeup => 13500)
        ∧ r.loop = (match w with | .supply => lv.loopS | .takeup => lv.loopT) % 1024
        ∧ r.last = (match w with | .supply => lv.stach | .takeup => lv.ttach)
        ∧ r.acc = 0 ∧ r.capSnap = s.tsv.counter ∧ r.loopSnap = r.loop ∧ r.latchOut = false ∧ r.cmd = 0 ∧ r.mode = .zero
        ∧ r.satFlag = false ∧ r.satCount = 0)
    ∧ (s.ope.phase = .idle ∧ s.ope.job = none ∧ s.ope.attempt = 0 ∧ s.ope.deckNext = 0 ∧ s.ope.posValid = false
      ∧ s.ope.expStart = 3000 ∧ s.ope.failCount = 0 ∧ s.ope.eotLatch = false ∧ s.ope.wrErase = false ∧ s.ope.wrGate = false
      ∧ s.ope.wrMark = false)
    ∧ (s.arb.holder = none ∧ s.arb.lastServed = .b ∧ s.arb.chainRun = 0 ∧ s.arb.writer = none)
    ∧ (s.bbf.slots = List.replicate 16 Slot.freed ∧ s.bbf.cache = [])
    ∧ (s.bdr.entries = [] ∧ s.bdr.stride = 1 ∧ s.bdr.known = -1 ∧ s.bdr.eod = none)
    ∧ ∀ p, (s.port p).next = 0 ∧ (s.port p).queue = [] ∧ (s.port p).status = [] ∧ (s.port p).marks = []
        ∧ (s.port p).overflow = false ∧ (s.port p).mode = .verified ∧ (s.port p).mask = BitVec.allOnes 9
        ∧ (s.port p).pendingEv = 0 ∧ (s.port p).hold = false ∧ (s.port p).deferred = none ∧ (s.port p).rx = Rx.none
        ∧ (s.port p).soFrm = false ∧ (s.port p).sent = 0
        ∧ (s.port p).linkAct = (match p with | .a => lv.linkA | .b => lv.linkB)
        ∧ s.bbf.held p = 0 ∧ s.charge p = 0)
  ∧ State.reset = { State.powerOn Levels.low with tsv := { (State.powerOn Levels.low).tsv with strobes := 1 } }
  ∧ State.reset.pending = [] ∧ State.reset.inReset = false ∧ ∀ p, State.reset.inService p = false

/-! ## Invariants every step keeps -/

/-- Every step keeps the servo within its ranges: |Vc| and |target| at most 1280, the counter within its limits (R35), the
glitch, stall and saturation counts within theirs (R36, R37, R55), every pack estimate from 12,000 to 36,000 (R49) and
every reel command from −160 to +160 (R54). -/
def Obligations.EveryStepKeepsTheServoInRange : Prop :=
  ∀ s t : State, ServoOk s.tsv → step s = .next t → ServoOk t.tsv

/-- Every step keeps the directory in order: entries strictly rising in number and in start, multiples of the stride, at
most 4096 of them, none above the known limit, and the known limit below a known EOD (R97 to R100, R104). Every step
keeps what the ports, the buffer and the arbiter share within its ranges: at most four queued operations and four marks at
each port, the next-block numbers and the marks within a known EOD, sixteen slots, a cache list without repeats, no port
charged with more than eight, and a chain run of at most 16 (R77, R80, R87, R147, R150, R151, R158, R161). And every step
keeps the engine with the deck and the queues: no port owes more than eight records (R152), one operation at most executes,
it is the granted head of its port's queue, none executes in IDLE, and only in READY or for a LOAD or UNLOAD under way
(R114, R151). -/
def Obligations.EveryStepKeepsTheDirectoryInOrder : Prop :=
  ∀ s t : State, step s = .next t →
    (s.bdr.wf → t.bdr.wf) ∧ (SharedOk s → SharedOk t) ∧ (EngineOk s → EngineOk t)

/-- After reset the servo is in range, the directory in order, what the ports, the buffer and the arbiter share within its
ranges, and the engine idle beside empty queues. -/
def Obligations.ResetKeepsTheInvariants : Prop :=
  ServoOk State.reset.tsv ∧ State.reset.bdr.wf ∧ SharedOk State.reset ∧ EngineOk State.reset

/-! ## Servo arithmetic -/

/-- RNA rounds to the nearest integer, with ties away from zero; the manual's examples (R1). -/
def Obligations.RoundingIsToNearestTiesAway : Prop :=
  (∀ (n : Int) (d : Nat), 0 < d →
    2 * (rna n d * d - n).natAbs ≤ d ∧ (2 * (rna n d * d - n).natAbs = d → n.natAbs < (rna n d * d).natAbs))
  ∧ rna 5 2 = 3 ∧ rna (-5) 2 = -3 ∧ rna (-9) 8 = -1

/-- The stop distance: the velocities after each step summed, over 16, rounded up; exact and V(V − A)/(32A) when V is a
multiple of the step A; the manual's table (R27). -/
def Obligations.StopDistance : Prop :=
  (∀ v a : Nat, 0 < a →
    dstop v a = (((List.range (v / a + 1)).map (fun j => v - (j + 1) * a)).sum + 15) / 16)
  ∧ (∀ v a : Nat, a = 16 ∨ a = 80 ∨ a = 160 → a ∣ v → 32 * a * dstop v a = v * (v - a))
  ∧ dstop 400 80 = 50 ∧ dstop 1280 16 = 3160 ∧ dstop 64 80 = 0 ∧ dstop 100 80 = 2 ∧ dstop 1280 160 = 280
  ∧ dstop 400 160 = 20 ∧ ∀ a, dstop 0 a = 0

/-- A step of Vc toward the target: without the hold it reaches the target when that is within A, else moves by A toward it;
under the hold a step that would increase |Vc| is not taken, one that would pass through 0 leaves Vc at 0, and one that
decreases |Vc| on the same side is taken in full (R26). -/
def Obligations.CapstanStepAndHold : Prop :=
  ∀ vc target a : Int, 0 ≤ a →
    let r := stepVc vc target a false
    let w := stepVc vc target a true
    let through := (0 < vc ∧ r < 0) ∨ (vc < 0 ∧ 0 < r)
    ((target - vc).natAbs ≤ a.natAbs → r = target)
    ∧ (a < target - vc → r = vc + a) ∧ (a < vc - target → r = vc - a)
    ∧ (through → w = 0)
    ∧ (¬ through → vc.natAbs < r.natAbs → w = vc)
    ∧ (¬ through → r.natAbs ≤ vc.natAbs → w = r)

/-! ## The period expiry -/

/-- The period expiry at each reel, by its mode (R23, R43, R44, R47, R50 to R58, R185). The loop is sampled and the loop-out latch
follows the reading. Under regulation the command is FF + C limited to ±160, the saturation flag set exactly when the
limit changed the sum, and the saturation count one higher, up to 100, or 0; the expiry that brings it to 100 in
LOADING, READY or REWIND_OUT makes the report due. The measurement of the pack begins at the first expiry of regulation and
is restarted there by a limited command, its accumulator 0 and both snapshots of this expiry; otherwise it goes on as it
stands. Outside regulation it is ended and restarted at every expiry (R47, R50). In the zero mode the command is 0, in fixed take-in −64, and a reel
still forming a loop is driven at ±32 until its reading lies in the window. A latch that goes OUT in READY, REWIND_OUT or
FAULT_STOP is reported LOOP_OUT with its column named. While a marker search runs, the tally just closed is added to the
search travel, or taken from it in the reverse pass (R7, R12). The values are presented, the tally is 0 and the counter
stands. Engine, arbiter, buffer, directory and ports are untouched. -/
def Obligations.PeriodExpiryRegulatesTheReels : Prop :=
  ∀ (s : State) (ls lt : Nat), s.inReset = false → ls ≤ 1023 → lt ≤ 1023 →
    let d := s.dsq.deck
    let bad := fun (l : Nat) => l < 64 ∨ 960 < l
    let window := fun (l : Nat) => 448 ≤ l ∧ l ≤ 576
    ∃ t, exec (.regulationPeriodExpiry ls lt) s = .next t
      ∧ (∀ w : Reel,
          let l : Nat := match w with | .supply => ls | .takeup => lt
          let r := s.tsv.reel w
          let r' := t.tsv.reel w
          let ff := rna (t.tsv.vc * 1024) r.pack.natAbs
          let sum := (match w with | .supply => ff | .takeup => -ff) - rna (s.dsq.params.gain * ((l : Int) - 512)) 64
          let past := sum < -160 ∨ 160 < sum
          let regulated := d ∈ [.loadPointSearch, .rezero, .ready, .rewindOut, .faultStop, .faultedSoft]
            ∨ (d = .loopForm ∧ (r.mode = .forming → window l))
          let restarted := r'.acc = 0 ∧ r'.capSnap = s.tsv.counter ∧ r'.loopSnap = l
          let calm := r'.satFlag = false ∧ r'.satCount = 0 ∧ r'.satDue = r.satDue ∧ r'.measuring = false ∧ restarted
          r'.loop = l ∧ (r'.latchOut = true ↔ bad l) ∧ r'.pack = r.pack ∧ r'.last = r.last
          ∧ (regulated → r'.measuring = true ∧ (r.measuring = false ∨ past → restarted)
              ∧ (r.measuring = true → ¬ past → r'.acc = r.acc ∧ r'.capSnap = r.capSnap ∧ r'.loopSnap = r.loopSnap))
          ∧ (regulated → r'.mode = .regulated ∧ r'.cmd = max (-160) (min 160 sum) ∧ (r'.satFlag = true ↔ past)
              ∧ (past → r'.satCount = min 100 (r.satCount + 1)) ∧ (¬ past → r'.satCount = 0)
              ∧ (r'.satDue = true ↔ r.satDue = true ∨ (past ∧ r.satCount + 1 = 100
                  ∧ d ∈ [.loopForm, .loadPointSearch, .rezero, .ready, .rewindOut])))
          ∧ (d ∈ [.unloaded, .vacuumUp, .faultedHard] ∨ (d = .windOff ∧ w = .takeup) →
              r'.mode = .zero ∧ r'.cmd = 0 ∧ calm)
          ∧ (d = .windOff → w = .supply → r'.mode = .fixed ∧ r'.cmd = -64 ∧ calm)
          ∧ (d = .loopForm → r.mode = .forming → ¬ window l →
              r'.mode = .forming ∧ r'.cmd = (if l < 448 then 32 else -32) ∧ calm))
      ∧ t.dsq.faults = s.dsq.faults
          ++ (if d ∈ [.ready, .rewindOut, .faultStop] ∧ s.tsv.supply.latchOut = false ∧ bad ls
              then [FaultKind.loopOut.reportAt .supply] else [])
          ++ (if d ∈ [.ready, .rewindOut, .faultStop] ∧ s.tsv.takeup.latchOut = false ∧ bad lt
              then [FaultKind.loopOut.reportAt .takeup] else [])
      ∧ t.dsq.searchTravel = s.dsq.searchTravel
          + (if s.dsq.search = some ⟨.load, .running⟩ ∨ s.dsq.search = some ⟨.rezeroForward, .running⟩ then s.tsv.tally
             else if s.dsq.search = some ⟨.rezeroReverse, .running⟩ then -s.tsv.tally else 0)
      ∧ t.tsv.capCmd = BitVec.ofInt 12 t.tsv.vc ∧ t.tsv.srlCmd = BitVec.ofInt 9 t.tsv.supply.cmd
      ∧ t.tsv.trlCmd = BitVec.ofInt 9 t.tsv.takeup.cmd ∧ t.tsv.strobes = s.tsv.strobes + 1
      ∧ t.tsv.tally = 0 ∧ t.tsv.counter = s.tsv.counter
      ∧ t = { s with tsv := t.tsv, dsq := { s.dsq with searchTravel := t.dsq.searchTravel, faults := t.dsq.faults } }

/-- The period expiry first makes the stall test (R37): a period with |Vc| at 64 or more and no count raises the stall
count, up to 50, any other sets it to 0, and the period that brings it to 50 in LOADING, READY, UNLOADING or FAULT_STOP
makes the report due. It steps Vc toward the target at the step A of R25, 160 under the fault ramp, else 16 for a FAST order
or where |Vc| or the target exceeds 400, else 80, under the hold when a saturation flag stands (R26). In a move the braking
test sets the latch and target 0 at the stop distance, and the latch keeps it there (R29); an order whose stop has brought
Vc to 0 ends with its completion reported (R30, R32, R33), and stands while Vc has not reached 0; a run, a stop, the fault
ramp and no order leave the target as it is. The glitch count, the markers and the lines stand. The window report is this
expiry's (R45; that a report not yet taken is replaced is the model's choice, notes/assumptions/38.md). -/
def Obligations.PeriodExpiryStepsTheCapstan : Prop :=
  ∀ (s : State) (ls lt : Nat), s.inReset = false →
    ∃ t, exec (.regulationPeriodExpiry ls lt) s = .next t
      ∧ (let v := s.tsv
         let hold := v.supply.satFlag || v.takeup.satFlag
         let fast := match v.order with
           | .move m _ => decide (m.speed = .fast)
           | .run c _ _ => decide (c = .fast)
           | .stop f _ => f
           | .none => false
           | .faultRamp => false
         let stepA := fun (target : Int) =>
           if v.order = .faultRamp then (160 : Int)
           else if fast = true ∨ 400 < v.vc.natAbs ∨ 400 < target.natAbs then 16 else 80
         let stalled := 64 ≤ v.vcPeriod.natAbs ∧ v.counted = false
         t.tsv.step = stepA t.tsv.target
         ∧ t.tsv.vc = stepVc v.vc t.tsv.target t.tsv.step hold ∧ t.tsv.vcPeriod = t.tsv.vc ∧ t.tsv.counted = false
         ∧ (stalled → t.tsv.stall = min 50 (v.stall + 1)) ∧ (¬ stalled → t.tsv.stall = 0)
         ∧ (t.tsv.stallDue = true ↔ v.stallDue = true ∨ (stalled ∧ v.stall + 1 = 50
              ∧ s.dsq.deck ∉ [.unloaded, .faultedSoft, .faultedHard]))
         ∧ (t.tsv.windowReport = true ↔
              (s.dsq.deck = .loopForm ∧ 448 ≤ ls % 1024 ∧ ls % 1024 ≤ 576 ∧ 448 ≤ lt % 1024 ∧ lt % 1024 ≤ 576)
              ∨ (s.dsq.deck = .windOff ∧ ls % 1024 < 64 ∧ lt % 1024 < 64))
         ∧ (∀ m i, v.order = .move m i → m.latch = false →
              v.distance m.target m.forward ≤ dstop v.vc.natAbs (stepA v.target).toNat →
              t.tsv.target = 0 ∧
                (if t.tsv.vc = 0 then t.tsv.order = .none ∧ t.tsv.report = some (.moveDone i (v.counter - m.target))
                 else t.tsv.order = .move { m with latch := true } i ∧ t.tsv.report = v.report))
         ∧ (∀ m i, v.order = .move m i → m.latch = false →
              dstop v.vc.natAbs (stepA v.target).toNat < v.distance m.target m.forward →
              t.tsv.target = signed m.forward m.speed.value ∧ t.tsv.order = v.order ∧ t.tsv.report = v.report)
         ∧ (∀ m i, v.order = .move m i → m.latch = true →
              t.tsv.target = 0 ∧
                (if t.tsv.vc = 0 then t.tsv.order = .none ∧ t.tsv.report = some (.moveDone i (v.counter - m.target))
                 else t.tsv.order = v.order ∧ t.tsv.report = v.report))
         ∧ (∀ c f i, v.order = .run c f i → t.tsv.target = v.target ∧ t.tsv.order = v.order ∧ t.tsv.report = v.report)
         ∧ (∀ f i, v.order = .stop f i → t.tsv.target = v.target ∧
              (if t.tsv.vc = 0 then t.tsv.order = .none ∧ t.tsv.report = some (.stopDone i)
               else t.tsv.order = v.order ∧ t.tsv.report = v.report))
         ∧ (v.order = .faultRamp → t.tsv.target = v.target ∧
              (if t.tsv.vc = 0 then t.tsv.order = .none ∧ t.tsv.report = some .rampZero
               else t.tsv.order = v.order ∧ t.tsv.report = v.report))
         ∧ (v.order = .none → t.tsv.target = v.target ∧ t.tsv.order = .none ∧ t.tsv.report = v.report)
         ∧ t.tsv.glitches = v.glitches ∧ t.tsv.glitchDue = v.glitchDue ∧ t.tsv.lastPair = v.lastPair
         ∧ t.tsv.lpLine = v.lpLine ∧ t.tsv.lp = v.lp ∧ t.tsv.lpDue = v.lpDue
         ∧ t.tsv.eotLine = v.eotLine ∧ t.tsv.eot = v.eot ∧ t.tsv.eotDue = v.eotDue
         ∧ t.tsv.eotPassed = v.eotPassed ∧ t.tsv.eotPos = v.eotPos)

/-- Each report that is due is made once: stall (R37), glitch (R36) and reel saturation (R55) reports reach the deck
sequencer's list of reports, the last with its reel named, and a report not due changes nothing (that a report waits to
be taken is the model's choice, notes/assumptions/1.md). -/
def Obligations.DueReportsAreMadeOnce : Prop :=
  ∀ s : State, s.inReset = false →
    (s.tsv.stallDue = true → Becomes .stallLimit s
      { s with tsv := { s.tsv with stallDue := false },
               dsq := { s.dsq with faults := s.dsq.faults ++ [{ kind := .tach, reel := none }] } })
    ∧ (s.tsv.stallDue = false → Becomes .stallLimit s s)
    ∧ (s.tsv.glitchDue = true → Becomes .tachGlitchLimit s
      { s with tsv := { s.tsv with glitchDue := false },
               dsq := { s.dsq with faults := s.dsq.faults ++ [{ kind := .tach, reel := none }] } })
    ∧ (s.tsv.glitchDue = false → Becomes .tachGlitchLimit s s)
    ∧ (s.tsv.supply.satDue = true → Becomes (.reelSaturationLimit .supply) s
      { s with tsv := { s.tsv with supply := { s.tsv.supply with satDue := false } },
               dsq := { s.dsq with faults := s.dsq.faults ++ [{ kind := .reelSaturation, reel := some .supply }] } })
    ∧ (s.tsv.takeup.satDue = true → Becomes (.reelSaturationLimit .takeup) s
      { s with tsv := { s.tsv with takeup := { s.tsv.takeup with satDue := false } },
               dsq := { s.dsq with faults := s.dsq.faults ++ [{ kind := .reelSaturation, reel := some .takeup }] } })
    ∧ (∀ w, (s.tsv.reel w).satDue = false → Becomes (.reelSaturationLimit w) s s)

/-! ## Tachs and markers -/

/-- The capstan decoder (R34), in every deck state: the forward order 00, 10, 11, 01 counts +1 and the reverse order −1, the
counter holding at its limits (R35); no change is ignored; a change of both lines is a glitch that adds one to the
glitch count, up to 255, and makes the report due when it brings the count from 7 to 8 in LOADING, READY, UNLOADING or
FAULT_STOP (R36). The new pair becomes the last. A count is travel for both markers: a sighting with 15 counts of travel is
accepted at its sixteenth, with the direction of this count (R38). A reverse count that brings the counter below the
recorded EOT position clears the EOT-passed flag (R40). With the flag set, a forward count that leaves the counter more than
120,000 above that position in LOADING, READY or UNLOADING is reported EOT_OVERRUN (R41). Only the servo and the list of
fault reports change. (That a glitch report and an acceptance wait, due, for a command of their own is the model's choice,
notes/assumptions/1.md, and so is that a reverse count clears the flag even where the counter stood below the position
already, notes/assumptions/52.md.) -/
def Obligations.CapstanDecoder : Prop :=
  ∀ (s : State) (p : Pair), s.inReset = false →
    ∃ t, exec (.capstanTachArrival p) s = .next t ∧ t.tsv.lastPair = p
      ∧ t = { s with tsv := t.tsv, dsq := { s.dsq with faults := t.dsq.faults } }
      ∧ (let v := s.tsv
         let w := t.tsv
         let q := v.lastPair
         let forward := (q = ⟨false, false⟩ ∧ p = ⟨true, false⟩) ∨ (q = ⟨true, false⟩ ∧ p = ⟨true, true⟩)
            ∨ (q = ⟨true, true⟩ ∧ p = ⟨false, true⟩) ∨ (q = ⟨false, true⟩ ∧ p = ⟨false, false⟩)
         let reverse := (p = ⟨false, false⟩ ∧ q = ⟨true, false⟩) ∨ (p = ⟨true, false⟩ ∧ q = ⟨true, true⟩)
            ∨ (p = ⟨true, true⟩ ∧ q = ⟨false, true⟩) ∨ (p = ⟨false, true⟩ ∧ q = ⟨false, false⟩)
         let travels := fun (m m' : Sighting) =>
            (∀ first, m = .seeing first 15 → m' = .accepted)
            ∧ (∀ first n, m = .seeing first n → n ≠ 15 → m' = .seeing first (n + 1))
            ∧ (m = .clear ∨ m = .accepted → m' = m)
         let overrun := v.eotPassed = true ∧ (∃ pos, v.eotPos = some pos ∧ pos + 120000 < w.counter)
            ∧ s.dsq.deck ∈ [.vacuumUp, .loopForm, .loadPointSearch, .rezero, .ready, .rewindOut, .windOff]
         (forward → w.counter = min 33554431 (v.counter + 1) ∧ w.tally = v.tally + 1 ∧ w.eotPassed = v.eotPassed
            ∧ (∀ first, v.lp = .seeing first 15 → w.lpDue = some true)
            ∧ (∀ first, v.eot = .seeing first 15 → w.eotDue = some (true, first))
            ∧ (overrun → t.dsq.faults = s.dsq.faults ++ [{ kind := .eotOverrun, reel := none }])
            ∧ (¬ overrun → t.dsq.faults = s.dsq.faults))
         ∧ (reverse → w.counter = max (-32768) (v.counter - 1) ∧ w.tally = v.tally - 1 ∧ t.dsq.faults = s.dsq.faults
            ∧ (∀ first, v.lp = .seeing first 15 → w.lpDue = some false)
            ∧ (∀ first, v.eot = .seeing first 15 → w.eotDue = some (false, first))
            ∧ (∀ pos, v.eotPos = some pos → w.counter < pos → w.eotPassed = false)
            ∧ ((∀ pos, v.eotPos = some pos → pos ≤ w.counter) → w.eotPassed = v.eotPassed))
         ∧ (forward ∨ reverse → travels v.lp w.lp ∧ travels v.eot w.eot
            ∧ ((∀ first, v.lp ≠ .seeing first 15) → w.lpDue = v.lpDue)
            ∧ ((∀ first, v.eot ≠ .seeing first 15) → w.eotDue = v.eotDue)
            ∧ w = { v with
                lastPair := p, counter := w.counter, tally := w.tally, counted := true, lp := w.lp, eot := w.eot
                lpDue := w.lpDue, eotDue := w.eotDue, eotPassed := w.eotPassed })
         ∧ (p = q → t = s)
         ∧ (p.lineA ≠ q.lineA ∧ p.lineB ≠ q.lineB →
              t.dsq = s.dsq ∧ w = { v with lastPair := p, glitches := min 255 (v.glitches + 1), glitchDue := w.glitchDue }
              ∧ (w.glitchDue = true ↔ v.glitchDue = true
                  ∨ (v.glitches = 7 ∧ s.dsq.deck ∉ [.unloaded, .faultedSoft, .faultedHard]))))

/-- A reel tach arrival (R46, R47, R50): while the reel's measurement runs, a count enters its own accumulator and a count
against the accumulator's direction restarts the measurement; out of regulation a count measures nothing. A glitch raises
the glitch count, and the one that brings it from 7 to 8 in LOADING, READY, UNLOADING or FAULT_STOP makes the report due
(R36); the other reel, the counter and all but the servo stand. (That the accumulator holds at its limit until
the revolution is taken is the model's choice, notes/assumptions/26.md: the clauses stop short of it.) -/
def Obligations.ReelDecoder : Prop :=
  ∀ (s : State) (w : Reel) (p : Pair), s.inReset = false →
    ∃ t, exec (.reelTachArrival w p) s = .next t ∧ (t.tsv.reel w).last = p ∧ t.tsv.counter = s.tsv.counter
      ∧ t = { s with tsv := t.tsv }
      ∧ (∀ x, x ≠ w → t.tsv.reel x = s.tsv.reel x)
      ∧ (let r := s.tsv.reel w
         let forward := (r.last = ⟨false, false⟩ ∧ p = ⟨true, false⟩) ∨ (r.last = ⟨true, false⟩ ∧ p = ⟨true, true⟩)
            ∨ (r.last = ⟨true, true⟩ ∧ p = ⟨false, true⟩) ∨ (r.last = ⟨false, true⟩ ∧ p = ⟨false, false⟩)
         let reverse := (p = ⟨false, false⟩ ∧ r.last = ⟨true, false⟩) ∨ (p = ⟨true, false⟩ ∧ r.last = ⟨true, true⟩)
            ∨ (p = ⟨true, true⟩ ∧ r.last = ⟨false, true⟩) ∨ (p = ⟨false, true⟩ ∧ r.last = ⟨false, false⟩)
         let restarted := { r with acc := 0, capSnap := s.tsv.counter, loopSnap := r.loop, last := p }
         (r.measuring = true → forward → r.acc < 0 → t.tsv.reel w = restarted)
         ∧ (r.measuring = true → forward → 0 ≤ r.acc → r.acc < 1024 → t.tsv.reel w = { r with acc := r.acc + 1, last := p })
         ∧ (r.measuring = true → reverse → 0 < r.acc → t.tsv.reel w = restarted)
         ∧ (r.measuring = true → reverse → r.acc ≤ 0 → -1024 < r.acc → t.tsv.reel w = { r with acc := r.acc - 1, last := p })
         ∧ (r.measuring = false → forward ∨ reverse → t.tsv.reel w = { r with last := p })
         ∧ (p = r.last → t = s)
         ∧ (p.lineA ≠ r.last.lineA ∧ p.lineB ≠ r.last.lineB →
              t.tsv.reel w = { r with last := p } ∧ t.tsv.glitches = min 255 (s.tsv.glitches + 1)
              ∧ (t.tsv.glitchDue = true ↔ s.tsv.glitchDue = true
                  ∨ (s.tsv.glitches = 7 ∧ s.dsq.deck ∉ [.unloaded, .faultedSoft, .faultedHard]))))

/-- A completed revolution (R48, R49): the pack estimate moves a rounded quarter of the way to the limited measured pack and
stays between the two, the measurement restarts, and nothing else changes; without a completed revolution nothing
changes. -/
def Obligations.RevolutionUpdatesThePack : Prop :=
  ∀ (s : State) (w : Reel), s.inReset = false →
    let r := s.tsv.reel w
    let dCap := s.tsv.counter - r.capSnap
    let dLoop := (r.loop : Int) - r.loopSnap
    let m := max 12000 (min 36000 (match w with
      | .supply => (((dCap + 20 * dLoop).natAbs : Nat) : Int)
      | .takeup => (((dCap - 20 * dLoop).natAbs : Nat) : Int)))
    (r.acc.natAbs = 1024 →
      Becomes (.revolutionComplete w) s
        { s with tsv := s.tsv.onReel w (fun r =>
            { r with pack := r.pack + rna (m - r.pack) 4, acc := 0, capSnap := s.tsv.counter, loopSnap := r.loop }) }
      ∧ min r.pack m ≤ r.pack + rna (m - r.pack) 4 ∧ r.pack + rna (m - r.pack) 4 ≤ max r.pack m)
    ∧ (r.acc.natAbs ≠ 1024 → Becomes (.revolutionComplete w) s s)

/-- A marker line going true in CLEAR begins a sighting at the counter with no travel, and a line going false discards it
(R38). That an arrival at the level already held changes nothing is the model's choice (section Time words;
notes/assumptions/11.md). -/
def Obligations.MarkerLines : Prop :=
  ∀ s : State, s.inReset = false →
    (s.tsv.lpLine = false → s.tsv.lp = .clear →
      Becomes (.markerLineArrival .loadPoint true) s
        { s with tsv := { s.tsv with lpLine := true, lp := .seeing s.tsv.counter 0 } })
    ∧ (s.tsv.lpLine = true →
      Becomes (.markerLineArrival .loadPoint false) s { s with tsv := { s.tsv with lpLine := false, lp := .clear } })
    ∧ (s.tsv.eotLine = false → s.tsv.eot = .clear →
      Becomes (.markerLineArrival .eot true) s
        { s with tsv := { s.tsv with eotLine := true, eot := .seeing s.tsv.counter 0 } })
    ∧ (s.tsv.eotLine = true →
      Becomes (.markerLineArrival .eot false) s { s with tsv := { s.tsv with eotLine := false, eot := .clear } })
    ∧ Becomes (.markerLineArrival .loadPoint s.tsv.lpLine) s s ∧ Becomes (.markerLineArrival .eot s.tsv.eotLine) s s

/-- The load-point marker accepted in a marker search (R39): the counter becomes +16 forward and −16 reverse, both
measurements restart (R50), and the search is stopped (R7, R12); out of a search the counter stands. The EOT marker
accepted (R40, R132): with a forward count its first-sighting position is recorded and the flag set, and when the flag was
clear the engine's latch is set and EOT_PASSED is added at both ports; with a reverse count neither changes. -/
def Obligations.MarkerAcceptance : Prop :=
  ∀ s : State, s.inReset = false →
    (∀ forward pass, s.tsv.lpDue = some forward → s.dsq.search = some ⟨pass, .running⟩ →
      ∃ t, exec .loadPointMarkerAccepted s = .next t ∧ t.tsv.counter = (if forward then 16 else -16)
        ∧ t.tsv.target = 0 ∧ t.tsv.order = .stop s.tsv.order.isFast .deck ∧ t.tsv.lpDue = none
        ∧ t.tsv.supply = s.tsv.supply.restart t.tsv.counter ∧ t.tsv.takeup = s.tsv.takeup.restart t.tsv.counter
        ∧ t.dsq.search = some ⟨pass, .accepted⟩
        ∧ t = { s with tsv := t.tsv, dsq := { s.dsq with search := t.dsq.search } })
    ∧ (∀ forward, s.tsv.lpDue = some forward → (∀ pass, s.dsq.search ≠ some ⟨pass, .running⟩) →
        Becomes .loadPointMarkerAccepted s { s with tsv := { s.tsv with lpDue := none } })
    ∧ (s.tsv.lpDue = none → Becomes .loadPointMarkerAccepted s s)
    ∧ (∀ first, s.tsv.eotDue = some (true, first) → s.tsv.eotPassed = false →
      Seals .eotMarkerAccepted s
        (({ s with tsv := { s.tsv with eotDue := none, eotPos := some first, eotPassed := true },
                   ope := { s.ope with eotLatch := true } } : State).addEvents .eotPassed))
    ∧ (∀ first, s.tsv.eotDue = some (true, first) → s.tsv.eotPassed = true →
      Becomes .eotMarkerAccepted s { s with tsv := { s.tsv with eotDue := none, eotPos := some first } })
    ∧ (∀ first, s.tsv.eotDue = some (false, first) →
      Becomes .eotMarkerAccepted s { s with tsv := { s.tsv with eotDue := none } })
    ∧ (s.tsv.eotDue = none → Becomes .eotMarkerAccepted s s)

/-! ## Completions -/

/-- The engine takes a move completion (R31). Beyond 40 counts a correction to the same target at CREEP is ordered, reverse
for a positive error, up to three times; then the operation ends POSITIONING_FAILED at the block the move was to rest
before, with the position-valid flag clear (R140), a write as a failed write. Within 40 counts: a positioning takes the
deck next-block number and the expected start of its way (R136) and proceeds where that is its block, else scans; a
retry's next attempt begins, a write's at W 1,200 counts farther per attempt (R122, R127); a READ that met blank tape
completes BLANK_TAPE before its block (R128), and an operation that met it scanning completes END_OF_DATA at that block
(R138; the flag after a write, notes/assumptions/43.md, and the detail of its record, notes/assumptions/13.md, are the
model's choices); a REWIND lands at block 0 (R144), and so does the panel's, or an orphaned one, with the engine IDLE, both
ports, the directory and the buffer as they stand, and no record (R133, R145). The
deck sequencer's move ends REWIND_OUT in WIND_OFF (R11). `positioned` is spelled in PositioningWays and `failWrite` in
VerificationFails. That an orphaned operation met in its move back makes the attempt it moves for (notes/assumptions/17.md), that a
positioning to block 0 is complete at the load point with no SCAN (notes/assumptions/49.md), that a READ whose retry move
fails makes no report to the directory (notes/assumptions/54.md), and that an order voids a
completion not yet taken (notes/assumptions/29.md) are the model's choices. An orphaned operation leaves both ports as they
stand (R133), and so does a failed landing of the panel's REWIND (R140). -/
def Obligations.MoveCompletions : Prop :=
  ∀ s : State, s.inReset = false →
    let taken : State := { s with tsv := { s.tsv with report := none } }
    (∀ e j, s.tsv.report = some (.moveDone .engine e) → s.ope.job = some j → s.tsv.order ≠ .faultRamp →
      let runs := { taken.tsv with order := .run .normal true .engine, target := 400, report := none }
      let invalid : State := { taken with ope := { s.ope with posValid := false } }
      let valid : State := { taken with ope := { s.ope with posValid := true } }
      let rest := match j.stage with
        | .positioning _ => j.goal
        | .retryMove => j.n
        | .blankMove inScan => if inScan then s.ope.deckNext else j.n
        | _ => 0
      let ends := fun (u : State) (code : Code) (detail : Nat) =>
        u.ope.job = none ∧ u.ope.phase = .idle ∧ u.ope.attempt = 0 ∧ u.ope.expStart = s.ope.expStart
        ∧ u.ope.failCount = s.ope.failCount ∧ u.tsv = taken.tsv ∧ u.dsq = s.dsq ∧ u.bdr = s.bdr ∧ u.arb = s.arb
        ∧ (∀ i, j.op.slot = some i → i < s.bbf.slots.length → u.bbf.slot i = Slot.freed)
        ∧ (j.orphan = true ∨ j.actor = .panel → u.portA = s.portA ∧ u.portB = s.portB)
        ∧ ∀ p, j.actor = .port p → j.orphan = false →
            (u.port p).queue = (s.port p).queue.tail
            ∧ (u.port p).status = (s.port p).status ++ (if j.op.owed then [opRec j.op code detail] else [])
      (40 < e.natAbs → s.ope.corrections < 3 →
        Settles .moveCompletion s
          { taken with
            ope := { s.ope with corrections := s.ope.corrections + 1 }
            tsv := { taken.tsv with
              order := .move { target := j.moveTarget, forward := decide (e < 0), speed := .creep, latch := false } .engine } })
      ∧ (40 < e.natAbs → 3 ≤ s.ope.corrections →
          (j.op.cmd.isWrite = false →
            ∃ u, Settles .moveCompletion s u ∧ u.ope.posValid = false ∧ u.ope.deckNext = s.ope.deckNext
              ∧ (∀ p, (u.port p).next = (s.port p).next) ∧ ends u .positioningFailed rest)
          ∧ (j.op.cmd.isWrite = true →
            Settles .moveCompletion s (invalid.failWrite j .positioningFailed rest).goIdle))
      ∧ (e.natAbs ≤ 40 →
          (∀ w, j.stage = .positioning w →
            let at_ : Nat × Int := match w with
              | .exact start => (j.goal, start)
              | .afterEod endPos => (j.goal, endPos + 600)
              | .lower k start => (k, start)
              | .loadPoint => (0, 3000)
            let rested : State :=
              { taken with ope := { s.ope with deckNext := at_.1, expStart := at_.2, posValid := true } }
            (at_.1 = j.goal → Settles .moveCompletion s (rested.positioned j true))
            ∧ (at_.1 ≠ j.goal →
                Settles .moveCompletion s
                  { rested with
                    ope := { rested.ope with
                      job := some { j with stage := .scanning }, phase := .scan, wrErase := false, seen := Seen.nothing }
                    tsv := runs }))
          ∧ (j.stage = .retryMove → j.op.cmd.isWrite = true →
              Settles .moveCompletion s
                { taken with
                  ope := { s.ope with
                    job := some { j with stage := .writing }, phase := .run, attempt := s.ope.attempt + 1
                    w := s.ope.expStart + 1200 * (s.ope.attempt + 1 : Nat), wrErase := true, seen := Seen.nothing, handed := [] }
                  tsv := runs })
          ∧ (∀ i, j.stage = .retryMove → j.op.cmd.isWrite = false → j.op.slot = some i →
              Settles .moveCompletion s
                { taken with
                  ope := { s.ope with
                    job := some { j with stage := .reading }, phase := .run, attempt := s.ope.attempt + 1, wrErase := false
                    seen := Seen.nothing }
                  bbf := s.bbf.modify i (fun x => { x with data := [] })
                  tsv := runs })
          ∧ (j.stage = .blankMove false → j.op.cmd.isWrite = false →
              ∃ u, Settles .moveCompletion s u ∧ u.ope.posValid = true ∧ u.ope.deckNext = j.n
                ∧ (∀ p, (u.port p).next = (s.port p).next) ∧ ends u .blankTape j.n)
          ∧ (j.stage = .blankMove true → j.op.cmd.isWrite = false →
              ∃ u, Settles .moveCompletion s u ∧ u.ope.posValid = true ∧ u.ope.deckNext = s.ope.deckNext
                ∧ (∀ p, j.actor = .port p → j.orphan = false → (u.port p).next = s.bdr.bound s.ope.deckNext)
                ∧ ends u .endOfData
                    (if j.op.cmd = .space ∧ 0 < j.op.param then j.op.count - j.crossed else s.ope.deckNext))
          ∧ (j.stage = .blankMove true → j.op.cmd.isWrite = true →
              Settles .moveCompletion s ((valid.failWrite j .endOfData s.ope.deckNext).goIdle.jobNext j s.ope.deckNext))
          ∧ (∀ p, j.stage = .rewinding → j.actor = .port p → j.orphan = false → j.op.owed = true →
              ∃ u, Settles .moveCompletion s u ∧ u.ope.deckNext = 0 ∧ u.ope.posValid = true
                ∧ u.ope.expStart = (match s.bdr.entry 0 with | some x => x.start | none => 3000)
                ∧ (u.port p).next = 0 ∧ (u.port p).queue = (s.port p).queue.tail
                ∧ (u.port p).status = (s.port p).status ++ [opRec j.op (if s.tsv.eotPassed then .okEot else .ok) 0]
                ∧ u.bdr = s.bdr ∧ u.bbf = s.bbf ∧ (u.port p).marks = (s.port p).marks ∧ u.port p.other = s.port p.other)
          ∧ (j.stage = .rewinding → j.actor = .panel ∨ j.orphan = true →
              Settles .moveCompletion s
                { taken with
                  ope := { s.ope with
                    job := none, corrections := 0, phase := .idle, attempt := 0, asking := false, deckNext := 0, posValid := true
                    expStart := (match s.bdr.entry 0 with | some x => x.start | none => 3000)
                    eotLatch := s.ope.eotLatch && s.tsv.eotPassed } })))
    ∧ (∀ e, s.tsv.report = some (.moveDone .deck e) → s.dsq.deck = .rewindOut →
        ∃ t, exec .moveCompletion s = .next t ∧ t.dsq.deck = .windOff ∧ t.dsq.timer = some .windOff
          ∧ t.tsv.supply.mode = .fixed ∧ t.tsv.takeup.mode = .zero ∧ t.ope = s.ope ∧ t.bbf = s.bbf ∧ t.bdr = s.bdr
          ∧ t.arb = s.arb ∧ t.portA = s.portA ∧ t.portB = s.portB)
    ∧ (s.tsv.report = none → Becomes .moveCompletion s s)

/-- The engine takes a stop completion: after an operation with none chosen it lowers WR-ERASE and goes IDLE, and an
operation that was granted at the end point begins (R130); a retry lowers WR-ERASE and moves back in reverse, a write to the
expected start less 250 and a read to the start just seen less 250 (R122, R127); after blank tape it moves back to the
expected start less 250 (R128, R138); an aborted positioning ends CANCELLED with the position-valid flag clear (R146); an
orphaned operation stopped for a retry ends (R133; notes/assumptions/17.md). The deck sequencer's stop begins the forward
pass of a re-zero or enters READY after it (R12), and after a failure unloads (R9, R13). It takes the report that Vc has
reached 0 under the fault ramp: FAULTED SOFT (R66), where auto-clear, on for a LOOP_OUT or REEL_SATURATION fault below four
clears with the five checks passing, leaves at once as an accepted clear does (R71, R75; `Resumes` in Safety.lean spells
it). `failWrite` is spelled in VerificationFails, `beginOp` in ArbiterAlternates, and what an unload leaves in `Unloads`
(Safety.lean). That a granted write that ends CANCELLED carries its block as its detail (notes/assumptions/14.md) and that
an order voids a completion not yet taken (notes/assumptions/29.md) are the model's choices. -/
def Obligations.StopAndRampCompletions : Prop :=
  ∀ s : State, s.inReset = false →
    let taken : State := { s with tsv := { s.tsv with report := none } }
    let noErase : State := { taken with ope := { s.ope with wrErase := false } }
    (s.tsv.report = some (.stopDone .engine) →
      (s.ope.job = none → s.ope.waiting = none → s.ope.phase = .stop →
        Settles .stopCompletion s
          { taken with ope := { s.ope with wrErase := false, phase := .idle, attempt := 0, asking := false } })
      ∧ (∀ j, s.ope.job = none → s.ope.waiting = some j → s.ope.phase = .stop →
          let begins : State := { taken with ope := { s.ope with wrErase := false, waiting := none } }
          let detail := match j.op.cmd with
            | .space => j.op.count - j.crossed
            | .writeBlock => j.n
            | .writeMark => j.n
            | _ => 0
          (j.aborted = false → Settles .stopCompletion s (begins.beginOp j true))
          ∧ (j.aborted = true → j.op.cmd.isWrite = true →
              Settles .stopCompletion s (begins.failWrite j .cancelled detail).goIdle)
          ∧ (j.aborted = true → j.op.cmd.isWrite = false →
              ∃ u, Settles .stopCompletion s u ∧ u.ope.job = none ∧ u.ope.phase = .idle ∧ u.tsv = taken.tsv
                ∧ ∀ p, j.actor = .port p → j.orphan = false →
                    (u.port p).queue = (s.port p).queue.tail
                    ∧ (u.port p).status = (s.port p).status ++ (if j.op.owed then [opRec j.op .cancelled detail] else [])))
      ∧ (∀ j, s.ope.job = some j → s.tsv.order ≠ .faultRamp →
          let moves := fun (from_ : State) (st : Stage) (x : Int) =>
            Settles .stopCompletion s
              { from_ with
                ope := { from_.ope with phase := .move, corrections := 0, job := some { j with stage := st, moveTarget := x } }
                tsv := { taken.tsv with
                  order := .move { target := x, forward := false, speed := classOf (s.tsv.counter - x), latch := false } .engine } }
          (j.stage = .retryStop → j.orphan = false →
            moves noErase .retryMove ((if j.op.cmd.isWrite then s.ope.expStart else s.ope.seen.start) - 250))
          ∧ (∀ inScan, j.stage = .blankStop inScan → moves taken (.blankMove inScan) (s.ope.expStart - 250))
          ∧ (j.stage = .retryStop → j.orphan = true → j.op.cmd.isWrite = true →
              Settles .stopCompletion s
                ({ noErase with ope := { noErase.ope with posValid := false } } |>.failWrite j .writeCheckFailed j.n).goIdle)
          ∧ (j.stage = .retryStop → j.orphan = true → j.op.cmd.isWrite = false →
              ∃ u, Settles .stopCompletion s u ∧ u.ope.job = none ∧ u.ope.phase = .idle ∧ u.ope.deckNext = j.n + 1
                ∧ u.bdr = s.bdr.traverse (s.ope.seen.report s.dsq.params.check j.n) ∧ u.tsv = taken.tsv
                ∧ u.portA = s.portA ∧ u.portB = s.portB)
          ∧ (j.stage = .abortStop → j.op.cmd.isWrite = false →
              ∃ u, Settles .stopCompletion s u ∧ u.ope.job = none ∧ u.ope.phase = .idle ∧ u.ope.posValid = false
                ∧ u.ope.deckNext = s.ope.deckNext ∧ u.tsv = taken.tsv ∧ u.bdr = s.bdr
                ∧ (∀ p, (u.port p).next = (s.port p).next)
                ∧ ∀ p, j.actor = .port p → j.orphan = false →
                    (u.port p).queue = (s.port p).queue.tail
                    ∧ (u.port p).status = (s.port p).status ++
                        (if j.op.owed then
                          [opRec j.op .cancelled (if j.op.cmd = .space then j.op.count - j.crossed else 0)] else []))
          ∧ (j.stage = .abortStop → j.op.cmd.isWrite = true →
              Settles .stopCompletion s
                ({ taken with ope := { s.ope with posValid := false } } |>.failWrite j .cancelled j.n).goIdle)))
    ∧ (s.tsv.report = some (.stopDone .deck) →
        (s.dsq.search = some ⟨.rezeroReverse, .accepted⟩ →
          Settles .stopCompletion s
            { s with
              dsq := { s.dsq with searchTravel := 0, search := some ⟨.rezeroForward, .running⟩ }
              tsv := { s.tsv with order := .run .creep true .deck, target := 64, report := none } })
        ∧ (s.dsq.search = some ⟨.rezeroForward, .accepted⟩ →
          ∃ u, Settles .stopCompletion s u ∧ u.dsq.deck = .ready ∧ u.dsq.search = none ∧ u.dsq.writeEnable = s.dsq.writeEnable
            ∧ u.ope.deckNext = 0 ∧ u.ope.posValid = true ∧ u.ope.expStart = 3000 ∧ u.bdr = s.bdr ∧ u.bbf = s.bbf
            ∧ u.arb = s.arb ∧ u.tsv.counter = s.tsv.counter ∧ u.tsv.supply.latchOut = false ∧ u.tsv.takeup.latchOut = false
            ∧ ∀ p, (u.port p).next = (s.port p).next ∧ (u.port p).marks = (s.port p).marks
                ∧ (u.port p).queue = (s.port p).queue ∧ (u.port p).status = (s.port p).status
                ∧ (s.enabled p = true → (u.port p).pendingEv = (s.port p).pendingEv ||| EventKind.deckReady.bit))
        ∧ (s.dsq.search = some ⟨.load, .failed⟩ →
          ∃ u, Settles .stopCompletion s u ∧ u.dsq.deck = .rewindOut ∧ u.dsq.search = none
            ∧ u.tsv.order = .move { target := -2000, forward := false, speed := classOf (s.tsv.counter + 2000), latch := false } .deck
            ∧ Unloads s u ∧ u.ope.job = s.ope.job ∧ AddsEvents s u 0)
        ∧ (s.dsq.search = some ⟨.rezeroReverse, .failed⟩ ∨ s.dsq.search = some ⟨.rezeroForward, .failed⟩ →
          ∃ u, Settles .stopCompletion s u ∧ u.dsq.deck = .windOff ∧ u.dsq.timer = some .windOff ∧ u.dsq.search = none
            ∧ u.tsv.supply.mode = .fixed ∧ u.tsv.takeup.mode = .zero
            ∧ Unloads s u ∧ u.ope.job = s.ope.job ∧ AddsEvents s u EventKind.deckNotReady.bit))
    ∧ (s.tsv.report = some .rampZero → s.dsq.deck = .faultStop →
        let auto := s.dsq.params.autoClear = true ∧ (s.dsq.faultKind = some .loopOut ∨ s.dsq.faultKind = some .reelSaturation)
          ∧ s.dsq.autoCount < 4 ∧ s.dsq.vacS = true ∧ s.dsq.vacT = true
          ∧ (64 ≤ s.tsv.supply.loop ∧ s.tsv.supply.loop ≤ 960) ∧ (64 ≤ s.tsv.takeup.loop ∧ s.tsv.takeup.loop ≤ 960)
          ∧ s.dsq.ampRdy = true ∧ s.dsq.ampFlt = false
        (¬ auto → Settles .faultRampZero s { taken with dsq := { s.dsq with deck := .faultedSoft } })
        ∧ (auto →
            ∃ u, Settles .faultRampZero s u
              ∧ Resumes { taken with dsq := { s.dsq with autoCount := s.dsq.autoCount + 1 } } u
              ∧ ∀ p, (u.port p).queue = (s.port p).queue ∧ (u.port p).status = (s.port p).status
                  ∧ (u.port p).next = (s.port p).next ∧ (u.port p).marks = (s.port p).marks))
    ∧ (s.tsv.report = none → Becomes .stopCompletion s s ∧ Becomes .faultRampZero s s)

/-- The stop after the load-point marker was accepted in a load enters READY (R8): the directory emptied, block 0 with the
position valid, both ports at block 0 with empty stacks, the write-enable flag from RING, the auto-clear, glitch and
failure counts 0, DECK_READY at both ports. A LOAD that the engine holds for a port completes OK (OK_EOT with the EOT-passed
flag set, R132) and leaves the engine IDLE; its record stands in the status queue here, before the EVENT record of
DECK_READY, which only the end of the event (Settles) can place. -/
def Obligations.LoadReachesReady : Prop :=
  ∀ s : State, s.inReset = false → s.tsv.report = some (.stopDone .deck) → s.dsq.search = some ⟨.load, .accepted⟩ →
    ∃ u, Settles .stopCompletion s u ∧ u.dsq.deck = .ready ∧ u.dsq.writeEnable = s.dsq.ring ∧ u.dsq.autoCount = 0
      ∧ u.dsq.search = none ∧ u.bdr = Bdr.cleared ∧ u.ope.deckNext = 0 ∧ u.ope.posValid = true ∧ u.ope.expStart = 3000
      ∧ u.ope.failCount = 0 ∧ u.ope.eotLatch = false ∧ u.tsv.glitches = 0 ∧ u.tsv.supply.latchOut = false
      ∧ u.tsv.takeup.latchOut = false ∧ u.bbf = s.bbf ∧ u.arb = s.arb ∧ u.dsq.params = s.dsq.params
      ∧ (s.ope.job = none → u.ope.job = none ∧ u.ope.phase = s.ope.phase
          ∧ ∀ p, (u.port p).queue = (s.port p).queue ∧ (u.port p).status = (s.port p).status)
      ∧ (∀ j p, s.ope.job = some j → j.stage = .deck → j.actor = .port p → j.orphan = false → j.op.owed = true →
          u.ope.job = none ∧ u.ope.phase = .idle ∧ u.ope.attempt = 0 ∧ (u.port p).queue = (s.port p).queue.tail
          ∧ (u.port p).status = (s.port p).status ++ [opRec j.op (if s.tsv.eotPassed then .okEot else .ok) 0]
          ∧ (u.port p.other).queue = (s.port p.other).queue ∧ (u.port p.other).status = (s.port p.other).status)
      ∧ ∀ p, (u.port p).next = 0 ∧ (u.port p).marks = [] ∧ (u.port p).overflow = false
          ∧ (u.port p).mode = (s.port p).mode ∧ (u.port p).mask = (s.port p).mask
          ∧ (s.enabled p = true → (u.port p).pendingEv = (s.port p).pendingEv ||| EventKind.deckReady.bit)

/-! ## The deck sequencer -/

/-- The pump, the brakes and the lamps by deck state (R16, R17): a flashing lamp follows the flash. -/
def Obligations.OutputsFollowTheDeckState : Prop :=
  ∀ s : State, s.inReset = false →
    let d := s.dsq.deck
    (d.pump = true ↔ d ≠ .unloaded) ∧ (d.brake = true ↔ d = .unloaded ∨ d = .faultedHard)
    ∧ (s.lamps.rdy = true ↔ d = .ready) ∧ (s.lamps.onl = true ↔ s.dsq.online = true)
    ∧ (s.lamps.ld = true ↔ d = .vacuumUp ∨ d = .loopForm ∨ d = .loadPointSearch ∨ (d = .rezero ∧ s.dsq.flash = true))
    ∧ (s.lamps.flt = true ↔ d = .faultedSoft ∨ ((d = .faultStop ∨ d = .faultedHard) ∧ s.dsq.flash = true))
    ∧ (s.lamps.fpr = true ↔
        (d = .ready ∨ d = .faultStop ∨ d = .faultedSoft ∨ d = .faultedHard) ∧ s.dsq.writeEnable = false)

/-- A load from the panel (R4 to R7, R15, R42, R60): offline, with the engine IDLE and the deck UNLOADED and the drive lines
good, the deck enters VACUUM_UP with the 5 s timer; Vc, the target and the reel commands 0, the pack seeds with fresh
measurements and the latches IN, the glitch, stall and saturation counts 0, and the markers cleared, with no acceptance
left due and a line that is true seen from here. With both vacuum senses already true VACUUM_UP ends at once in LOOP_FORM
with its 4 s timer; else the vacuum arrival that makes both true ends it. A drive line that is not good fails the load to
UNLOADED at once (R9). In any other state of the switch, the engine or the deck the press is ignored. The window report
ends LOOP_FORM in LOAD_POINT_SEARCH, the counter −2,000, both measurements restarted, and a run forward at CREEP. That an
order voids a completion not yet taken (notes/assumptions/29.md), and that a load start removes the marker acceptances due
and leaves the stall, glitch and saturation reports that are due (notes/assumptions/28.md), are the model's choices. -/
def Obligations.LoadSequence : Prop :=
  ∀ s : State, s.inReset = false →
    let v := s.tsv
    let fresh := fun (r : ReelState) (seed : Int) =>
      { r with pack := seed, acc := 0, capSnap := v.counter, loopSnap := r.loop, latchOut := false, cmd := 0, mode := .zero,
               measuring := false, satFlag := false, satCount := 0 }
    let loaded : Tsv :=
      { v with vc := 0, target := 0, step := 80, order := .none, report := none, glitches := 0, stall := 0,
               windowReport := false, supply := fresh v.supply 33000, takeup := fresh v.takeup 13500,
               lp := if v.lpLine then .seeing v.counter 0 else .clear, eot := if v.eotLine then .seeing v.counter 0 else .clear,
               eotPassed := false, eotPos := none, lpDue := none, eotDue := none }
    let forming := fun (x : Tsv) =>
      { x with supply := { x.supply with mode := .forming, measuring := false },
               takeup := { x.takeup with mode := .forming, measuring := false }, windowReport := false }
    let pressed := s.dsq.online = false ∧ s.ope.phase = .idle ∧ s.dsq.deck = .unloaded
    let drive := s.dsq.ampRdy = true ∧ s.dsq.ampFlt = false
    (pressed → drive → ¬ (s.dsq.vacS = true ∧ s.dsq.vacT = true) →
      Becomes .loadButton s
        { s with dsq := { s.dsq with deck := .vacuumUp, timer := some .vacuumUp }, tsv := loaded })
    ∧ (pressed → drive → s.dsq.vacS = true → s.dsq.vacT = true →
      Becomes .loadButton s
        { s with dsq := { s.dsq with deck := .loopForm, timer := some .loopForm }, tsv := forming loaded })
    ∧ (pressed → ¬ drive → s.ope.job = none →
      Becomes .loadButton s
        { s with
          dsq := { s.dsq with timer := none, search := none }
          ope := { s.ope with eotLatch := s.ope.eotLatch && v.eotPassed }
          tsv := { v with
            vc := 0, target := 0, order := .none, report := none, capCmd := 0, srlCmd := 0, trlCmd := 0, strobes := v.strobes + 1
            supply := { v.supply with cmd := 0, mode := .zero, measuring := false }
            takeup := { v.takeup with cmd := 0, mode := .zero, measuring := false } } })
    ∧ (s.dsq.online = true ∨ s.ope.phase ≠ .idle ∨ s.dsq.deck ≠ .unloaded → Becomes .loadButton s s)
    ∧ (s.dsq.deck = .vacuumUp → s.dsq.vacS = true → s.dsq.vacT = false →
      Becomes (.vacuumArrival .takeup true) s
        { s with dsq := { s.dsq with vacT := true, deck := .loopForm, timer := some .loopForm }, tsv := forming v })
    ∧ (s.dsq.deck = .vacuumUp → s.dsq.vacS = false → s.dsq.vacT = true →
      Becomes (.vacuumArrival .supply true) s
        { s with dsq := { s.dsq with vacS := true, deck := .loopForm, timer := some .loopForm }, tsv := forming v })
    ∧ (s.dsq.deck = .loopForm → v.windowReport = true →
      Becomes .loopFormComplete s
        { s with
          dsq := { s.dsq with deck := .loadPointSearch, timer := none, searchTravel := 0, search := some ⟨.load, .running⟩ }
          tsv := { v with
            counter := -2000, target := 64, order := .run .creep true .deck, report := none
            supply := { v.supply with mode := .regulated, acc := 0, capSnap := -2000, loopSnap := v.supply.loop }
            takeup := { v.takeup with mode := .regulated, acc := 0, capSnap := -2000, loopSnap := v.takeup.loop } } })
    ∧ (s.dsq.deck ≠ .loopForm ∨ v.windowReport = false → Becomes .loopFormComplete s s)

/-- The load timers fail a load (R5, R6, R9): UNLOADED at once, Vc, the target and both reel commands 0 and presented, and a
LOAD that the engine holds for a port completes LOAD_FAILED. WIND_OFF ends at the window report or the 6 s timer (R11):
UNLOADED with both reel commands 0 and presented, and an UNLOAD that the engine holds for a port completes OK. -/
def Obligations.FailedLoadsAndWindOffEndUnloaded : Prop :=
  ∀ (s : State) (i : Instr), s.inReset = false →
    let loadFails := (i = .vacuumUpTimeout ∧ s.dsq.deck = .vacuumUp ∧ s.dsq.timer = some .vacuumUp)
      ∨ (i = .loopFormTimeout ∧ s.dsq.deck = .loopForm ∧ s.dsq.timer = some .loopForm)
    let windOffEnds := s.dsq.deck = .windOff ∧
      ((i = .windOffComplete ∧ s.tsv.windowReport = true) ∨ (i = .windOffTimeout ∧ s.dsq.timer = some .windOff))
    loadFails ∨ windOffEnds →
    ∃ u, Settles i s u ∧ u.dsq.deck = .unloaded ∧ u.dsq.timer = none
      ∧ u.tsv.supply.cmd = 0 ∧ u.tsv.takeup.cmd = 0 ∧ u.tsv.srlCmd = 0 ∧ u.tsv.trlCmd = 0
      ∧ u.tsv.strobes = s.tsv.strobes + 1 ∧ u.bbf = s.bbf ∧ u.bdr = s.bdr ∧ u.arb = s.arb
      ∧ (loadFails → u.tsv.vc = 0 ∧ u.tsv.target = 0 ∧ u.tsv.capCmd = 0)
      ∧ (windOffEnds → u.tsv.vc = s.tsv.vc ∧ u.tsv.target = s.tsv.target)
      ∧ ∀ p j, s.ope.job = some j → j.stage = .deck → j.actor = .port p → j.orphan = false → j.op.owed = true →
          u.ope.job = none ∧ u.ope.phase = .idle ∧ (u.port p).queue = (s.port p).queue.tail
          ∧ (j.op.cmd = .load → (u.port p).status = (s.port p).status ++ [opRec j.op .loadFailed 0])
          ∧ (j.op.cmd = .unload → s.tsv.eotPassed = false →
              (u.port p).status = (s.port p).status ++ [opRec j.op .ok 0])

/-- The travel limits fail a search or a pass, which is then stopped (R7, R13); below its limit, or with no such search
running, nothing happens. That the stop voids a completion not yet taken is the model's choice
(notes/assumptions/29.md). -/
def Obligations.TravelLimitsFailTheSearch : Prop :=
  ∀ s : State, s.inReset = false →
    let stopped := fun (p : SearchPass) =>
      { s with dsq := { s.dsq with search := some ⟨p, .failed⟩ },
               tsv := { s.tsv with order := .stop s.tsv.order.isFast .deck, target := 0, report := none } }
    (s.dsq.search = some ⟨.load, .running⟩ → 60000 ≤ s.dsq.searchTravel →
      Becomes .loadPointSearchLimit s (stopped .load))
    ∧ (s.dsq.search = some ⟨.load, .running⟩ → s.dsq.searchTravel < 60000 → Becomes .loadPointSearchLimit s s)
    ∧ (s.dsq.search ≠ some ⟨.load, .running⟩ → Becomes .loadPointSearchLimit s s)
    ∧ (s.dsq.search = some ⟨.rezeroReverse, .running⟩ → 34000000 ≤ s.dsq.searchTravel →
      Becomes .rezeroTravelLimit s (stopped .rezeroReverse))
    ∧ (s.dsq.search = some ⟨.rezeroReverse, .running⟩ → s.dsq.searchTravel < 34000000 → Becomes .rezeroTravelLimit s s)
    ∧ (s.dsq.search = some ⟨.rezeroForward, .running⟩ → 60000 ≤ s.dsq.searchTravel →
      Becomes .rezeroTravelLimit s (stopped .rezeroForward))
    ∧ (s.dsq.search = some ⟨.rezeroForward, .running⟩ → s.dsq.searchTravel < 60000 → Becomes .rezeroTravelLimit s s)
    ∧ (s.dsq.search ≠ some ⟨.rezeroReverse, .running⟩ → s.dsq.search ≠ some ⟨.rezeroForward, .running⟩ →
      Becomes .rezeroTravelLimit s s)

/-- The flash turns a flashing lamp over and nothing else (R16); vacuum and drive arrivals hold their level, a fall of either
vacuum sense is reported in the states of R18 and a failing drive line out of UNLOADED (R19), and a vacuum sense that
rises does nothing more, but for the arrival that ends VACUUM_UP (LoadSequence); RING holds its level and leaves the
write-enable flag (R20); the online flag follows its line, with ONLINE_CHANGED at both ports, and an arrival at the flag's
own level changes nothing (R14; for the other lines that is notes/assumptions/11.md, and no clause says it). -/
def Obligations.DeckInputLines : Prop :=
  ∀ s : State, s.inReset = false →
    let d := s.dsq.deck
    let loss := if d ∈ [.loopForm, .loadPointSearch, .rezero, .ready, .rewindOut, .faultStop, .faultedSoft]
      then [FaultKind.vacuumLoss.report] else []
    let fails := if d = .unloaded then [] else [FaultKind.drive.report]
    ((d = .rezero ∨ d = .faultStop ∨ d = .faultedHard) →
      Becomes .lampFlashExpiry s { s with dsq := { s.dsq with flash := !s.dsq.flash } })
    ∧ (¬ (d = .rezero ∨ d = .faultStop ∨ d = .faultedHard) → Becomes .lampFlashExpiry s s)
    ∧ (s.dsq.vacS = true →
      Becomes (.vacuumArrival .supply false) s { s with dsq := { s.dsq with vacS := false, faults := s.dsq.faults ++ loss } })
    ∧ (s.dsq.vacT = true →
      Becomes (.vacuumArrival .takeup false) s { s with dsq := { s.dsq with vacT := false, faults := s.dsq.faults ++ loss } })
    ∧ (s.dsq.vacS = false → d ≠ .vacuumUp ∨ s.dsq.vacT = false →
      Becomes (.vacuumArrival .supply true) s { s with dsq := { s.dsq with vacS := true } })
    ∧ (s.dsq.vacT = false → d ≠ .vacuumUp ∨ s.dsq.vacS = false →
      Becomes (.vacuumArrival .takeup true) s { s with dsq := { s.dsq with vacT := true } })
    ∧ (s.dsq.ampRdy = true →
      Becomes (.driveArrival .ampRdy false) s { s with dsq := { s.dsq with ampRdy := false, faults := s.dsq.faults ++ fails } })
    ∧ (s.dsq.ampRdy = false → Becomes (.driveArrival .ampRdy true) s { s with dsq := { s.dsq with ampRdy := true } })
    ∧ (s.dsq.ampFlt = false →
      Becomes (.driveArrival .ampFlt true) s { s with dsq := { s.dsq with ampFlt := true, faults := s.dsq.faults ++ fails } })
    ∧ (s.dsq.ampFlt = true → Becomes (.driveArrival .ampFlt false) s { s with dsq := { s.dsq with ampFlt := false } })
    ∧ (∀ level, Becomes (.ringArrival level) s { s with dsq := { s.dsq with ring := level } })
    ∧ Settles (.onlineSwitchArrival (!s.dsq.online)) s
        (({ s with dsq := { s.dsq with online := !s.dsq.online } } : State).addEvents .onlineChanged)
    ∧ Becomes (.onlineSwitchArrival s.dsq.online) s s

/-- The UNLOAD, REWIND and RESET buttons (R15, R74, R145): UNLOAD offline in READY with the engine IDLE and no write slot
starts the unload of R10, with DECK_NOT_READY at both ports, the writer's queued writes CANCELLED (R156) and the slots given
back (R91; `Unloads` in Safety.lean spells what the volume leaves); REWIND offline in READY with the engine IDLE moves to
position 0 as an operation with no port; both are ignored online, with the engine not IDLE and out of READY. RESET acts only
in FAULTED, in SOFT only when the five checks pass, entering the resumed state as an accepted clear does (`Resumes` in
Safety.lean; that an order voids a completion not yet taken is the model's choice, notes/assumptions/29.md), and adds
FAULT_CLEARED at both ports, in HARD with DECK_NOT_READY where the deck had been ready (R71, R73). -/
def Obligations.PanelButtons : Prop :=
  ∀ s : State, s.inReset = false →
    (s.dsq.online = false → s.ope.phase = .idle → s.dsq.deck = .ready → s.bbf.hasWrite = false →
        ∃ u, Settles .unloadButton s u ∧ u.dsq.deck = .rewindOut ∧ Unloads s u ∧ AddsEvents s u EventKind.deckNotReady.bit
          ∧ (∃ m, u.tsv.order = .move m .deck ∧ m.target = -2000 ∧ m.forward = false)
          ∧ u.ope.job = s.ope.job ∧ u.ope.phase = .idle
          ∧ ∀ p, (s.arb.writer = some p →
                (u.port p).queue = (s.port p).queue.filter (fun o => !o.cmd.isWrite)
                ∧ (u.port p).status = (s.port p).status
                    ++ (((s.port p).queue.filter (fun o => o.cmd.isWrite)).filter Op.owed).map
                      (fun o => opRec o .cancelled (o.block.getD 0)))
              ∧ (s.arb.writer ≠ some p →
                (u.port p).queue = (s.port p).queue ∧ (u.port p).status = (s.port p).status))
    ∧ (s.bbf.hasWrite = true ∨ s.dsq.online = true ∨ s.ope.phase ≠ .idle ∨ s.dsq.deck ≠ .ready →
        Becomes .unloadButton s s)
    ∧ (s.dsq.online = false → s.ope.phase = .idle → s.dsq.deck = .ready → s.tsv.order ≠ .faultRamp →
        ∃ t j m, exec .rewindButton s = .next t ∧ t.ope.job = some j ∧ j.actor = .panel ∧ t.ope.phase = .move
          ∧ t.tsv.order = .move m .engine ∧ m.target = 0 ∧ (m.forward = true ↔ s.tsv.counter ≤ 0)
          ∧ t = { s with tsv := t.tsv, ope := t.ope })
    ∧ (s.dsq.online = true ∨ s.ope.phase ≠ .idle ∨ s.dsq.deck ≠ .ready → Becomes .rewindButton s s)
    ∧ (s.dsq.deck ≠ .faultedSoft → s.dsq.deck ≠ .faultedHard → Becomes .resetButton s s)
    ∧ (s.dsq.deck = .faultedSoft → s.checksPass = false → Becomes .resetButton s s)
    ∧ (s.dsq.deck = .faultedSoft → s.checksPass = true →
        ∃ u, Settles .resetButton s u ∧ Resumes s u
          ∧ ∀ p, (u.port p).queue = (s.port p).queue ∧ (u.port p).status = (s.port p).status
              ∧ (u.port p).next = (s.port p).next ∧ (u.port p).marks = (s.port p).marks)
    ∧ (s.dsq.deck = .faultedHard →
        ∃ u, Settles .resetButton s u ∧ u.dsq.deck = .unloaded ∧ u.dsq.faultKind = none ∧ u.dsq.escKind = none
          ∧ u.dsq.resume = none ∧ Unloads s u
          ∧ AddsEvents s u ((if s.dsq.resume = some .ready ∨ s.dsq.resume = some .rezero then EventKind.deckNotReady.bit else 0)
              ||| EventKind.faultCleared.bit))

/-! ## Faults -/

/-- The table of fault reports (R61), whichever reel a report names: a fault stop in LOADING, READY and UNLOADING, an
escalation of the four kinds in FAULT_STOP and of VACUUM_LOSS and DRIVE in FAULTED SOFT, and no change of state, no record
and no event otherwise. -/
def Obligations.FaultReportTable : Prop :=
  ∀ (s : State) (x : FaultReport), s.inReset = false → x ∈ s.dsq.faults →
    let d := s.dsq.deck
    let k := x.kind
    let moving := d ∈ [.vacuumUp, .loopForm, .loadPointSearch, .rezero, .ready, .rewindOut, .windOff]
    let escalates := (d = .faultStop ∧ k ∈ [.loopOut, .tach, .vacuumLoss, .drive])
      ∨ (d = .faultedSoft ∧ k ∈ [.vacuumLoss, .drive])
    (moving → ∃ u, Settles (.faultReport x) s u ∧ u.dsq.deck = .faultStop ∧ u.dsq.faultKind = some k
      ∧ u.dsq.escKind = none ∧ u.dsq.resume = some d ∧ u.dsq.faults = s.dsq.faults.erase x
      ∧ u.tsv.order = .faultRamp ∧ u.tsv.target = 0)
    ∧ (escalates → ∃ u, Settles (.faultReport x) s u ∧ u.dsq.deck = .faultedHard ∧ u.dsq.escKind = some k
        ∧ u.dsq.faultKind = s.dsq.faultKind ∧ u.dsq.resume = s.dsq.resume
        ∧ u.tsv.vc = 0 ∧ u.tsv.target = 0 ∧ u.tsv.supply.cmd = 0 ∧ u.tsv.takeup.cmd = 0
        ∧ u.ope = s.ope ∧ u.portA = s.portA ∧ u.portB = s.portB ∧ u.bbf = s.bbf ∧ u.bdr = s.bdr)
    ∧ (¬ moving → ¬ escalates →
        Becomes (.faultReport x) s { s with dsq := { s.dsq with faults := s.dsq.faults.erase x } })

/-- What a fault stop does to the deck sequencer, the engine, the queues and the volume (R62 to R65): the sequence timer stopped
and a marker search ended, its travel count as it stood; no operation, the outputs to the head
electronics low, the position not valid, IDLE, the permit dropped; no motion operation stays queued, each completes
FAULT_ABORTED where it owes a record, its slot FREE, and the record count does not rise by the stop. With no write queued
and none orphaned the directory, the numbers and the marks stand (that a READ ended after a bad attempt makes no report is the
model's choice, notes/assumptions/54.md). Writes lost at one port roll the volume back to the
lowest of them, f: EOD f unless it is lower, the writer's number f, the other port's number and both ports' marks within
EOD, and a deferred error of the lowest block whose record was given at its take, none where no record was (R65,
R163; that the port's mode by then does not matter is the model's reading, notes/assumptions/16.md).
An orphaned write of n that the stop ends rolls the volume back to n the same way, with no record and no deferred
error (R133). The events added are FAULT_STOP_BEGUN at both ports (R62), POSITION_CLAMPED where the new EOD lowers a number
or a mark (R161), and DEFERRED_ERROR_SET with a deferred error (R163), each at a port not put out of service by its
strap. -/
def Obligations.FaultStopEndsEveryOperation : Prop :=
  ∀ (s : State) (x : FaultReport), s.inReset = false → x ∈ s.dsq.faults →
    s.dsq.deck ∈ [.vacuumUp, .loopForm, .loadPointSearch, .rezero, .ready, .rewindOut, .windOff] →
    let writes := fun (p : PortId) => (s.port p).queue.filter (fun o => o.cmd.isWrite)
    let lowest := fun (p : PortId) => ((writes p).filterMap (fun o => o.block)).min?
    let given := fun (p : PortId) =>
      ((writes p).filterMap (fun o => if o.cmd = .writeBlock ∧ o.owed = false then o.block else none)).min?
    let orphaned := ∃ j, (s.ope.job = some j ∨ s.ope.waiting = some j) ∧ j.orphan = true ∧ j.op.cmd.isWrite = true
    let begun := fun (q : PortId) => if s.enabled q = true then EventKind.faultStopBegun.bit else 0
    let clamped := fun (d : Bdr) (q : PortId) (l : List Nat) =>
      if s.enabled q = true ∧ ∃ m ∈ l, d.bound m ≠ m then EventKind.positionClamped.bit else 0
    ∃ u, Settles (.faultReport x) s u
      ∧ u.dsq.timer = none ∧ u.dsq.search = none ∧ u.dsq.searchTravel = s.dsq.searchTravel
      ∧ u.ope.phase = .idle ∧ u.ope.job = none ∧ u.ope.waiting = none ∧ u.ope.posValid = false ∧ u.ope.attempt = 0
      ∧ u.ope.wrErase = false ∧ u.ope.wrGate = false ∧ u.ope.wrMark = false ∧ u.ope.deckNext = s.ope.deckNext
      ∧ u.ope.failCount = s.ope.failCount ∧ u.arb.holder = none ∧ u.arb.chainRun = 0
      ∧ u.arb.lastServed = s.arb.lastServed ∧ u.arb.writer = s.arb.writer
      ∧ (∀ p, (u.port p).queue = (s.port p).queue.filter (fun o => !o.cmd.isMotion)
          ∧ (u.port p).recordCount = (s.port p).recordCount
          ∧ (u.port p).status = (s.port p).status ++
              (((s.port p).queue.filter (fun o => o.cmd.isMotion)).filter Op.owed).map (fun o => opRec o .faultAborted 0)
          ∧ ∀ o ∈ (s.port p).queue, o.cmd.isMotion = true → ∀ i, o.slot = some i → i < s.bbf.slots.length →
              u.bbf.slot i = Slot.freed)
      ∧ (∀ j i, s.ope.job = some j ∨ s.ope.waiting = some j → j.op.slot = some i → i < s.bbf.slots.length →
          u.bbf.slot i = Slot.freed)
      ∧ (¬ orphaned → (∀ p, writes p = []) →
          u.bdr = s.bdr ∧ ∀ p, (u.port p).next = (s.port p).next ∧ (u.port p).marks = (s.port p).marks
            ∧ (u.port p).deferred = (s.port p).deferred ∧ (u.port p).pendingEv = (s.port p).pendingEv ||| begun p)
      ∧ (∀ j, (s.ope.job = some j ∧ s.ope.waiting = none) ∨ (s.ope.job = none ∧ s.ope.waiting = some j) →
          j.orphan = true → j.op.cmd.isWrite = true → (∀ p, writes p = []) →
          (u.bdr = if (∃ e, s.bdr.eod = some e ∧ e < j.n) then s.bdr
            else { s.bdr with entries := s.bdr.entries.filter (fun e => e.num < j.n),
                              known := min s.bdr.known ((j.n : Int) - 1), eod := some j.n })
          ∧ ∀ q, (u.port q).next = u.bdr.bound (s.port q).next ∧ (u.port q).marks = (s.port q).marks.map u.bdr.bound
              ∧ (u.port q).deferred = (s.port q).deferred
              ∧ (u.port q).pendingEv =
                  (s.port q).pendingEv ||| clamped u.bdr q ((s.port q).next :: (s.port q).marks) ||| begun q)
      ∧ (∀ p f, ¬ orphaned → lowest p = some f → writes p.other = [] →
          (u.bdr = if (∃ e, s.bdr.eod = some e ∧ e < f) then s.bdr
            else { s.bdr with entries := s.bdr.entries.filter (fun e => e.num < f),
                              known := min s.bdr.known ((f : Int) - 1), eod := some f })
          ∧ (u.port p).next = u.bdr.bound f ∧ (u.port p.other).next = u.bdr.bound (s.port p.other).next
          ∧ (∀ q, (u.port q).marks = (s.port q).marks.map u.bdr.bound)
          ∧ (given p = none → (u.port p).deferred = (s.port p).deferred)
          ∧ (∀ n, given p = some n → (u.port p).deferred =
              some (match (s.port p).deferred with | some m => min m n | none => n))
          ∧ (u.port p.other).deferred = (s.port p.other).deferred
          ∧ (u.port p).pendingEv =
              (s.port p).pendingEv ||| clamped u.bdr p (s.port p).marks
                ||| (if s.enabled p = true ∧ (given p).isSome = true
                      then EventKind.deferredErrorSet.bit else 0) ||| begun p
          ∧ (u.port p.other).pendingEv =
              (s.port p.other).pendingEv ||| clamped u.bdr p.other ((s.port p.other).next :: (s.port p.other).marks)
                ||| begun p.other)

/-! ## Writing and verifying -/

/-- The write gate (R119, R124) and the byte requests (R117, R187): at W the engine raises WR-GATE, with WR-MARK for a mark,
and enters TRANSFER; at W + extent it lowers both and enters VERIFY; WR-ERASE and the slots stand, and before those counts
nothing happens. Each request of a data block is answered with the next byte, the slot's data in order and then the check
field; a request after the last, or with WR-GATE false, is ignored. -/
def Obligations.WriteGateAndBytes : Prop :=
  ∀ (s : State) (j : Job), s.inReset = false → s.ope.job = some j →
    (j.stage = .writing → s.ope.phase = .run → s.ope.w ≤ s.tsv.counter →
      Becomes .writeGateOpen s
        { s with ope := { s.ope with phase := .transfer, wrGate := true, wrMark := decide (j.op.cmd = .writeMark),
                                     seen := Seen.nothing, handed := [] } })
    ∧ (j.stage = .writing → s.ope.phase = .run → s.tsv.counter < s.ope.w → Becomes .writeGateOpen s s)
    ∧ (j.stage = .writing → s.ope.phase = .transfer → s.ope.w + s.writeExtent j ≤ s.tsv.counter →
      Becomes .writeGateClose s { s with ope := { s.ope with phase := .verify, wrGate := false, wrMark := false } })
    ∧ (j.stage = .writing → s.ope.phase = .transfer → s.tsv.counter < s.ope.w + s.writeExtent j →
      Becomes .writeGateClose s s)
    ∧ (∀ i, j.op.cmd = .writeBlock → j.op.slot = some i →
      let all := (s.bbf.slot i).data ++ checkField s.dsq.params.check (s.bbf.slot i).data
      let k := s.ope.handed.length
      s.writeExtent j = dataExtent (s.bbf.slot i).len
      ∧ (∀ h : k < all.length, s.ope.wrGate = true →
          Becomes .writeByteRequest s
            { s with ope := { s.ope with wrData := all[k], handed := s.ope.handed ++ [all[k]] } })
      ∧ (all.length ≤ k ∨ s.ope.wrGate = false → Becomes .writeByteRequest s s))

/-- A block that is no mark, seen whole to its signal's end, has a good check exactly when it is 1 to 16,384 bytes with the check
field of the kind in force after them, as it was handed out; it is then read as those bytes and their length, and its
extent is that length's (R113, R115, R116). -/
def Obligations.WrittenBytesReadBackGood : Prop :=
  ∀ (k : CheckKind) (x : Seen), x.mark = false → x.limited = false → x.count = x.bytes.length →
    (x.good k = true ↔ ∃ data : List Byte, 1 ≤ data.length ∧ data.length ≤ 16384 ∧ x.bytes = data ++ checkField k data)
    ∧ ∀ data : List Byte, 1 ≤ data.length → data.length ≤ 16384 → x.bytes = data ++ checkField k data →
        x.data k = data ∧ x.reportLen k = data.length ∧ x.reportExtent k = dataExtent data.length

/-- A block one of whose data bytes has changed has a bad check, under either kind (R115, R116): the two check values differ, and
a block that is seen with the check field of the bytes handed out but one data byte changed is not good. -/
def Obligations.AChangedByteFailsTheCheck : Prop :=
  ∀ (pre post : List Byte) (v w : Byte), v ≠ w →
    (check16 (pre ++ v :: post) ≠ check16 (pre ++ w :: post) ∧ check32 (pre ++ v :: post) ≠ check32 (pre ++ w :: post))
    ∧ ∀ (k : CheckKind) (x : Seen), x.mark = false → x.count = x.bytes.length →
        x.bytes = (pre ++ w :: post) ++ checkField k (pre ++ v :: post) → x.good k = false

/-- A verification passes at its end point when exactly one block was seen, whole, of the kind, the length and the bytes handed
out: for a data block the data and check field of its slot, for a mark the mark pattern (R120, R124). A passed
verification of a port's write of block n (R121): the failure count 0, the traversal report of the block, a data block's
slot entered in the cache, the deck and the port's numbers n + 1 (the port's within EOD, R139) with the position valid,
the expected start W + extent + 600, and the record owed. For an orphaned write all of this but the port's number, queue and
record, which stand (R133). `Bbf.Enters` (Safety.lean) spells the entry to the cache, and
FullDirectoryDecimates what a report does. -/
def Obligations.VerificationPasses : Prop :=
  ∀ (s : State) (j : Job) (p : PortId), s.inReset = false → s.ope.job = some j → j.stage = .writing →
    s.ope.phase = .verify → j.actor = .port p →
    let x := s.ope.seen
    let one := x.rises = 1 ∧ x.endAt.isSome = true ∧ x.limited = false
    let done := fun (u : State) (extent : Int) =>
      u.ope.failCount = 0 ∧ u.ope.deckNext = j.n + 1 ∧ u.ope.posValid = true ∧ u.ope.job = none ∧ u.ope.asking = true
      ∧ u.ope.expStart = s.ope.w + extent + 600 ∧ u.tsv = s.tsv ∧ u.dsq = s.dsq ∧ u.arb = s.arb
      ∧ u.port p.other = s.port p.other
      ∧ (j.orphan = true → u.port p = s.port p)
      ∧ (j.orphan = false → (u.port p).next = u.bdr.bound (j.n + 1) ∧ (u.port p).queue = (s.port p).queue.tail
          ∧ (u.port p).status = (s.port p).status ++
              (if j.op.owed then [opRec j.op (if s.tsv.eotPassed then .okEot else .ok) j.n] else [])
          ∧ (u.port p).marks = (s.port p).marks ∧ (u.port p).pendingEv = (s.port p).pendingEv)
    (∀ i, j.op.cmd = .writeBlock → j.op.slot = some i →
      let all := (s.bbf.slot i).data ++ checkField s.dsq.params.check (s.bbf.slot i).data
      let extent := dataExtent (s.bbf.slot i).len
      s.ope.w + extent + 300 ≤ s.tsv.counter →
      one → x.mark = false → x.count = all.length → x.bytes = s.ope.handed → s.ope.handed = all →
      ∃ u, Settles .verifyEndPoint s u ∧ done u extent
        ∧ u.bdr = s.bdr.traverse { num := j.n, start := s.ope.w, extent := extent, len := (s.bbf.slot i).len, mark := false,
                                   failed := false }
        ∧ s.bbf.Enters i u.bbf)
    ∧ (j.op.cmd = .writeMark → j.op.slot = none → s.ope.w + 300 + 300 ≤ s.tsv.counter → one → x.mark = true →
      ∃ u, Settles .verifyEndPoint s u ∧ done u 300 ∧ u.bbf = s.bbf
        ∧ u.bdr = s.bdr.traverse { num := j.n, start := s.ope.w, extent := 300, len := 0, mark := true, failed := false })
    ∧ (∀ i, j.op.cmd = .writeBlock → j.op.slot = some i → s.tsv.counter < s.ope.w + dataExtent (s.bbf.slot i).len + 300 →
        Becomes .verifyEndPoint s s)

/-- A failed verification (R120, R122, R123, R124, R129): where the block was not seen whole, once, of its kind, length and
bytes, the failure count rises; at its limit MEDIA is reported and the operation is held in STOP; otherwise, below the
retry limit, it is stopped for a retry, WR-ERASE standing; at the retry limit it ends as a failed write WRITE_CHECK_FAILED
with the position not valid and the tape stopped. A failed write of block n (R162, R163): its slot and those of the
operations queued behind it FREE, its own record where it owes one, then CANCELLED records of those behind that owe
theirs, EOD n unless it is lower, the writer's number n, the other port's number and both ports' marks within EOD, and a
deferred error of the lowest block whose record was given at its take, with DEFERRED_ERROR_SET; POSITION_CLAMPED is added
where EOD lowers a mark or the other port's number (R161). An orphaned write that fails its attempt makes no other: its slot
FREE, EOD lowered to n with both ports bound by it, no record and no deferred error, and the arbiter asked at the end point
(R133; that the tape need not stop first is notes/assumptions/17.md). That the stop voids a completion not yet taken is
the model's choice (notes/assumptions/29.md), and so is which losses record a deferred error once the mode has changed
(notes/assumptions/16.md). -/
def Obligations.VerificationFails : Prop :=
  ∀ (s : State) (j : Job),
    let x := s.ope.seen
    let one := x.rises = 1 ∧ x.endAt.isSome = true ∧ x.limited = false
    let passes := match j.op.cmd, j.op.slot with
      | .writeMark, _ => one ∧ x.mark = true
      | _, some i =>
        let all := (s.bbf.slot i).data ++ checkField s.dsq.params.check (s.bbf.slot i).data
        one ∧ x.mark = false ∧ x.count = all.length ∧ x.bytes = s.ope.handed ∧ s.ope.handed = all
      | _, none => False
    let stopped := { s.tsv with order := .stop s.tsv.order.isFast .engine, target := 0, report := none }
    (s.inReset = false → s.ope.job = some j → j.stage = .writing → s.ope.phase = .verify →
      s.ope.w + s.writeExtent j + 300 ≤ s.tsv.counter → ¬ passes → s.tsv.order ≠ .faultRamp →
      (s.dsq.params.failLimit ≤ s.ope.failCount + 1 →
        Settles .verifyEndPoint s
          { s with
            ope := { s.ope with
              failCount := s.dsq.params.failLimit, job := some { j with stage := .mediaHold }, phase := .stop }
            tsv := stopped
            dsq := { s.dsq with faults := s.dsq.faults ++ [FaultKind.media.report] } })
      ∧ (s.ope.failCount + 1 < s.dsq.params.failLimit → s.ope.attempt < s.dsq.params.retryLimit → j.orphan = false →
        Settles .verifyEndPoint s
          { s with
            ope := { s.ope with
              failCount := s.ope.failCount + 1, job := some { j with stage := .retryStop }, phase := .stop }
            tsv := stopped })
      ∧ (s.ope.failCount + 1 < s.dsq.params.failLimit → s.dsq.params.retryLimit ≤ s.ope.attempt → j.orphan = false →
        let lost := ({ s with ope := { s.ope with failCount := s.ope.failCount + 1, posValid := false } } : State).failWrite j
          .writeCheckFailed j.n
        Settles .verifyEndPoint s { lost with ope := { lost.ope with phase := .stop }, tsv := stopped })
      ∧ (s.ope.failCount + 1 < s.dsq.params.failLimit → j.orphan = true →
        ∃ u, Settles .verifyEndPoint s u ∧ u.ope.job = none ∧ u.ope.asking = true ∧ u.ope.posValid = false
          ∧ u.ope.failCount = s.ope.failCount + 1 ∧ u.tsv = s.tsv ∧ u.dsq = s.dsq ∧ u.arb = s.arb
          ∧ (∀ i, j.op.slot = some i → i < s.bbf.slots.length → u.bbf.slot i = Slot.freed)
          ∧ (u.bdr = if (∃ e, s.bdr.eod = some e ∧ e < j.n) then s.bdr
              else { s.bdr with entries := s.bdr.entries.filter (fun e => e.num < j.n),
                                known := min s.bdr.known ((j.n : Int) - 1), eod := some j.n })
          ∧ ∀ q, (u.port q).next = u.bdr.bound (s.port q).next ∧ (u.port q).marks = (s.port q).marks.map u.bdr.bound
              ∧ (u.port q).queue = (s.port q).queue ∧ (u.port q).status = (s.port q).status
              ∧ (u.port q).deferred = (s.port q).deferred))
    ∧ ∀ (p : PortId) (c : Code) (d : Nat), j.actor = .port p → j.orphan = false → c ≠ .ok →
        let clamped := fun (d : Bdr) (q : PortId) (l : List Nat) =>
          if s.enabled q = true ∧ ∃ m ∈ l, d.bound m ≠ m then EventKind.positionClamped.bit else 0
        let u := s.failWrite j c d
        let behind := (s.port p).queue.tail
        let given := ((j.op :: behind).filterMap (fun o => if o.cmd = .writeBlock ∧ o.owed = false then o.block else none)).min?
        u.ope = { s.ope with job := none, corrections := 0, eotLatch := s.ope.eotLatch && s.tsv.eotPassed }
        ∧ u.tsv = s.tsv ∧ u.dsq = s.dsq ∧ u.arb = s.arb
        ∧ (u.port p).queue = [] ∧ (u.port p.other).queue = (s.port p.other).queue
        ∧ (u.port p).status = (s.port p).status ++ (if j.op.owed then [opRec j.op c d] else [])
            ++ (behind.filter Op.owed).map (fun o => opRec o .cancelled (o.block.getD 0))
        ∧ (u.port p.other).status = (s.port p.other).status
        ∧ (∀ o ∈ j.op :: behind, ∀ i, o.slot = some i → i < s.bbf.slots.length → u.bbf.slot i = Slot.freed)
        ∧ (u.bdr = if (∃ e, s.bdr.eod = some e ∧ e < j.n) then s.bdr
            else { s.bdr with entries := s.bdr.entries.filter (fun e => e.num < j.n),
                              known := min s.bdr.known ((j.n : Int) - 1), eod := some j.n })
        ∧ (u.port p).next = u.bdr.bound j.n ∧ (u.port p.other).next = u.bdr.bound (s.port p.other).next
        ∧ (∀ q, (u.port q).marks = (s.port q).marks.map u.bdr.bound)
        ∧ (given = none → (u.port p).deferred = (s.port p).deferred)
        ∧ (∀ n, given = some n → (u.port p).deferred =
            some (match (s.port p).deferred with | some m => min m n | none => n))
        ∧ (u.port p.other).deferred = (s.port p.other).deferred
        ∧ (u.port p).pendingEv =
            (s.port p).pendingEv ||| clamped u.bdr p (s.port p).marks
              ||| (if s.enabled p = true ∧ given.isSome = true then EventKind.deferredErrorSet.bit else 0)
        ∧ (u.port p.other).pendingEv =
            (s.port p.other).pendingEv ||| clamped u.bdr p.other ((s.port p.other).next :: (s.port p.other).marks)

/-! ## Reading -/

/-- The arrivals at the read head (R116), while the engine looks: in a READ (R125), in the SCAN of a positioning (R137), in a
forward SPACE (R141), and in TRANSFER or VERIFY of a write (R120). The first rise of RD-SIG begins the block 300 counts back,
of kind MARK with RD-MARK true; in a READ it enters TRANSFER with the expected start there, elsewhere phase and expected start
stand. Each byte strobe with the signal up is counted, and kept up to 16,388 bytes, in a READ in its slot too; the fall ends
the signal; RD-MARK true marks the block; at 3,100 counts with the signal up the block is taken as ended. While no block is in
progress, or the engine does not look, they change nothing but the levels held. That a later rise is counted and begins no
second block is the model's choice (notes/assumptions/19.md). -/
def Obligations.ReadArrivals : Prop :=
  ∀ s : State, s.inReset = false →
    let x := s.ope.seen
    let seen := fun (y : Seen) => ({ s with ope := { s.ope with seen := y } } : State)
    let levelsOnly :=
      (s.ope.rdSig = false → Becomes .rdSigRise s { s with ope := { s.ope with rdSig := true } })
      ∧ (s.ope.rdSig = true → Becomes .rdSigFall s { s with ope := { s.ope with rdSig := false } })
      ∧ (∀ v, Becomes (.readByteStrobe v) s s)
      ∧ (∀ level, Becomes (.rdMarkArrival level) s { s with ope := { s.ope with rdMark := level } })
      ∧ Becomes .readBlockLengthLimit s s
    (s.ope.rdSig = true → Becomes .rdSigRise s s) ∧ (s.ope.rdSig = false → Becomes .rdSigFall s s)
    ∧ (∀ j, s.ope.job = some j →
      (j.stage = .reading ∨ j.stage = .scanning ∨ j.stage = .crossing
        ∨ (j.stage = .writing ∧ (s.ope.phase = .transfer ∨ s.ope.phase = .verify))) →
      let begun := { x with rises := 1, start := s.tsv.counter - 300, mark := s.ope.rdMark }
      (s.ope.rdSig = false → x.rises = 0 → j.stage = .reading →
        Becomes .rdSigRise s
          { s with ope := { s.ope with rdSig := true, phase := .transfer, expStart := s.tsv.counter - 300, seen := begun } })
      ∧ (s.ope.rdSig = false → x.rises = 0 → j.stage ≠ .reading →
        Becomes .rdSigRise s { s with ope := { s.ope with rdSig := true, seen := begun } })
      ∧ (s.ope.rdSig = false → 0 < x.rises →
        Becomes .rdSigRise s { s with ope := { s.ope with rdSig := true, seen := { x with rises := x.rises + 1 } } })
      ∧ (s.ope.rdSig = false → ∀ v, Becomes (.readByteStrobe v) s s)
      ∧ (0 < x.rises → x.endAt = none →
        (∀ v, s.ope.rdSig = true →
          let taken := seen { x with count := x.count + 1, bytes := if x.bytes.length < 16388 then x.bytes ++ [v] else x.bytes }
          (j.stage ≠ .reading → Becomes (.readByteStrobe v) s taken)
          ∧ (∀ i, j.stage = .reading → j.op.slot = some i →
              Becomes (.readByteStrobe v) s
                { taken with bbf := s.bbf.modify i (fun y => { y with data := taken.ope.seen.bytes }) }))
        ∧ (s.ope.rdSig = true →
          Becomes .rdSigFall s
            { s with ope := { s.ope with rdSig := false, seen := { x with endAt := some s.tsv.counter } } })
        ∧ Becomes (.rdMarkArrival true) s { s with ope := { s.ope with rdMark := true, seen := { x with mark := true } } }
        ∧ Becomes (.rdMarkArrival false) s { s with ope := { s.ope with rdMark := false } }
        ∧ (x.start + 3100 ≤ s.tsv.counter →
          Becomes .readBlockLengthLimit s (seen { x with endAt := some s.tsv.counter, limited := true }))
        ∧ (s.tsv.counter < x.start + 3100 → Becomes .readBlockLengthLimit s s))
      ∧ (x.rises = 0 ∨ x.endAt.isSome = true →
        (∀ v, Becomes (.readByteStrobe v) s s)
        ∧ (s.ope.rdSig = true → Becomes .rdSigFall s { s with ope := { s.ope with rdSig := false } })
        ∧ (∀ level, Becomes (.rdMarkArrival level) s { s with ope := { s.ope with rdMark := level } })
        ∧ Becomes .readBlockLengthLimit s s))
    ∧ (s.ope.job = none → levelsOnly)
    ∧ (∀ j, s.ope.job = some j → j.stage ≠ .reading → j.stage ≠ .scanning → j.stage ≠ .crossing →
        j.stage ≠ .writing ∨ (s.ope.phase ≠ .transfer ∧ s.ope.phase ≠ .verify) → levelsOnly)

/-- The end point of a READ of block n (R125 to R127, R129, R133), the count at which the counter reaches start + extent +
300 of a block whose signal has ended: before it, and before the signal's end, nothing happens. The extent is 300 for a
mark, by the length for a data block, and by the travel of the signal, within 121 and 2,742, for one of no proper length or
ended at the limit (R116). Then, but for an orphaned READ: a good data block makes the failure count 0, the traversal
report, the deck and the port at n + 1 within EOD (R139), the slot DELIVERING with the bytes read, and a DATA record. A tape
mark: the same numbers and report, the slot FREE, and TAPE_MARK. A bad check raises the failure count: at its limit the
block is reported failed, MEDIA is reported and the read is held in STOP, the numbers standing; below the retry limit it is
stopped for a retry, with no report to the directory; at the retry limit the block is reported failed, the numbers pass it,
and the read ends READ_CHECK_FAILED with its slot FREE. An orphaned READ makes the same report and the engine's numbers, and
no further attempt; its slot is FREE, and its port's number, queue and records stand (R133). That the stop voids a
completion not yet taken is the model's choice (notes/assumptions/29.md), and so are that a mark counts as a good check
(notes/assumptions/21.md) and that a mark pattern ended at the limit is data with a bad check (notes/assumptions/20.md).
FullDirectoryDecimates spells what a report does. -/
def Obligations.GoodReadIsDelivered : Prop :=
  ∀ (s : State) (j : Job) (i : Nat) (p : PortId), s.inReset = false → s.ope.job = some j → j.stage = .reading →
    s.ope.phase = .transfer → j.op.slot = some i → j.actor = .port p → j.op.owed = true → i < s.bbf.slots.length →
    let x := s.ope.seen
    let kind := s.dsq.params.check
    let mark := x.mark = true ∧ x.limited = false
    let field := match kind with | .k16 => 2 | .k32 => 4
    let extent : Int :=
      if mark then 300
      else if field < x.count ∧ x.count - field ≤ 16384 ∧ x.limited = false then dataExtent (x.count - field)
      else max 121 (min 2742 (x.endAt.getD 0 - x.start - 280))
    let length := if mark then 0 else max 1 (min 16384 (x.count - field))
    let due := x.endAt.isSome = true ∧ x.start + extent + 300 ≤ s.tsv.counter
    let data := x.bytes.take (x.count - field)
    let stopped := { s.tsv with order := .stop s.tsv.order.isFast .engine, target := 0, report := none }
    let passed := fun (u : State) (failures : Nat) (failed : Bool) (r : Rec) =>
      u.ope.deckNext = j.n + 1 ∧ u.ope.posValid = true ∧ u.ope.job = none ∧ u.ope.asking = true
      ∧ u.ope.expStart = x.start + extent + 600 ∧ u.ope.failCount = failures
      ∧ u.bdr = s.bdr.traverse { num := j.n, start := x.start, extent := extent, len := length, mark := decide mark
                                 failed := failed }
      ∧ u.port p.other = s.port p.other ∧ u.tsv = s.tsv ∧ u.dsq = s.dsq ∧ u.arb = s.arb
      ∧ (j.orphan = true → u.port p = s.port p ∧ u.bbf.slot i = Slot.freed)
      ∧ (j.orphan = false →
          (u.port p).next = u.bdr.bound (j.n + 1) ∧ (u.port p).queue = (s.port p).queue.tail
          ∧ (u.port p).status = (s.port p).status ++ [r])
    (¬ due → Becomes .readEndPoint s s)
    ∧ (due → x.good kind = true → ¬ mark →
      ∃ u, Settles .readEndPoint s u
        ∧ passed u 0 false
            { kind := .data, tag := j.op.tag, cmd := j.op.cmd.code, code := if s.tsv.eotPassed then .okEot else .ok
              detail := j.n, payload := .delivering i data.length, stamp := none }
        ∧ (j.orphan = false →
            u.bbf.slot i = { s.bbf.slot i with state := .delivering, len := data.length, data := data }))
    ∧ (due → mark →
      ∃ u, Settles .readEndPoint s u ∧ passed u 0 false (opRec j.op .tapeMark j.n) ∧ u.bbf.slot i = Slot.freed)
    ∧ (due → x.good kind = false →
      (s.dsq.params.failLimit ≤ s.ope.failCount + 1 → s.tsv.order ≠ .faultRamp →
        Settles .readEndPoint s
          { s with
            ope := { s.ope with
              failCount := s.dsq.params.failLimit, job := some { j with stage := .mediaHold }, phase := .stop }
            tsv := stopped
            bdr := s.bdr.traverse { num := j.n, start := x.start, extent := extent, len := length, mark := decide mark
                                    failed := true }
            dsq := { s.dsq with faults := s.dsq.faults ++ [FaultKind.media.report] } })
      ∧ (s.ope.failCount + 1 < s.dsq.params.failLimit → s.ope.attempt < s.dsq.params.retryLimit → j.orphan = false →
        s.tsv.order ≠ .faultRamp →
        Settles .readEndPoint s
          { s with
            ope := { s.ope with
              failCount := s.ope.failCount + 1, job := some { j with stage := .retryStop }, phase := .stop }
            tsv := stopped })
      ∧ (s.ope.failCount + 1 < s.dsq.params.failLimit → s.dsq.params.retryLimit ≤ s.ope.attempt ∨ j.orphan = true →
        ∃ u, Settles .readEndPoint s u ∧ passed u (s.ope.failCount + 1) true (opRec j.op .readCheckFailed j.n)
          ∧ u.bbf.slot i = Slot.freed))

/-- Blank tape in a READ of block n (R128): at the expected start plus 30,300 with no rise the engine orders STOP and EOD
becomes n, unless it is known and lower (R108), with both ports' numbers and marks bounded by it and POSITION_CLAMPED where
one was lowered (R161), for an orphaned READ too (R133); before that count nothing happens. -/
def Obligations.BlankTapeInARead : Prop :=
  ∀ (s : State) (j : Job), s.inReset = false → s.ope.job = some j → j.stage = .reading → s.ope.phase = .run →
    s.ope.seen.rises = 0 → s.tsv.order ≠ .faultRamp →
    (s.ope.expStart + 30300 ≤ s.tsv.counter →
      ∃ u, Settles .readBlankTape s u
        ∧ u.ope = { s.ope with job := some { j with stage := .blankStop false }, phase := .stop }
        ∧ u.tsv.target = 0 ∧ u.tsv.order = .stop s.tsv.order.isFast .engine ∧ u.bbf = s.bbf
        ∧ ((∀ e, s.bdr.eod = some e → j.n ≤ e) → u.bdr.eod = some j.n ∧ u.bdr.known = min s.bdr.known ((j.n : Int) - 1)
            ∧ u.bdr.entries = s.bdr.entries.filter (fun x => x.num < j.n)
            ∧ ∀ p, (u.port p).next = min (s.port p).next j.n ∧ (u.port p).marks = (s.port p).marks.map (fun m => min m j.n)
                ∧ (u.port p).queue = (s.port p).queue ∧ (u.port p).status = (s.port p).status
                ∧ (u.port p).pendingEv = (s.port p).pendingEv |||
                    (if s.enabled p = true ∧ (j.n < (s.port p).next ∨ ∃ m ∈ (s.port p).marks, j.n < m)
                      then EventKind.positionClamped.bit else 0))
        ∧ (∀ e, s.bdr.eod = some e → e < j.n → u.bdr = s.bdr ∧ u.portA = s.portA ∧ u.portB = s.portB))
    ∧ (s.tsv.counter < s.ope.expStart + 30300 → Becomes .readBlankTape s s)

/-- The end point of a block crossed by a forward SPACE or scanned by a positioning (R137, R141), the count at which the counter
reaches start + extent + 300 of a block whose signal has ended: before that nothing happens. The extent is 300 for a mark, by
the length for a data block, and by the travel of the signal, within 121 and 2,742, for one of no proper length or ended at
the limit (R116). Either way the block is
reported to the directory as the deck next-block number k, a good check sets the failure count to 0, and the numbers pass
it. A SPACE with its abort notice ends CANCELLED, at a tape mark TAPE_MARK, at its count OK, at the end of data
END_OF_DATA, each with the blocks not crossed and the port at k + 1 within EOD; otherwise it goes on to the next block.
The SCAN of a positioning proceeds with the tape running where k + 1 is its block (`positioned` is spelled in
PositioningWays), ends at an abort notice (R146), and else goes on. Blank tape stops either and makes EOD the deck
next-block number, unless it is known and lower (R108, R138), POSITION_CLAMPED added where a number or a mark was lowered (R161); before its
count nothing happens. That a mark counts as a good check (notes/assumptions/21.md), that a mark pattern ended at the limit
does not (notes/assumptions/20.md), that an orphaned SPACE crosses on to its own end and an orphaned SCAN goes on to its goal
(notes/assumptions/17.md), and that the stop voids a completion not yet taken (notes/assumptions/29.md) are the model's
choices. FullDirectoryDecimates spells what a report does. -/
def Obligations.ScannedBlocks : Prop :=
  ∀ (s : State) (j : Job), s.inReset = false → s.ope.job = some j → s.ope.phase = .scan →
    let k := s.ope.deckNext
    let x := s.ope.seen
    let kind := s.dsq.params.check
    let mark := x.mark = true ∧ x.limited = false
    let field := match kind with | .k16 => 2 | .k32 => 4
    let extent : Int :=
      if mark then 300
      else if field < x.count ∧ x.count - field ≤ 16384 ∧ x.limited = false then dataExtent (x.count - field)
      else max 121 (min 2742 (x.endAt.getD 0 - x.start - 280))
    let length := if mark then 0 else max 1 (min 16384 (x.count - field))
    let due := x.endAt.isSome = true ∧ x.start + extent + 300 ≤ s.tsv.counter
    let past : State :=
      { s with
        ope := { s.ope with
          deckNext := k + 1, posValid := true, expStart := x.start + extent + 600
          failCount := if x.good kind then 0 else s.ope.failCount }
        bdr := s.bdr.traverse { num := k, start := x.start, extent := extent, len := length, mark := decide mark
                                failed := !x.good kind } }
    let goesOn := fun (i : Job) => { past with ope := { past.ope with job := some i, seen := Seen.nothing } }
    (j.stage = .scanning ∨ j.stage = .crossing → ¬ due → Becomes .scanEndPoint s s)
    ∧ (j.stage = .crossing → due →
      let left := j.op.count - (j.crossed + 1)
      let ends := fun (c : Code) =>
        ∃ u, Settles .scanEndPoint s u ∧ u.ope = { past.ope with job := none, corrections := 0, asking := true,
                                                                   eotLatch := s.ope.eotLatch && s.tsv.eotPassed }
          ∧ u.bdr = past.bdr ∧ u.bbf = s.bbf ∧ u.tsv = s.tsv ∧ u.dsq = s.dsq ∧ u.arb = s.arb
          ∧ (j.orphan = true → u.portA = s.portA ∧ u.portB = s.portB)
          ∧ ∀ p, j.actor = .port p → j.orphan = false →
              (u.port p).next = past.bdr.bound (k + 1) ∧ (u.port p).queue = (s.port p).queue.tail
              ∧ (u.port p).status = (s.port p).status ++ (if j.op.owed then [opRec j.op c left] else [])
              ∧ u.port p.other = s.port p.other
      (j.aborted = true → ends .cancelled)
      ∧ (j.aborted = false → mark → ends .tapeMark)
      ∧ (j.aborted = false → ¬ mark → j.crossed + 1 = j.op.count → ends (if s.tsv.eotPassed then .okEot else .ok))
      ∧ (j.aborted = false → ¬ mark → j.crossed + 1 ≠ j.op.count → past.bdr.eod = some (k + 1) → ends .endOfData)
      ∧ (j.aborted = false → ¬ mark → j.crossed + 1 ≠ j.op.count → past.bdr.eod ≠ some (k + 1) →
          Settles .scanEndPoint s (goesOn { j with crossed := j.crossed + 1 })))
    ∧ (j.stage = .scanning → due →
      (j.aborted = false → k + 1 = j.goal → Settles .scanEndPoint s (past.positioned j false))
      ∧ (j.aborted = false → k + 1 ≠ j.goal → Settles .scanEndPoint s (goesOn j))
      ∧ (j.aborted = true → j.op.cmd.isWrite = false →
          ∃ u, Settles .scanEndPoint s u ∧ u.ope.job = none ∧ u.ope.asking = true ∧ u.ope.deckNext = k + 1
            ∧ u.ope.posValid = true ∧ u.bdr = past.bdr ∧ u.tsv = s.tsv ∧ (∀ p, (u.port p).next = (s.port p).next)
            ∧ ∀ p, j.actor = .port p → j.orphan = false →
                (u.port p).queue = (s.port p).queue.tail
                ∧ (u.port p).status = (s.port p).status ++
                    (if j.op.owed then
                      [opRec j.op .cancelled (if j.op.cmd = .space then j.op.count - j.crossed else 0)] else [])))
    ∧ (j.stage = .scanning ∨ j.stage = .crossing → x.rises = 0 → s.tsv.order ≠ .faultRamp →
      s.ope.expStart + 30300 ≤ s.tsv.counter →
      ∃ u, Settles .scanBlankTape s u ∧ u.ope = { s.ope with job := some { j with stage := .blankStop true }, phase := .stop }
        ∧ u.tsv.target = 0 ∧ u.tsv.order = .stop s.tsv.order.isFast .engine ∧ u.bbf = s.bbf
        ∧ ((∀ e, s.bdr.eod = some e → k ≤ e) → u.bdr.eod = some k ∧ u.bdr.known = min s.bdr.known ((k : Int) - 1)
            ∧ u.bdr.entries = s.bdr.entries.filter (fun e => e.num < k)
            ∧ ∀ p, (u.port p).next = min (s.port p).next k ∧ (u.port p).marks = (s.port p).marks.map (fun m => min m k)
                ∧ (u.port p).pendingEv = (s.port p).pendingEv |||
                    (if s.enabled p = true ∧ (k < (s.port p).next ∨ ∃ m ∈ (s.port p).marks, k < m)
                      then EventKind.positionClamped.bit else 0))
        ∧ (∀ e, s.bdr.eod = some e → e < k → u.bdr = s.bdr ∧ u.portA = s.portA ∧ u.portB = s.portB))
    ∧ (j.stage = .scanning ∨ j.stage = .crossing → s.tsv.counter < s.ope.expStart + 30300 → Becomes .scanBlankTape s s)

/-- Positioning at rest to the block a job goes to (R135): with the deck next-block number already there the operation
proceeds; else a move to the entry's start less 250, or at EOD to the last block's end plus 350, or to the rest point of the
entry below, or to the load point, forward when that lies above the counter; with the deck next-block number already at the
entry below or the load point, a SCAN instead of a move. Proceeding, at rest or with the tape running (R118, R125, R139,
R141 to R143): a write raises WR-ERASE and runs with attempt 0 and W the expected start; a read lowers WR-ERASE and runs, a
forward SPACE begins to cross, either ending END_OF_DATA at or beyond EOD; a backward SPACE and a LOCATE give the port its
block within EOD and complete, the LOCATE with the target fixed at its grant as detail (R139, R143); that they end
END_OF_DATA where EOD has come to lie below it (R160) is the model's reading (notes/assumptions/39.md). A forward SPACE
taken up with the tape running has attempt number 0 (R131); that one begun at rest leaves the number as it stands is the
model's reading too (notes/assumptions/51.md), and that WR-ERASE is lowered where it is taken up with the tape running after
a write is the model's choice (notes/assumptions/55.md). That an order voids a completion not yet taken is the model's
choice (notes/assumptions/29.md). -/
def Obligations.PositioningWays : Prop :=
  ∀ (s : State) (j : Job), s.tsv.order ≠ .faultRamp →
    let u := s.positionTo j true
    let runs := { s.tsv with order := .run .normal true .engine, target := 400, report := none }
    let moves := fun (w : Way) (x : Int) =>
      u = { s with
        ope := { s.ope with
          phase := .move, corrections := 0, job := some { j with stage := .positioning w, moveTarget := x } }
        tsv := { s.tsv with
          report := none
          order := .move
            { target := x, forward := decide (s.tsv.counter < x), latch := false
              speed := classOf (if s.tsv.counter < x then x - s.tsv.counter else s.tsv.counter - x) } .engine } }
    let scans := u = { s with
      ope := { s.ope with job := some { j with stage := .scanning }, phase := .scan, wrErase := false, seen := Seen.nothing }
      tsv := runs }
    let there := fun (n : Nat) => s.ope.posValid = true ∧ s.ope.deckNext = n
    let eodAfter := fun (e : Entry) => s.bdr.eod = some j.goal ∧ 0 < j.goal ∧ s.bdr.entry (j.goal - 1) = some e
    (there j.goal → u = s.positioned j true)
    ∧ (¬ there j.goal →
        (∀ e, s.bdr.entry j.goal = some e → moves (.exact e.start) (e.start - 250))
        ∧ (s.bdr.entry j.goal = none →
            (∀ e, eodAfter e → moves (.afterEod (e.start + e.extent)) (e.start + e.extent + 350))
            ∧ ((∀ e, ¬ eodAfter e) →
                (∀ e, s.bdr.lookup j.goal = .lower e →
                  (there e.num → scans) ∧ (¬ there e.num → moves (.lower e.num e.start) (e.start - 250)))
                ∧ (s.bdr.lookup j.goal = .loadPoint →
                  (there 0 → scans) ∧ (¬ there 0 → moves .loadPoint 0)))))
    ∧ ∀ atRest : Bool,
        let v := s.positioned j atRest
        let beyond := fun (n : Nat) => ∃ e, s.bdr.eod = some e ∧ e ≤ n
        let below := ∃ e, s.bdr.eod = some e ∧ e < j.goal
        let ends := fun (code : Code) (detail : Nat) (next : Option Nat) =>
          v.ope.job = none ∧ (atRest = true → v.ope.phase = .idle ∧ v.ope.asking = false ∧ v.ope.attempt = 0)
          ∧ (atRest = false → v.ope.phase = s.ope.phase ∧ v.ope.asking = true)
          ∧ v.tsv = s.tsv ∧ v.bdr = s.bdr ∧ v.dsq = s.dsq ∧ v.arb = s.arb
          ∧ ∀ p, j.actor = .port p → j.orphan = false →
              (v.port p).queue = (s.port p).queue.tail ∧ v.port p.other = s.port p.other
              ∧ (v.port p).next = next.getD (s.port p).next
              ∧ (v.port p).status = (s.port p).status ++ (if j.op.owed then [opRec j.op code detail] else [])
        let okCode : Code := if s.tsv.eotPassed then .okEot else .ok
        (j.op.cmd.isWrite = true →
          v = { s with
            ope := { s.ope with
              job := some { j with stage := .writing }, phase := .run, attempt := 0, w := s.ope.expStart, wrErase := true
              seen := Seen.nothing, handed := [] }
            tsv := runs })
        ∧ (j.op.cmd = .readBlock → beyond j.n → ends .endOfData j.n none)
        ∧ (∀ i, j.op.cmd = .readBlock → ¬ beyond j.n → j.op.slot = some i →
            v = { s with
              ope := { s.ope with
                job := some { j with stage := .reading }, phase := .run, attempt := 0, wrErase := false, seen := Seen.nothing }
              bbf := s.bbf.modify i (fun x => { x with data := [] })
              tsv := runs })
        ∧ (j.op.cmd = .space → 0 < j.op.param → beyond j.n → ends .endOfData j.op.param.natAbs none)
        ∧ (j.op.cmd = .space → 0 < j.op.param → ¬ beyond j.n →
            v = { s with
              ope := { s.ope with
                job := some { j with crossed := 0, stage := .crossing }, phase := .scan, wrErase := false, seen := Seen.nothing
                attempt := if atRest then s.ope.attempt else 0 }
              tsv := runs })
        ∧ (j.op.cmd = .space → j.op.param < 0 →
            ends (if below then .endOfData else okCode) (j.op.param.natAbs - (j.n - j.goal)) (some (s.bdr.bound j.goal)))
        ∧ (j.op.cmd = .locate →
            ends (if j.toEod = true ∨ below then .endOfData else okCode) j.goal (some (s.bdr.bound j.goal)))

/-! ## The directory -/

/-- Lookup gives the entry of the largest number that is n or less, in its three forms (R105). -/
def Obligations.LookupFindsTheEntryBelow : Prop :=
  ∀ (d : Bdr) (n : Nat), d.wf →
    (∀ e, d.lookup n = .exact e ↔ e ∈ d.entries ∧ e.num = n)
    ∧ (∀ e, d.lookup n = .lower e ↔ e ∈ d.entries ∧ e.num < n ∧ ∀ x ∈ d.entries, x.num ≤ n → x.num ≤ e.num)
    ∧ (d.lookup n = .loadPoint ↔ ∀ x ∈ d.entries, n < x.num)

/-- What a traversal report adds, replaces and refuses (R98, R102 to R104). A report at or above a known EOD, or beyond the known
limit plus one, is not taken and changes nothing. Any other raises the known limit to its block if it is the next one. A block
that has an entry is traversed again: extent, length, kind and check flag are the report's, and the start stands when the two
differ by 200 counts or less; by more, the start is the report's too, and the entries of lower number that do not start
before it and those of higher number that do not start after it are removed. A block without an entry gets one only as a
multiple of the stride, in its place, with the same check of the order. A full directory at a stride below 256 first doubles
its stride and keeps the entries of the multiples of the new stride, and takes the new entry only if its number is one. EOD
stands throughout. That a directory which is still full then takes none is the model's choice (notes/assumptions/25.md). -/
def Obligations.FullDirectoryDecimates : Prop :=
  ∀ (d : Bdr) (t : Traversal),
    let u := d.traverse t
    let refused := (∃ e, d.eod = some e ∧ e ≤ t.num) ∨ d.known + 1 < t.num
    let known := if (t.num : Int) = d.known + 1 then (t.num : Int) else d.known
    let new : Entry := { num := t.num, start := t.start, extent := t.extent, len := t.len, mark := t.mark, failed := t.failed }
    let placed := fun (l : List Entry) =>
      l.filter (fun x => x.num < t.num ∧ x.start < t.start) ++ new :: l.filter (fun x => t.num < x.num ∧ t.start < x.start)
    (refused → u = d)
    ∧ (¬ refused → ∀ old, d.entry t.num = some old →
        ((t.start - old.start).natAbs ≤ 200 →
          u = { d with known := known, entries := d.entries.map (fun x => if x.num = t.num then { new with start := x.start } else x) })
        ∧ (200 < (t.start - old.start).natAbs → u = { d with known := known, entries := placed d.entries }))
    ∧ (¬ refused → d.entry t.num = none →
        (t.num % d.stride ≠ 0 → u = { d with known := known })
        ∧ (t.num % d.stride = 0 → d.entries.length < 4096 → u = { d with known := known, entries := placed d.entries })
        ∧ (t.num % d.stride = 0 → 4096 ≤ d.entries.length → d.stride < 256 →
            let kept := d.entries.filter (fun x => x.num % (2 * d.stride) = 0)
            u = { d with
              known := known, stride := 2 * d.stride
              entries := if t.num % (2 * d.stride) = 0 ∧ kept.length < 4096 then placed kept else kept }))

/-! ## The channel link -/

/-- Nine header bytes spell the header they encode (Table 10-1): no bit is dropped. The command codes of Table 10-3 name
their commands, no two alike, and no other code names one. -/
def Obligations.HeaderRoundTrip : Prop :=
  (∀ h : Hdr, Hdr.parse h.encode = h ∧ h.encode.length = 9)
  ∧ (∀ l : List Byte, l.length = 9 → (Hdr.parse l).encode = l)
  ∧ (∀ c : Cmd, Cmd.ofCode c.code = some c)
  ∧ ∀ v : Byte, (Cmd.ofCode v).isSome = true ↔ (0x01#8 ≤ v ∧ v ≤ 0x0A#8) ∨ (0x10#8 ≤ v ∧ v ≤ 0x19#8)

/-- A frame received (R170, R171). CI-FRM rising in IDLE opens a header, and elsewhere is only held. A header byte of good parity
is stored; one of bad parity, and a tenth byte before the header is read, make the frame an error frame: its FILLING slot is
FREE and the bytes to come drain, or the frame has ended where CI-FRM has fallen. A header is read at its ninth byte: in error
with a data length above 16,384, or not 0 for a command that is neither WRITE BLOCK nor PORT RESET, it makes the frame an error
frame; a WRITE BLOCK with data is HELD, or an error frame where CI-FRM has fallen; any other but PORT RESET (PortResetAndLinkLoss)
awaits its end, or has ended there. A byte in HELD, a byte of bad parity in DATA and one after the last data byte make an error
frame; bytes in DRAIN and outside a frame are discarded. The fall of CI-FRM ends a frame that is read and complete, and makes an
error frame of one whose header or data are not, or that is HELD; in DRAIN it ends an error frame and leaves IDLE after PORT
RESET. The corners that a processor which keeps the protocol never meets (a byte before the ninth is read or after the end of
the frame, a rise or fall out of turn, the fall before the header is read) are the model's choice (notes/assumptions/23.md), and
so are that the header bytes that come in DRAIN are not kept (notes/assumptions/44.md) and that a PORT RESET with a length above
16,384 is an error frame (notes/assumptions/22.md). -/
def Obligations.FrameReception : Prop :=
  ∀ (s : State) (p : PortId), s.inReset = false → s.inService p = true →
    let q := s.port p
    let x := q.rx
    let h := x.header
    let onRx := fun (level : Bool) (y : Rx) => s.onPort p (fun q => { q with ciFrm := level, rx := y })
    let faulty := fun (level : Bool) (y : Rx) =>
      ({ onRx level { y with state := if level then .drain else .ended, bad := true, slot := none } with
        bbf := match x.slot with
          | some i => { slots := s.bbf.slots.set i Slot.freed, cache := s.bbf.cache.filter (· ≠ i) }
          | none => s.bbf } : State)
    let full := ∀ i, x.slot = some i → (s.bbf.slot i).len ≤ (s.bbf.slot i).data.length
    let inError := 16384 < h.dataLen ∨ (h.dataLen ≠ 0 ∧ h.cmd ≠ some .writeBlock ∧ h.cmd ≠ some .portReset)
    (q.ciFrm = false → x.state = .idle → Becomes (.ciFrmRises p) s (onRx true { Rx.none with state := .header }))
    ∧ (q.ciFrm = false → x.state ≠ .idle → Becomes (.ciFrmRises p) s (onRx true x))
    ∧ (q.ciFrm = true → Becomes (.ciFrmRises p) s s)
    ∧ (∀ v par,
        (q.ciFrm = false ∨ x.state = .idle ∨ x.state = .drain ∨ (x.state = .ended ∧ x.bad = true) →
          Becomes (.inboundByte p v par) s s)
        ∧ (q.ciFrm = true →
          (x.state = .header → x.bytes.length < 9 →
            (oddParity v par = true → Becomes (.inboundByte p v par) s (onRx true { x with bytes := x.bytes ++ [v] }))
            ∧ (oddParity v par = false →
                Becomes (.inboundByte p v par) s (faulty true { x with bytes := x.bytes ++ [v] })))
          ∧ (x.state = .header → 9 ≤ x.bytes.length → Becomes (.inboundByte p v par) s (faulty true x))
          ∧ (x.state = .held → Becomes (.inboundByte p v par) s (faulty true x))
          ∧ (x.state = .data → oddParity v par = false ∨ full → Settles (.inboundByte p v par) s (faulty true x))
          ∧ (x.state = .ended → x.bad = false → Settles (.inboundByte p v par) s (faulty true x))))
    ∧ ((x.state = .header ∧ 9 ≤ x.bytes.length ∧ x.isRead = false) →
        (inError → Becomes (.frameHeaderComplete p) s (faulty q.ciFrm x))
        ∧ (¬ inError → h.cmd = some .writeBlock → 0 < h.dataLen →
            (q.ciFrm = true → Becomes (.frameHeaderComplete p) s (onRx true { x with state := .held, isRead := true }))
            ∧ (q.ciFrm = false → Becomes (.frameHeaderComplete p) s (faulty false x)))
        ∧ (¬ inError → h.cmd ≠ some .portReset → h.cmd ≠ some .writeBlock ∨ h.dataLen = 0 →
            Becomes (.frameHeaderComplete p) s
              (onRx q.ciFrm { x with state := if q.ciFrm then .header else .ended, isRead := true })))
    ∧ (¬ (x.state = .header ∧ 9 ≤ x.bytes.length ∧ x.isRead = false) → Becomes (.frameHeaderComplete p) s s)
    ∧ (q.ciFrm = false → Becomes (.frameEnd p) s s)
    ∧ (q.ciFrm = true →
        (x.state = .header → x.bytes.length < 9 → Becomes (.frameEnd p) s (faulty false x))
        ∧ (x.state = .header → 9 ≤ x.bytes.length → x.isRead = true →
            Becomes (.frameEnd p) s (onRx false { x with state := .ended }))
        ∧ (x.state = .header → 9 ≤ x.bytes.length → x.isRead = false → Becomes (.frameEnd p) s (onRx false x))
        ∧ (x.state = .held → Becomes (.frameEnd p) s (faulty false x))
        ∧ (x.state = .data → full → Becomes (.frameEnd p) s (onRx false { x with state := .ended }))
        ∧ (x.state = .data → ¬ full → Settles (.frameEnd p) s (faulty false x))
        ∧ (x.state = .drain → x.bad = true → Becomes (.frameEnd p) s (onRx false { x with state := .ended }))
        ∧ (x.state = .drain → x.bad = false → Becomes (.frameEnd p) s (onRx false Rx.none))
        ∧ (x.state = .idle ∨ x.state = .ended → Becomes (.frameEnd p) s (onRx false x)))

/-- A held WRITE BLOCK is admitted (R81, R152) when the record count is below 8, the queue below 4 and all writes, and the
charge below 8; while one of these does not hold it waits. The slot of R79, the lowest FREE one, else the first unpinned one
of the cache list, becomes FILLING for the port with the frame's tag and length, out of the list, and the port's charge
rises by one; then each data byte of good parity is stored at the next place. -/
def Obligations.WriteDataAdmission : Prop :=
  ∀ (s : State) (p : PortId) (i : Nat), s.inReset = false → s.inService p = true →
    ((s.port p).rx.state = .held → (s.port p).recordCount < 8 → (s.port p).queue.length < 4 →
      (∀ o ∈ (s.port p).queue, o.cmd = .writeBlock ∨ o.cmd = .writeMark) → s.charge p < 8 → s.bbf.candidate = some i →
      Becomes (.writeDataAdmitted p) s
        { (s.onPort p (fun q => { q with rx := { q.rx with state := .data, slot := some i } })) with
          bbf := { slots := s.bbf.slots.set i
                     { state := .filling, owner := some p, block := none, len := (s.port p).rx.header.dataLen,
                       tag := (s.port p).rx.header.tag, pins := 0, discard := false, data := [] }
                   cache := s.bbf.cache.filter (· ≠ i) } })
    ∧ ((∃ k < s.bbf.slots.length, (s.bbf.slot k).state = .free) →
        (s.bbf.candidate = some i ↔
          i < s.bbf.slots.length ∧ (s.bbf.slot i).state = .free ∧ ∀ k < i, (s.bbf.slot k).state ≠ .free))
    ∧ ((∀ k < s.bbf.slots.length, (s.bbf.slot k).state ≠ .free) →
        (s.bbf.candidate = some i ↔
          ∃ before after, s.bbf.cache = before ++ i :: after ∧ (s.bbf.slot i).pins = 0
            ∧ ∀ k ∈ before, (s.bbf.slot k).pins ≠ 0)
        ∧ (s.bbf.candidate = none ↔ ∀ k ∈ s.bbf.cache, (s.bbf.slot k).pins ≠ 0))
    ∧ ((s.port p).rx.state = .held →
        8 ≤ (s.port p).recordCount ∨ 4 ≤ (s.port p).queue.length ∨ 8 ≤ s.charge p
          ∨ (∃ o ∈ (s.port p).queue, o.cmd ≠ .writeBlock ∧ o.cmd ≠ .writeMark) →
        Becomes (.writeDataAdmitted p) s s)
    ∧ ((s.port p).rx.state ≠ .held → Becomes (.writeDataAdmitted p) s s)
    ∧ (∀ v par, (s.port p).ciFrm = true → (s.port p).rx.state = .data → (s.port p).rx.slot = some i →
        (s.bbf.slot i).data.length < (s.bbf.slot i).len → oddParity v par = true →
        Becomes (.inboundByte p v par) s
          { s with bbf := s.bbf.modify i (fun x => { x with data := x.data ++ [v] }) })

/-- Damaged and unknown frames (R172): an error frame that has ended is answered FRAME_ERROR with the tag and code received,
a frame of unknown code BAD_COMMAND, both with detail 0, whatever the deferred error; with eight records owed they
wait. That the port then awaits the next frame's header where CI-FRM is already true again is the model's choice
(notes/assumptions/23.md; R170 gives IDLE). -/
def Obligations.DamagedAndUnknownFrames : Prop :=
  ∀ (s : State) (p : PortId), s.inReset = false → s.inService p = true → (s.port p).rx.state = .ended →
    let x := (s.port p).rx
    let answered := fun c => s.onPort p (fun q =>
      { q with rx := (if q.ciFrm then { Rx.none with state := .header } else Rx.none)
               status := q.status ++ [completeRec (x.bytes.getD 1 0) (x.bytes.getD 0 0) c 0 []] })
    ((s.port p).recordCount < 8 → x.bad = true → Seals (.frameError p) s (answered .frameError))
    ∧ ((s.port p).recordCount < 8 → x.bad = false → x.header.cmd = none → Seals (.badCommand p) s (answered .badCommand))
    ∧ (8 ≤ (s.port p).recordCount → Becomes (.frameError p) s s ∧ Becomes (.badCommand p) s s)

/-- A record (Table 10-2) and its sending (R168, R175): the header is kind, tag, command code, completion code, deck state,
flags, next-block number, detail and data length, most significant byte first, fifteen bytes in all. The port raises
SO-FRM for the stamped record at its head, and while SO-RDY is true passes its next byte with odd parity; without it the
byte waits; after the last byte the record leaves, SO-FRM falls, and a pin or a DELIVERING slot is released (R86, R89;
`Bbf.Releases` in Safety.lean spells the slot's end). At that fall of the record count a waiting frame is taken, or the data of
a held WRITE BLOCK admitted, where the conditions of R152 then hold, before the cache hits and the event record test of the
same step: an error frame is answered FRAME_ERROR, one of unknown code BAD_COMMAND, and the frame of a command has the effect
that its own row's take has (`State.takeFrame`; the rows' statements spell each). Without such a frame the record leaves, and
the heads of the queues and the event record test follow.
That SO-FRM rises in the step that would pass the byte (notes/assumptions/40.md), that RECORD_SENT makes the take that is a row
of its own too (notes/assumptions/46.md), and that the port then awaits the next frame's header where CI-FRM is already true
again (notes/assumptions/23.md) are the model's choices. -/
def Obligations.RecordsAreSentByteByByte : Prop :=
  (∀ (r : Rec) (x : Stamp), x.next < 2 ^ 24 → r.detail < 2 ^ 32 → r.payload.len < 2 ^ 16 →
    (r.header x).length = 15
    ∧ (r.header x).take 6 = [r.kind.byte, r.tag, r.cmd, r.code.byte, x.deckByte, x.flags]
    ∧ ofBytes (((r.header x).drop 6).take 3) = x.next ∧ ofBytes (((r.header x).drop 9).take 4) = r.detail
    ∧ ofBytes ((r.header x).drop 13) = r.payload.len)
  ∧ (∀ v : Byte, oddParity v (parityFor v) = true)
  ∧ ∀ (s : State) (p : PortId) (r : Rec) (rest : List Rec), s.inReset = false → s.inService p = true →
    (s.port p).status = r :: rest →
    (∀ (x : Stamp) (h : (s.port p).sent < (s.recordBytes r x).length), r.stamp = some x →
      Becomes (.statusByteSent p true) s (s.onPort p (fun q =>
        { q with soRdy := true, soFrm := true, soData := (s.recordBytes r x)[(s.port p).sent], sent := q.sent + 1,
                 soPar := parityFor (s.recordBytes r x)[(s.port p).sent] })))
    ∧ (∀ x : Stamp, (s.port p).sent < (s.recordBytes r x).length → r.stamp = some x →
      Becomes (.statusByteSent p false) s (s.onPort p (fun q => { q with soRdy := false, soFrm := true })))
    ∧ (∀ (x : Stamp) (ready : Bool), (s.recordBytes r x).length ≤ (s.port p).sent → r.stamp = some x →
      Becomes (.statusByteSent p ready) s (s.onPort p (fun q => { q with soRdy := ready })))
    ∧ ((s.port p).sent = 15 + r.payload.len →
        ∃ b, s.bbf.Releases r.payload b ∧
          let u : State := { (s.onPort p (fun q => { q with status := rest, soFrm := false, sent := 0 })) with bbf := b }
          let x := (u.port p).rx
          let ended := x.state = .ended ∧ (u.port p).recordCount < 8
          let answered := fun c => u.onPort p (fun q =>
            { q with rx := (if q.ciFrm then { Rx.none with state := .header } else Rx.none)
                     status := q.status ++ [completeRec (x.bytes.getD 1 0) (x.bytes.getD 0 0) c 0 []] })
          (∀ w, u.mayAdmit p = true → Becomes (.writeDataAdmitted p) u w → Settles (.recordSent p) s w)
          ∧ (ended → x.bad = true → Settles (.recordSent p) s (answered .frameError))
          ∧ (ended → x.bad = false → x.header.cmd = none → Settles (.recordSent p) s (answered .badCommand))
          ∧ (∀ c, u.takes p c = true → c ≠ .portReset →
              Settles (.recordSent p) s (u.takeFrame p c)
              ∧ (Settles (takeOf c p) u (u.takeFrame p c) ∨ Seals (takeOf c p) u (u.takeFrame p c)))
          ∧ (u.mayAdmit p = false → (ended → x.bad = false ∧ x.header.cmd ≠ none) → (∀ c, u.takes p c = false) →
              Settles (.recordSent p) s u))
    ∧ ((s.port p).sent < 15 + r.payload.len → Becomes (.recordSent p) s s)

/-- PORT RESET at its header and link loss (R93, R133, R161, R165). The port is left in its power-on context: number 0, queue and
stack empty, the overflow flag clear, VERIFIED, all events unmasked, none pending, no hold, no deferred error, no byte of a
record passed and SO-FRM low. Its FILLING, PENDING and DELIVERING slots become FREE, a READING slot takes DISCARD, a
WRITING slot is kept, and each record it had placed that pins a CACHED slot gives the pin back, a withdrawn slot becoming
FREE with its last. Its granted operation is orphaned; the lowest of its queued writes that were not granted rolls EOD
back, with the other port's number and marks within it, and without one the directory and that port's number and marks
stand; its writer assignment, with WRITER_CHANGED at the other port, and its permit are released; the other port's queue
and status are untouched. PORT RESET places one record, OK. The return of the link places none and changes nothing of the
context (R166). -/
def Obligations.PortResetAndLinkLoss : Prop :=
  ∀ (s : State) (p : PortId), s.inReset = false → s.enabled p = true →
    let lost := (((s.port p).queue.filter (fun o => !o.granted && o.cmd.isWrite)).filterMap (fun o => o.block)).min?
    let pinsOf := fun (i : Nat) =>
      (s.port p).status.countP (fun r => match r.payload with | .pinned k _ => decide (k = i) | _ => false)
    let reset := fun (u : State) =>
      (u.port p).next = 0 ∧ (u.port p).queue = [] ∧ (u.port p).marks = [] ∧ (u.port p).overflow = false
      ∧ (u.port p).mode = .verified ∧ (u.port p).mask = BitVec.allOnes 9 ∧ (u.port p).pendingEv = 0
      ∧ (u.port p).hold = false ∧ (u.port p).deferred = none ∧ (u.port p).soFrm = false ∧ (u.port p).sent = 0
      ∧ (∀ i, i < s.bbf.slots.length → pinsOf i = 0 → (s.bbf.slot i).owner = some p →
          ((s.bbf.slot i).state ∈ [.filling, .pending, .delivering] → u.bbf.slot i = Slot.freed)
          ∧ ((s.bbf.slot i).state = .reading → u.bbf.slot i = { s.bbf.slot i with discard := true })
          ∧ ((s.bbf.slot i).state = .writing → u.bbf.slot i = s.bbf.slot i))
      ∧ (∀ i, i < s.bbf.slots.length → pinsOf i = 0 → (s.bbf.slot i).owner ≠ some p → u.bbf.slot i = s.bbf.slot i)
      ∧ (∀ i, i < s.bbf.slots.length → (s.bbf.slot i).state = .cached → (s.bbf.slot i).owner = none →
          pinsOf i ≤ (s.bbf.slot i).pins → 0 < pinsOf i →
          u.bbf.slot i = (if (s.bbf.slot i).block = none ∧ pinsOf i = (s.bbf.slot i).pins then Slot.freed
            else { s.bbf.slot i with pins := (s.bbf.slot i).pins - pinsOf i }))
      ∧ (lost = none → u.bdr = s.bdr ∧ (u.port p.other).next = (s.port p.other).next
          ∧ (u.port p.other).marks = (s.port p.other).marks)
      ∧ (∀ f, lost = some f →
          (u.bdr = if (∃ e, s.bdr.eod = some e ∧ e < f) then s.bdr
            else { s.bdr with entries := s.bdr.entries.filter (fun e => e.num < f),
                              known := min s.bdr.known ((f : Int) - 1), eod := some f })
          ∧ (u.port p.other).next = u.bdr.bound (s.port p.other).next
          ∧ (u.port p.other).marks = (s.port p.other).marks.map u.bdr.bound)
      ∧ u.arb.writer = (if s.arb.writer = some p then none else s.arb.writer)
      ∧ (s.arb.writer = some p → s.enabled p.other = true →
          (u.port p.other).pendingEv &&& EventKind.writerChanged.bit = EventKind.writerChanged.bit)
      ∧ u.arb.holder = (if s.arb.holder = some p then none else s.arb.holder)
      ∧ (u.port p.other).queue = (s.port p.other).queue ∧ (u.port p.other).status = (s.port p.other).status
      ∧ (u.port p.other).deferred = (s.port p.other).deferred
      ∧ u.ope.job = s.ope.job.map (fun j => if j.actor = .port p then { j with orphan := true } else j)
      ∧ u.ope.phase = s.ope.phase ∧ u.tsv = s.tsv ∧ u.dsq = s.dsq
    ((s.port p).linkAct = true →
        ∃ u, Settles (.linkLoss p) s u ∧ reset u ∧ (u.port p).status = [] ∧ (u.port p).rx = Rx.none
          ∧ (u.port p).linkAct = false)
    ∧ ((s.port p).linkAct = false → Becomes (.linkLoss p) s s)
    ∧ ((s.port p).rx.headerDue = true → (s.port p).rx.header.inError = false →
        (s.port p).rx.header.cmd = some .portReset →
        ∃ u, Settles (.portReset p) s u ∧ reset u
          ∧ (u.port p).status = [completeRec (s.port p).rx.header.tag Cmd.portReset.code .ok 0 []]
          ∧ (u.port p).rx.state = (if (s.port p).ciFrm then .drain else .idle))
    ∧ ((s.port p).linkAct = false →
        Seals (.linkRestored p) s (s.onPort p (fun q => { q with linkAct := true })))
    ∧ ((s.port p).linkAct = true → Becomes (.linkRestored p) s s)

/-- The event record test and the stamps at the end of an event (R174, R177, Table 10-2): an EVENT record of the unmasked
pending kinds enters the status queue when the link is up, the hold clear, such a kind pending and the record count below
8, the kinds leaving the pending set and the hold being set; and every record without a stamp takes the deck state, the
flags and the port's next-block number as they stand (that completions which follow one another in one step are one event
in this is the model's choice, notes/assumptions/45.md). -/
def Obligations.EventRecordsAndStamps : Prop :=
  ∀ (s : State) (p : PortId),
    let q := s.port p
    let t := s.seal
    let due := s.enabled p = true ∧ q.linkAct = true ∧ q.hold = false ∧ q.pendingEv &&& q.mask ≠ 0
      ∧ q.status.length + q.queue.countP (fun o => o.owed) < 8
    let stamp : Stamp :=
      { deckByte := s.dsq.deck.byte, next := q.next
        flags := (if s.ope.eotLatch then 1#8 else 0) ||| (if s.dsq.online then 2#8 else 0)
          ||| (if s.arb.writer = some p then 4#8 else 0) ||| (if q.deferred.isSome then 8#8 else 0)
          ||| (if q.overflow then 16#8 else 0) }
    let stamped := fun (r : Rec) => if r.stamp = none then { r with stamp := some stamp } else r
    let event : Rec := { kind := .event, tag := 0, cmd := 0, code := .ok, detail := (q.pendingEv &&& q.mask).toNat,
                         payload := .bytes [], stamp := some stamp }
    (due → t.port p = { q with status := q.status.map stamped ++ [event], hold := true
                               pendingEv := q.pendingEv &&& ~~~ q.mask })
    ∧ (¬ due → t.port p = { q with status := q.status.map stamped })
    ∧ t = { s with portA := t.portA, portB := t.portB }

/-! ## Takes of queued commands -/

/-- The tests at the take of a frame, each where those before it do not apply (R153): DEFERRED_ERROR with its block for
every command but SENSE and PORT RESET (R180, R165); OFFLINE; WRONG_STATE for a LOAD in UNLOADING, FAULT_STOP or FAULTED,
and for the other motion operations out of READY; NOT_WRITER; OTHER_PORT_ACTIVE; BAD_PARAMETER for a write beyond block
1,048,575. None refuses, online in READY, a motion operation that is neither a write nor UNLOAD, the writer's write of a
block up to 1,048,575, or an UNLOAD with the other port not the writer and its queue empty; none a LOAD online in UNLOADED,
LOADING or READY; and none a command that is no motion operation, PUSH MARK and RETURN TO MARK among them. An immediate
command but SENSE and PORT RESET is answered DEFERRED_ERROR in place of its own rule, and the deferred error removed (the
port left by the frame just answered, `q.nextFrame`, is the model's choice where CI-FRM is already true again,
notes/assumptions/23.md). -/
def Obligations.TakeTests : Prop :=
  ∀ (s : State) (p : PortId) (c : Cmd), let q := s.port p
    (∀ n, c ≠ .sense → c ≠ .portReset → q.deferred = some n → s.refusal p c = some (.deferredError, n))
    ∧ (q.deferred = none → c.isMotion = true → s.dsq.online = false → s.refusal p c = some (.offline, 0))
    ∧ (q.deferred = none → s.dsq.online = true →
        s.dsq.deck ∈ [.rewindOut, .windOff, .faultStop, .faultedSoft, .faultedHard] →
        s.refusal p .load = some (.wrongState, 0))
    ∧ (q.deferred = none → c.isMotion = true → s.dsq.online = true → c ≠ .load → s.dsq.deck ≠ .ready →
        s.refusal p c = some (.wrongState, 0))
    ∧ (q.deferred = none → s.dsq.online = true → s.dsq.deck = .ready → c.isWrite = true → s.arb.writer ≠ some p →
        s.refusal p c = some (.notWriter, 0))
    ∧ (q.deferred = none → s.dsq.online = true → s.dsq.deck = .ready →
        (s.arb.writer = some p.other ∨ (s.port p.other).queue ≠ []) → s.refusal p .unload = some (.otherPortActive, 0))
    ∧ (q.deferred = none → s.dsq.online = true → s.dsq.deck = .ready → c.isWrite = true → s.arb.writer = some p →
        1048575 < q.next + q.queue.countP (fun o => o.cmd.isWrite) → s.refusal p c = some (.badParameter, 0))
    ∧ (q.deferred = none → s.dsq.online = true → s.dsq.deck = .ready → c ≠ .unload → c.isWrite = false →
        s.refusal p c = none)
    ∧ (q.deferred = none → s.dsq.online = true → s.dsq.deck = .ready → c.isWrite = true → s.arb.writer = some p →
        q.next + q.queue.countP (fun o => o.cmd.isWrite) ≤ 1048575 → s.refusal p c = none)
    ∧ (q.deferred = none → s.dsq.online = true → s.dsq.deck = .ready → s.arb.writer ≠ some p.other →
        (s.port p.other).queue = [] → s.refusal p .unload = none)
    ∧ (q.deferred = none → s.dsq.online = true →
        s.dsq.deck ∈ [.unloaded, .vacuumUp, .loopForm, .loadPointSearch, .rezero, .ready] → s.refusal p .load = none)
    ∧ (q.deferred = none →
        c ∉ [.load, .readBlock, .writeBlock, .writeMark, .space, .locate, .rewind, .unload] → s.refusal p c = none)
    ∧ (∀ n, s.inReset = false → c.isQueued = false → c ≠ .sense → c ≠ .portReset → s.takes p c = true →
        q.deferred = some n →
        Settles (takeOf c p) s (s.onPort p (fun q =>
          { q.nextFrame with
            status := q.status ++ [completeRec q.rx.header.tag q.rx.header.code .deferredError n []], deferred := none })))

/-- A queued operation that is not a write joins the tail of its queue with its record owed and its frame's parameter, a
SPACE's count and a LOCATE's block number clamped (R151, R154, R173); refused, it is answered with the code of its test, a
deferred error then being removed (R153); while the conditions of R152 do not hold it waits. (The port left by the frame
just answered, `q.nextFrame`, is the model's choice where CI-FRM is already true again, notes/assumptions/23.md.) -/
def Obligations.QueuedFramesJoinTheirQueue : Prop :=
  ∀ (s : State) (p : PortId) (c : Cmd), s.inReset = false → c.isQueued = true → c.isWrite = false →
    let h := (s.port p).rx.header
    let param : Int := match c with
      | .space => max (-1048576) (min 1048576 h.param.toInt)
      | .locate => min 1048576 (h.param.toNat : Int)
      | _ => h.param.toNat
    (s.takes p c = true ↔ s.inService p = true ∧ (s.port p).rx.state = .ended ∧ (s.port p).rx.bad = false
        ∧ h.cmd = some c ∧ (s.port p).recordCount < 8 ∧ (s.port p).queue.length < 4)
    ∧ (s.takes p c = true → s.refusal p c = none →
        Settles (takeOf c p) s (s.onPort p (fun q =>
          { q.nextFrame with
            queue := q.queue ++ [{ cmd := c, tag := h.tag, param := param, chain := h.flags[0], owed := true,
                                   block := none, slot := none, granted := false }] })))
    ∧ (∀ code n, s.takes p c = true → s.refusal p c = some (code, n) →
        Settles (takeOf c p) s (s.onPort p (fun q =>
          { q.nextFrame with
            status := q.status ++ [completeRec h.tag h.code code n []]
            deferred := if code = .deferredError then none else q.deferred })))
    ∧ (s.takes p c = false → Becomes (takeOf c p) s s)

/-- A write taken as block n, the port's next-block number plus the writes in its queue (R154): the directory is truncated
at n with EOD n + 1 (R107), no port's number or mark lies above n + 1, with POSITION_CLAMPED where one did (R161), the slots
of block n and above leave the cache or take DISCARD (R90; `Bbf.TruncatedAt` in Safety.lean spells it), a WRITE BLOCK's slot
becomes PENDING with block n, the operation joins the queue with its frame's parameter (R151), and a buffered WRITE BLOCK is
answered at once. Refused, it is answered with the code of its test, its slot FREE, a deferred error then being removed
(R82, R153; TakeTests has the tests). A WRITE BLOCK with data length 0 is refused BAD_PARAMETER, and a deferred error stays
(R172). (The port left by the frame just answered, `q.nextFrame`, is the model's choice where CI-FRM is already true again,
notes/assumptions/23.md.) -/
def Obligations.WritesAreTaken : Prop :=
  ∀ (s : State) (p : PortId) (c : Cmd), s.inReset = false → c.isWrite = true → s.takes p c = true →
    let h := (s.port p).rx.header
    (s.refusal p c = none → (c = .writeBlock → 0 < h.dataLen) →
      let n := (s.port p).next + writesIn (s.port p).queue
      let atTake := (s.port p).mode = .buffered ∧ c = .writeBlock
      ∃ u, Settles (takeOf c p) s u
        ∧ u.bdr = { s.bdr with entries := s.bdr.entries.filter (fun e => e.num < n)
                               known := min s.bdr.known ((n : Int) - 1), eod := some (n + 1) }
        ∧ (∀ q, (u.port q).next = min (s.port q).next (n + 1)
              ∧ (u.port q).marks = (s.port q).marks.map (fun m => min m (n + 1))
              ∧ (u.port q).pendingEv = (s.port q).pendingEv |||
                  (if s.enabled q = true ∧ (n + 1 < (s.port q).next ∨ ∃ m ∈ (s.port q).marks, n + 1 < m)
                    then EventKind.positionClamped.bit else 0))
        ∧ s.bbf.TruncatedAt n (s.port p).rx.slot u.bbf
        ∧ (u.port p).queue = (s.port p).queue ++
            [{ cmd := c, tag := h.tag, param := h.param.toNat, chain := h.flags[0], owed := !decide atTake, block := some n,
               slot := (s.port p).rx.slot, granted := false }]
        ∧ (u.port p).status = (s.port p).status ++
            (if atTake then [completeRec h.tag h.code (if s.ope.eotLatch then .okEot else .ok) n []] else [])
        ∧ (u.port p.other).queue = (s.port p.other).queue ∧ (u.port p.other).status = (s.port p.other).status
        ∧ (∀ i, (s.port p).rx.slot = some i → i < s.bbf.slots.length →
            (u.bbf.slot i).state = .pending ∧ (u.bbf.slot i).block = some n
            ∧ ((s.bbf.slot i).state = .filling → (s.bbf.slot i).block = none →
                u.bbf.slot i = { s.bbf.slot i with state := .pending, block := some n, tag := 0 }))
        ∧ u.tsv = s.tsv ∧ u.dsq = s.dsq ∧ u.ope = s.ope ∧ u.arb = s.arb)
    ∧ (∀ code n, s.refusal p c = some (code, n) → (c = .writeBlock → 0 < h.dataLen) →
        Settles (takeOf c p) s
          { s.onPort p (fun q =>
              { q.nextFrame with
                status := q.status ++ [completeRec h.tag h.code code n []]
                deferred := if code = .deferredError then none else q.deferred }) with
            bbf := match (s.port p).rx.slot with
              | some i => { slots := s.bbf.slots.set i Slot.freed, cache := s.bbf.cache.filter (· ≠ i) }
              | none => s.bbf })
    ∧ (c = .writeBlock → h.dataLen = 0 →
        Seals (takeOf c p) s (s.onPort p (fun q =>
          { q.nextFrame with status := q.status ++ [completeRec h.tag h.code .badParameter 0 []] })))

/-- PUSH MARK and RETURN TO MARK complete at once at an empty queue (R148, R149): a push puts the next-block number on top,
discarding the bottom mark and setting the overflow flag at depth 4; a return takes the top mark as the next-block
number, or on an empty stack answers MARK_STACK_EMPTY and clears the overflow flag. No tape moves: the deck position, the
directory and the buffer stand, and so does the servo while the engine has no stop of R130 to order. -/
def Obligations.MarkStack : Prop :=
  ∀ (s : State) (p : PortId), s.inReset = false → (s.port p).queue = [] → (s.port p.other).queue = [] →
    (s.port p).deferred = none →
    let q := s.port p
    let still := fun (t : State) =>
      (t.port p).queue = [] ∧ t.ope.deckNext = s.ope.deckNext ∧ t.ope.posValid = s.ope.posValid ∧ t.bdr = s.bdr
      ∧ t.bbf = s.bbf ∧ t.dsq = s.dsq ∧ t.arb = s.arb ∧ (t.port p.other).next = (s.port p.other).next
      ∧ (t.port p.other).marks = (s.port p.other).marks ∧ (s.ope.asking = false → t.tsv = s.tsv ∧ t.ope = s.ope)
    (s.takes p .pushMark = true →
      ∃ t, exec (.pushMark p) s = .next t ∧ still t ∧ (t.port p).next = q.next
        ∧ firstAdded s t p = some (.complete, q.rx.header.tag, 0x09#8, .ok, q.next, .bytes [])
        ∧ (if q.marks.length < 4 then (t.port p).marks = q.marks ++ [q.next] ∧ (t.port p).overflow = q.overflow
           else (t.port p).marks = q.marks.tail ++ [q.next] ∧ (t.port p).overflow = true))
    ∧ (∀ m below, s.takes p .returnToMark = true → q.marks = below ++ [m] →
      ∃ t, exec (.returnToMark p) s = .next t ∧ still t ∧ (t.port p).next = m ∧ (t.port p).marks = below
        ∧ (t.port p).overflow = q.overflow
        ∧ firstAdded s t p = some (.complete, q.rx.header.tag, 0x0A#8, .ok, m, .bytes []))
    ∧ (s.takes p .returnToMark = true → q.marks = [] →
      ∃ t, exec (.returnToMark p) s = .next t ∧ still t ∧ (t.port p).next = q.next ∧ (t.port p).marks = []
        ∧ (t.port p).overflow = false
        ∧ firstAdded s t p = some (.complete, q.rx.header.tag, 0x0A#8, .markStackEmpty, q.next, .bytes []))

/-- A READ at a port's head is served from the cache (R88) exactly when a slot of the cache list holds the port's next block
with fewer than two pins, the block lies below EOD, the port's charge is below 8 and no deferred error stands: the
operation leaves the queue with a DATA record that pins the slot, the slot moves to the end of the cache list, and the
port's number rises by one. The tape and the directory are not touched. The step whose command leaves that READ the one
queued operation, the arbiter having nothing to choose, serves it, whatever the command; the take of the READ itself, with
the engine at work, is such a step. (The port left by the frame just answered, `q.nextFrame`, is the model's choice where
CI-FRM is already true again, notes/assumptions/23.md.) -/
def Obligations.CacheHit : Prop :=
  (∀ (s : State) (p : PortId) (o : Op) (rest : List Op), s.enabled p = true → (s.port p).queue = o :: rest →
    let n := (s.port p).next
    (∀ i, s.hitSlot p = some i ↔
      o.granted = false ∧ o.cmd = .readBlock ∧ (∀ e, s.bdr.eod = some e → n < e) ∧ s.charge p < 8
        ∧ (s.port p).deferred = none ∧ s.bbf.cache.find? (fun k => (s.bbf.slot k).block = some n) = some i
        ∧ (s.bbf.slot i).pins < 2)
    ∧ ∀ i, s.serveHit p i =
        { (s.onPort p (fun q =>
            { q with queue := rest, next := n + 1
                     status := q.status ++
                       [{ kind := .data, tag := o.tag, cmd := o.cmd.code, code := if s.ope.eotLatch then .okEot else .ok,
                          detail := n, payload := .pinned i (s.bbf.slot i).len, stamp := none }] })) with
          bbf := { slots := s.bbf.slots.set i { s.bbf.slot i with pins := (s.bbf.slot i).pins + 1 }
                   cache := s.bbf.cache.filter (· ≠ i) ++ [i] } })
  ∧ (∀ (i : Instr) (s u : State) (p : PortId) (o : Op) (k : Nat), Settles i s u →
      (u.port p).queue = [o] → (u.port p.other).queue = [] → u.hitSlot p = some k →
      u.ope.asking = false → u.ope.phase ≠ .idle ∨ u.ope.job ≠ none ∨ u.dsq.deck ≠ .ready ∨ u.dsq.online = false →
      Seals i s (u.serveHit p k))
  ∧ ∀ (s : State) (p : PortId) (k : Nat), s.inReset = false → s.takes p .readBlock = true → s.refusal p .readBlock = none →
      (s.port p).queue = [] → (s.port p.other).queue = [] → s.ope.asking = false → s.ope.phase ≠ .idle →
      let n := (s.port p).next
      (∀ e, s.bdr.eod = some e → n < e) → s.charge p < 8 →
      s.bbf.cache.find? (fun k => (s.bbf.slot k).block = some n) = some k → (s.bbf.slot k).pins < 2 →
      Seals (.readBlock p) s
        { (s.onPort p (fun q =>
            { q.nextFrame with
              next := n + 1
              status := q.status ++
                [{ kind := .data, tag := q.rx.header.tag, cmd := 0x02#8, code := if s.ope.eotLatch then .okEot else .ok
                   detail := n, payload := .pinned k (s.bbf.slot k).len, stamp := none }] })) with
          bbf := { slots := s.bbf.slots.set k { s.bbf.slot k with pins := (s.bbf.slot k).pins + 1 }
                   cache := s.bbf.cache.filter (· ≠ k) ++ [k] } }

/-- The arbiter's choice and grant (R130, R131, R157 to R159). With both ports' heads ready and no chain, the port not
served last is chosen; the holder of a chain goes on while its run is below 16; a grant not by the chain rule sets the run
to 0. Where a command leaves one queued operation, ready and ungranted, and the engine IDLE, the operation is granted in
that step: the port becomes holder and last served, the operation is marked granted, a WRITE BLOCK's slot becomes WRITING
and a READ obtains a READING slot (R83, R85; WriteDataAdmission spells `candidate`), and it begins: a READ or forward SPACE
at the end of data ends END_OF_DATA, a SPACE that goes nowhere ends OK, and otherwise a READ, a write and a forward SPACE
position to their block, a backward SPACE and a LOCATE to their target (PositioningWays spells the ways; R118, R125, R139,
R141 to R143); a REWIND moves to position 0 (R144); an UNLOAD starts the deck's unload, with DECK_NOT_READY at both ports
and the slots given back (R10, R91; `Unloads` in Safety.lean); a LOAD completes OK in READY, enters VACUUM_UP in UNLOADED
with the drive lines good and fails with them not (R4, R9). Where instead the engine asks at an end point, a continuation is
taken up with the tape running, any other operation waits for the stop (even one that will complete with no motion: the
model's choice, notes/assumptions/42.md), and with none the tape is stopped. That an order voids a completion not yet taken
is the model's choice (notes/assumptions/29.md). -/
def Obligations.ArbiterAlternates : Prop :=
  (∀ (s : State) (cand : PortId → Bool) (p : PortId) (o : Op),
    ((∀ q, s.chainGoesOn cand q = false) → cand .a = true → cand .b = true →
      s.choose cand = some (s.arb.lastServed.other, false))
    ∧ (s.arb.holder = some p → s.arb.lastChain = true → cand p = true → s.arb.chainRun < 16 →
      s.choose cand = some (p, true))
    ∧ (s.arb.holder = some p → 16 ≤ s.arb.chainRun → cand .a = true → cand .b = true →
      s.choose cand = some (s.arb.lastServed.other, false))
    ∧ ((∀ q, cand q = false) → s.choose cand = none)
    ∧ (s.arb.granted p false o).chainRun = 0 ∧ (s.arb.granted p true o).chainRun = min 16 (s.arb.chainRun + 1)
    ∧ ∀ b, (s.arb.granted p b o).holder = some p ∧ (s.arb.granted p b o).lastServed = p)
  ∧ (∀ (i : Instr) (s u : State) (p : PortId) (o : Op), Settles i s u → u.enabled p = true →
      (u.port p).queue = [o] → (u.port p.other).queue = [] → o.granted = false → u.ope.job = none →
      u.dsq.online = true → u.tsv.order ≠ .faultRamp →
      let next := (u.port p).next
      let n := match o.cmd with
        | .writeBlock => o.block.getD next
        | .writeMark => o.block.getD next
        | _ => next
      let slot := if o.cmd = .readBlock then u.bbf.candidate else o.slot
      let g : Op := { o with granted := true, slot := slot }
      let job := fun (goal : Nat) (toEod : Bool) =>
        ({ actor := .port p, op := g, n := n, orphan := false, aborted := false, stage := .deck, goal := goal,
           moveTarget := 0, crossed := 0, toEod := toEod } : Job)
      let given : State :=
        { u.onPort p (fun q => { q with queue := [g] }) with
          arb := { u.arb with
            holder := some p, lastServed := p, lastChain := o.chain
            chainRun := if u.arb.holder = some p ∧ u.arb.lastChain = true then min 16 (u.arb.chainRun + 1) else 0 }
          bbf := match o.cmd, slot with
            | .writeBlock, some k => u.bbf.modify k (fun x => { x with state := .writing })
            | .readBlock, some k =>
              { slots := u.bbf.slots.set k
                  { state := .reading, owner := some p, block := some next, len := 0, tag := o.tag, pins := 0,
                    discard := false, data := [] }
                cache := u.bbf.cache.filter (· ≠ k) }
            | _, _ => u.bbf }
      let beyond := fun (m : Nat) => ∃ e, u.bdr.eod = some e ∧ e ≤ m
      let atEnd := beyond n ∨ n = 1048576
      let mayRead := u.charge p < 8 ∧ u.hitSlot p = none
        ∧ ∀ x ∈ u.bbf.slots, (x.state = .pending ∨ x.state = .writing) → x.block ≠ some next
      let ends := fun (code : Code) (detail : Nat) =>
        ∃ t, Seals i s t ∧ t.arb = given.arb ∧ t.ope.job = none ∧ t.ope.phase = .idle ∧ t.tsv = u.tsv ∧ t.bdr = u.bdr
          ∧ t.dsq = u.dsq ∧ (t.port p).queue = [] ∧ (t.port p).next = next
          ∧ (t.port p).status = (u.port p).status ++ (if o.owed then [opRec o code detail] else [])
          ∧ (o.cmd = .readBlock → ∀ k, slot = some k → k < u.bbf.slots.length → t.bbf.slot k = Slot.freed)
      let okCode : Code := if u.tsv.eotPassed then .okEot else .ok
      (u.ope.phase = .idle → u.ope.asking = false → u.dsq.deck = .ready →
        (o.cmd = .readBlock → mayRead → atEnd → ends .endOfData next)
        ∧ (o.cmd = .readBlock → mayRead → ¬ atEnd → Seals i s (given.positionTo (job n false) true))
        ∧ (o.cmd = .writeBlock ∨ o.cmd = .writeMark → Seals i s (given.positionTo (job n false) true))
        ∧ (o.cmd = .space → o.param = 0 → ends okCode 0)
        ∧ (o.cmd = .space → 0 < o.param → atEnd → ends .endOfData o.param.natAbs)
        ∧ (o.cmd = .space → 0 < o.param → ¬ atEnd → Seals i s (given.positionTo (job n false) true))
        ∧ (o.cmd = .space → o.param < 0 → next = 0 → ends okCode o.param.natAbs)
        ∧ (o.cmd = .space → o.param < 0 → 0 < next →
            Seals i s (given.positionTo (job (next - o.param.natAbs) false) true))
        ∧ (∀ t : Nat, o.cmd = .locate → o.param = (t : Int) → ¬ beyond t → Seals i s (given.positionTo (job t false) true))
        ∧ (∀ t e : Nat, o.cmd = .locate → o.param = (t : Int) → u.bdr.eod = some e → e ≤ t →
            Seals i s (given.positionTo (job e true) true))
        ∧ (o.cmd = .rewind → ∃ j m, j.stage = .rewinding ∧ j.op = g ∧ j.actor = .port p ∧ m.target = 0
            ∧ (m.forward = true ↔ u.tsv.counter ≤ 0)
            ∧ Seals i s
                { given with
                  ope := { u.ope with job := some j, phase := .move, corrections := 0 }
                  tsv := { u.tsv with order := .move m .engine, report := none } })
        ∧ (o.cmd = .unload → u.arb.writer ≠ some p.other →
            ∃ t j, Seals i s t ∧ t.ope.job = some j ∧ j.op = g ∧ j.stage = .deck ∧ t.ope.phase = .move
              ∧ t.dsq.deck = .rewindOut ∧ t.arb.holder = some p ∧ t.arb.lastServed = p
              ∧ Unloads u t ∧ AddsEvents u t EventKind.deckNotReady.bit
              ∧ ∃ m, t.tsv.order = .move m .deck ∧ m.target = -2000 ∧ m.forward = false))
      ∧ (u.ope.phase = .idle → u.ope.asking = false → o.cmd = .load →
          (u.dsq.deck = .ready → ends okCode 0)
          ∧ (u.dsq.deck = .unloaded → u.dsq.ampRdy = true ∧ u.dsq.ampFlt = false →
              ¬ (u.dsq.vacS = true ∧ u.dsq.vacT = true) →
              ∃ t j, Seals i s t ∧ t.ope = { u.ope with job := some j, phase := .move } ∧ j.op = g ∧ j.stage = .deck
                ∧ t.dsq = { u.dsq with deck := .vacuumUp, timer := some .vacuumUp } ∧ t.arb = given.arb)
          ∧ (u.dsq.deck = .unloaded → ¬ (u.dsq.ampRdy = true ∧ u.dsq.ampFlt = false) →
              ∃ t, Seals i s t ∧ t.dsq.deck = .unloaded ∧ t.ope.job = none ∧ t.ope.phase = .idle ∧ t.tsv.vc = 0
                ∧ (t.port p).queue = []
                ∧ (t.port p).status = (u.port p).status ++ (if o.owed then [opRec o .loadFailed 0] else [])))
      ∧ (u.ope.asking = true → u.dsq.deck = .ready →
          let goesOn := u.ope.posValid = true ∧ u.ope.deckNext = n
          let taken : State := { given with ope := { u.ope with asking := false } }
          let stopped := { u.tsv with order := .stop u.tsv.order.isFast .engine, target := 0, report := none }
          (o.cmd = .writeBlock ∨ o.cmd = .writeMark → goesOn → Seals i s (taken.positioned (job n false) false))
          ∧ (o.cmd = .readBlock → mayRead → goesOn → ¬ atEnd → Seals i s (taken.positioned (job n false) false))
          ∧ (o.cmd = .space → 0 < o.param → goesOn → ¬ atEnd → Seals i s (taken.positioned (job n false) false))
          ∧ ((o.cmd = .writeBlock ∨ o.cmd = .writeMark) ∧ ¬ goesOn ∨ o.cmd = .readBlock ∧ mayRead ∧ (¬ goesOn ∨ atEnd)
              ∨ o.cmd = .space ∧ (o.param ≤ 0 ∨ ¬ goesOn) ∨ o.cmd = .locate ∨ o.cmd = .rewind →
              ∃ j, Seals i s { given with ope := { u.ope with asking := false, waiting := some j, phase := .stop }, tsv := stopped }
                ∧ j.actor = .port p ∧ j.op = g ∧ j.n = n ∧ j.orphan = false ∧ j.aborted = false)))
  ∧ ∀ (i : Instr) (s u : State), Settles i s u → u.ope.asking = true → u.portA.queue = [] → u.portB.queue = [] →
      u.tsv.order ≠ .faultRamp →
      Seals i s
        { u with
          ope := { u.ope with asking := false, phase := .stop }
          tsv := { u.tsv with order := .stop u.tsv.order.isFast .engine, target := 0, report := none } }

/-! ## Immediate commands -/

/-- SENSE is taken with or without a deferred error and answers 215 bytes that carry the state as it stands, byte for byte by
Table 10-6; it changes nothing but the port's frame and status queue (R180). A byte that the table gives no value (an EOT
position not recorded, an EOD not known, the pins of a slot that is not CACHED, an empty queue place's tag, an empty mark place)
is a free value that no clause speaks of, and the count of free values is the model's own (notes/assumptions/4.md); that an
orphaned operation is shown as executing is its choice (notes/assumptions/30.md), and so is the 0 in the bits of bytes 24 and
205 that the table gives no meaning (notes/assumptions/50.md) and the two's complement of the EOT marker position, the expected
start and the signed fields of QUERY DIRECTORY (section 10.3 names none of them; notes/assumptions/53.md). QUERY DIRECTORY answers the lookup of the
clamped block number as it stands, in 30 bytes, and changes no directory state (R111, R181; LookupFindsTheEntryBelow has the
lookup).
(The port left by the frame just answered, `q.nextFrame`, is the model's choice where CI-FRM is already true again,
notes/assumptions/23.md.) -/
def Obligations.SenseAndQueryDirectory : Prop :=
  ∀ (s : State) (p : PortId),
    let answered := fun (detail : Nat) (data : List Byte) => s.onPort p (fun q =>
      { q.nextFrame with status := q.status ++ [completeRec q.rx.header.tag q.rx.header.code .ok detail data] })
    let n := min 1048575 (s.port p).rx.header.param.toNat
    let q := s.port p
    let bytes := fun (first count : Nat) => ((s.sense p).drop first).take count
    let byte := fun (x : Nat) => BitVec.ofNat 8 x
    let flag := fun (x : Bool) => if x then 1#8 else 0#8
    let bits := fun (l : List Bool) => byte ((l.zipIdx.map (fun x => if x.1 then 2 ^ x.2 else 0)).sum)
    let deck := fun (x : Deck) => match x with
      | .unloaded => 0x00#8 | .vacuumUp => 0x11#8 | .loopForm => 0x12#8 | .loadPointSearch => 0x13#8 | .rezero => 0x14#8
      | .ready => 0x20#8 | .rewindOut => 0x31#8 | .windOff => 0x32#8 | .faultStop => 0x40#8 | .faultedSoft => 0x51#8
      | .faultedHard => 0x52#8
    let fault := fun (x : Option FaultKind) => match x with
      | none => 0#8 | some .loopOut => 1#8 | some .reelSaturation => 2#8 | some .tach => 3#8 | some .eotOverrun => 4#8
      | some .vacuumLoss => 5#8 | some .drive => 6#8 | some .media => 7#8
    let sight := fun (x : Sighting) => match x with | .clear => 0 | .seeing _ _ => 1 | .accepted => 2
    let who := fun (x : Option PortId) => match x with | none => 0#8 | some .a => 1#8 | some .b => 2#8
    let reel := fun (r : ReelState) =>
      beBytes 2 r.loop ++ beInt 2 r.pack ++ beInt 2 r.cmd
        ++ [(match r.mode with | .zero => 0#8 | .forming => 1#8 | .regulated => 2#8 | .fixed => 3#8), flag r.satFlag,
            byte r.satCount, flag r.latchOut]
    let held := fun (p : PortId) => s.bbf.slots.countP (fun x =>
      x.state ∈ [.filling, .pending, .writing, .reading, .delivering] ∧ x.owner = some p)
    let pins := q.status.countP (fun r => match r.payload with | .pinned _ _ => true | _ => false)
    let entry := fun (form : Byte) (e : Entry) =>
      [form] ++ beBytes 3 e.num ++ beInt 4 e.start ++ beInt 2 e.extent ++ beBytes 2 e.len ++ [flag e.mark, flag e.failed]
        ++ beInt 4 (e.start - 250)
    let rest := beBytes 2 s.bdr.stride ++ beBytes 2 s.bdr.entries.length ++ beInt 4 s.bdr.known
      ++ beBytes 3 (s.bdr.eod.getD 0) ++ [flag s.bdr.eod.isSome]
    (s.inReset = false → s.takes p .sense = true →
      Seals (.sense p) s { answered 0 (s.sense p) with draws := s.draws + 215 })
    ∧ (s.sense p).length = 215
    ∧ bytes 0 12 =
        [deck s.dsq.deck, fault s.dsq.faultKind, fault s.dsq.escKind,
         (match s.dsq.resume with | none => 0xFF#8 | some x => deck x), byte s.dsq.autoCount,
         bits [s.dsq.writeEnable, s.dsq.online, s.dsq.portbEn, s.dsq.ampRdy, s.dsq.ampFlt, s.dsq.vacS, s.dsq.vacT, s.dsq.ring],
         byte s.dsq.deckNum, byte s.dsq.params.gain, (match s.dsq.params.check with | .k16 => 16#8 | .k32 => 32#8),
         byte s.dsq.params.retryLimit, byte s.dsq.params.failLimit, flag s.dsq.params.autoClear]
    ∧ bytes 12 13 =
        beInt 2 s.tsv.vc ++ beInt 2 s.tsv.target ++ beInt 1 s.tsv.step
          ++ [(match s.tsv.order with
                | .none => 0#8 | .move _ _ => 1#8 | .run _ _ _ => 2#8 | .stop _ _ => 3#8 | .faultRamp => 4#8)]
          ++ beInt 4 s.tsv.counter
          ++ [byte s.tsv.glitches, byte s.tsv.stall,
              byte (sight s.tsv.lp + 4 * sight s.tsv.eot + (if s.tsv.eotPassed then 16 else 0)
                + (if s.tsv.eotPos.isSome then 32 else 0))]
    ∧ (∀ pos, s.tsv.eotPos = some pos → bytes 25 4 = beInt 4 pos)
    ∧ bytes 29 10 = reel s.tsv.supply ∧ bytes 39 10 = reel s.tsv.takeup
    ∧ bytes 49 14 =
        [(match s.ope.phase with
            | .idle => 0#8 | .move => 1#8 | .scan => 2#8 | .run => 3#8 | .transfer => 4#8 | .verify => 5#8 | .stop => 6#8),
         (match s.ope.job.map Job.actor with
            | none => 0#8 | some (.port .a) => 1#8 | some (.port .b) => 2#8 | some .panel => 3#8),
         (match s.ope.job with
            | none => 0#8
            | some j => match j.actor with | .panel => 0#8 | .port _ => j.op.cmd.code),
         byte s.ope.attempt]
          ++ beBytes 3 s.ope.deckNext ++ [flag s.ope.posValid] ++ beInt 4 s.ope.expStart
          ++ [byte s.ope.failCount, flag s.ope.eotLatch]
    ∧ bytes 63 4 = [who s.arb.holder, who (some s.arb.lastServed), byte s.arb.chainRun, who s.arb.writer]
    ∧ bytes 67 8 = beBytes 2 s.bdr.stride ++ beBytes 2 s.bdr.entries.length ++ beInt 4 s.bdr.known
    ∧ (∀ e, s.bdr.eod = some e → bytes 75 3 = beBytes 3 e) ∧ bytes 78 1 = [flag s.bdr.eod.isSome]
    ∧ bytes 79 4 = [byte (s.bbf.slots.countP (fun x => x.state = .free)),
                    byte (s.bbf.slots.countP (fun x => x.state = .cached)), byte (held .a), byte (held .b)]
    ∧ (∀ i, i < 16 →
        let x := s.bbf.slot i
        bytes (83 + 6 * i) 5 =
          [(match x.state with
              | .free => 0#8 | .filling => 1#8 | .pending => 2#8 | .writing => 3#8 | .reading => 4#8 | .delivering => 5#8
              | .cached => if x.block = none then 0x86#8 else 6#8), who x.owner] ++ beBytes 3 (x.block.getD 0xFFFFFF)
        ∧ (x.state = .cached → bytes (88 + 6 * i) 1 = [byte x.pins]))
    ∧ bytes 179 4 = beBytes 3 q.next ++ [byte q.queue.length]
    ∧ (∀ i, i < 4 →
        (∀ o, q.queue[i]? = some o → bytes (183 + 2 * i) 2 = [o.cmd.code, o.tag])
        ∧ (q.queue[i]? = none → bytes (183 + 2 * i) 1 = [0#8])
        ∧ ∀ m, q.marks[i]? = some m → bytes (193 + 3 * i) 3 = beBytes 3 m)
    ∧ bytes 191 2 = [byte (q.status.length + 1), byte q.marks.length]
    ∧ bytes 205 10 =
        [bits [decide (q.mode = .buffered), q.overflow, q.hold, q.deferred.isSome]]
          ++ beBytes 2 q.mask.toNat ++ beBytes 2 q.pendingEv.toNat ++ beBytes 3 (q.deferred.getD 0xFFFFFF)
          ++ [byte (held p), byte (held p + pins)]
    ∧ (Answered s p .queryDirectory → Seals (.queryDirectory p) s (answered n (s.bdr.query n)))
    ∧ (s.bdr.query n).length = 30
    ∧ (∀ e, s.bdr.lookup n = .exact e → s.bdr.query n = entry 2 e ++ rest)
    ∧ (∀ e, s.bdr.lookup n = .lower e → s.bdr.query n = entry 1 e ++ rest)
    ∧ (s.bdr.lookup n = .loadPoint → s.bdr.query n = List.replicate 18 0 ++ rest)

/-- ASSIGN WRITER (R155): refused WRITE_PROTECTED with the write-enable flag false, WRITER_BUSY while an orphaned write
executes or the other port is the writer, OK without change for the writer itself; else the port becomes the writer, with
WRITER_CHANGED at both ports. RELEASE WRITER (R156): refused WRONG_STATE while the port has a write queued, OK without
change for a port that is not the writer; else the writer becomes none, with WRITER_CHANGED at both ports.
(The port left by the frame just answered, `q.nextFrame`, is the model's choice where CI-FRM is already true again,
notes/assumptions/23.md.) -/
def Obligations.WriterAssignment : Prop :=
  ∀ (s : State) (p : PortId),
    let answered := fun (u : State) (code : Code) => u.onPort p (fun q =>
      { q.nextFrame with status := q.status ++ [completeRec (s.port p).rx.header.tag (s.port p).rx.header.code code 0 []] })
    (Answered s p .assignWriter →
      (s.dsq.writeEnable = false → Seals (.assignWriter p) s (answered s .writeProtected))
      ∧ (s.dsq.writeEnable = true → s.ope.orphanWrite = true ∨ s.arb.writer = some p.other →
          Seals (.assignWriter p) s (answered s .writerBusy))
      ∧ (s.dsq.writeEnable = true → s.ope.orphanWrite = false → s.arb.writer = some p →
          Seals (.assignWriter p) s (answered s .ok))
      ∧ (s.dsq.writeEnable = true → s.ope.orphanWrite = false → s.arb.writer = none →
          Seals (.assignWriter p) s
            (answered (({ s with arb := { s.arb with writer := some p } } : State).addEvents .writerChanged) .ok)))
    ∧ (Answered s p .releaseWriter →
      ((∃ o ∈ (s.port p).queue, o.cmd.isWrite = true) → Seals (.releaseWriter p) s (answered s .wrongState))
      ∧ ((∀ o ∈ (s.port p).queue, o.cmd.isWrite = false) → s.arb.writer ≠ some p →
          Seals (.releaseWriter p) s (answered s .ok))
      ∧ ((∀ o ∈ (s.port p).queue, o.cmd.isWrite = false) → s.arb.writer = some p →
          Settles (.releaseWriter p) s
            (answered (({ s with arb := { s.arb with writer := none } } : State).addEvents .writerChanged) .ok)))

/-- SET PORT OPTIONS, ACKNOWLEDGE EVENTS and SET DECK PARAMETERS (R21, R173, R178, R179): each sets what its parameter gives,
clamped, and answers with its detail; deck parameters are taken only in UNLOADED and only with a check kind of 16 or
32.
(The port left by the frame just answered, `q.nextFrame`, is the model's choice where CI-FRM is already true again,
notes/assumptions/23.md.) -/
def Obligations.OptionsEventsAndParameters : Prop :=
  ∀ (s : State) (p : PortId),
    let h := (s.port p).rx.header
    let answered := fun (u : State) (code : Code) (detail : Nat) => u.onPort p (fun q =>
      { q.nextFrame with status := q.status ++ [completeRec h.tag h.code code detail []] })
    (Answered s p .setPortOptions →
      Seals (.setPortOptions p) s
        (answered (s.onPort p (fun q =>
          { q with mask := h.param.extractLsb' 0 9, mode := if h.param[16] then .buffered else .verified })) .ok
          (h.param &&& 0x000101FF#32).toNat))
    ∧ (Answered s p .acknowledgeEvents →
      (let left := (s.port p).pendingEv &&& ~~~ (h.param.extractLsb' 0 9)
       Seals (.acknowledgeEvents p) s
        (answered (s.onPort p (fun q => { q with pendingEv := left, hold := false })) .ok left.toNat)))
    ∧ (Answered s p .setDeckParameters →
      (s.dsq.deck ≠ .unloaded → Seals (.setDeckParameters p) s (answered s .wrongState 0))
      ∧ (s.dsq.deck = .unloaded → h.param.extractLsb' 8 8 ≠ 16#8 → h.param.extractLsb' 8 8 ≠ 32#8 →
          Seals (.setDeckParameters p) s (answered s .badParameter 0))
      ∧ (∀ k, s.dsq.deck = .unloaded →
          (h.param.extractLsb' 8 8 = 16#8 ∧ k = .k16) ∨ (h.param.extractLsb' 8 8 = 32#8 ∧ k = .k32) →
          Seals (.setDeckParameters p) s
            (answered ({ s with dsq := { s.dsq with params :=
              { gain := max 1 (h.param.extractLsb' 0 4).toNat, check := k, retryLimit := (h.param.extractLsb' 16 4).toNat
                failLimit := max 1 (min 64 (h.param.extractLsb' 24 7).toNat), autoClear := h.param[31] } } }) .ok 0)))

/-- CLEAR FAULT whose checks do not all pass (R72): refused CONDITION_PERSISTS with a bit for each check that failed, and the
deck and every other state as they were.
(The port left by the frame just answered, `q.nextFrame`, is the model's choice where CI-FRM is already true again,
notes/assumptions/23.md.) -/
def Obligations.ClearFaultIsRefusedWhileTheConditionPersists : Prop :=
  ∀ (s : State) (p : PortId), Answered s p .clearFault → s.dsq.deck = .faultedSoft →
    let bad := fun (l : Nat) => l < 64 ∨ 960 < l
    (s.dsq.vacS = false ∨ s.dsq.vacT = false ∨ bad s.tsv.supply.loop ∨ bad s.tsv.takeup.loop
      ∨ s.dsq.ampRdy = false ∨ s.dsq.ampFlt = true) →
    Seals (.clearFault p) s (s.onPort p (fun q =>
      { q.nextFrame with status := q.status ++ [completeRec q.rx.header.tag q.rx.header.code .conditionPersists
                 ((if s.dsq.vacS then 0 else 1) + (if s.dsq.vacT then 0 else 2) + (if bad s.tsv.supply.loop then 4 else 0)
                  + (if bad s.tsv.takeup.loop then 8 else 0) + (if s.dsq.ampRdy ∧ s.dsq.ampFlt = false then 0 else 16)) []] }))

/-- CLEAR FAULT otherwise (R69, R71, R73): accepted in FAULTED SOFT with all checks passing, it enters the state the resume
point and the fault kind give with that state's entry actions (`Resumes` in Safety.lean spells them; that an order voids a
completion not yet taken is the model's choice, notes/assumptions/29.md), with the fault items absent and FAULT_CLEARED at
both ports, the queues, numbers and marks standing; in FAULTED HARD it unloads (`Unloads` in Safety.lean), with
DECK_NOT_READY where the resume point is READY or REZERO, and FAULT_CLEARED; elsewhere it is refused WRONG_STATE. (The port
left by the frame just answered, `q.nextFrame`, is the model's choice where CI-FRM is already true again,
notes/assumptions/23.md.) -/
def Obligations.ClearFaultLeavesTheFault : Prop :=
  ∀ (s : State) (p : PortId), Answered s p .clearFault →
    (s.dsq.deck = .faultedSoft → s.checksPass = true →
      ∃ u, Settles (.clearFault p) s u ∧ Resumes s u
        ∧ (u.port p).status = (s.port p).status ++ [completeRec (s.port p).rx.header.tag Cmd.clearFault.code .ok 0 []]
        ∧ (u.port p.other).status = (s.port p.other).status
        ∧ ∀ q, (u.port q).queue = (s.port q).queue ∧ (u.port q).next = (s.port q).next ∧ (u.port q).marks = (s.port q).marks)
    ∧ (s.dsq.deck = .faultedHard →
      ∃ u, Settles (.clearFault p) s u ∧ u.dsq.deck = .unloaded ∧ u.dsq.faultKind = none ∧ u.dsq.escKind = none
        ∧ u.dsq.resume = none ∧ u.tsv.glitches = 0 ∧ u.tsv.stall = 0 ∧ Unloads s u
        ∧ AddsEvents s u ((if s.dsq.resume = some .ready ∨ s.dsq.resume = some .rezero then EventKind.deckNotReady.bit else 0)
            ||| EventKind.faultCleared.bit)
        ∧ (s.arb.writer ≠ some p →
            (u.port p).status = (s.port p).status ++ [completeRec (s.port p).rx.header.tag Cmd.clearFault.code .ok 0 []]))
    ∧ (s.dsq.deck ≠ .faultedSoft → s.dsq.deck ≠ .faultedHard →
      Seals (.clearFault p) s (s.onPort p (fun q =>
        { q.nextFrame with status := q.status ++ [completeRec q.rx.header.tag q.rx.header.code .wrongState 0 []] })))

/-- ABORT (R164, R146): the port's queued operations that are not granted and owe a record complete CANCELLED in queue
order, a SPACE with the magnitude of its count and the others with 0, and the ABORT's own record follows with their number.
With no write among them the rest of the queue stays and the directory and the numbers are untouched. With writes among them
the volume is rolled back to the lowest, f (R162, R163): the buffered writes at f and above are lost with it, those below f
stay; EOD f unless it is lower, the port's number f less its writes that stay, the other port's number and both ports' marks
within EOD, and a deferred error of the lowest buffered write lost, with DEFERRED_ERROR_SET; POSITION_CLAMPED is added where
EOD lowers a mark or the other port's number (R161). The slots of the operations that leave are FREE, the others stand. A
positioning or rewind of the port is stopped at once, a SPACE crossing blocks or a LOCATE or SPACE scanning is marked to end
at its next block, and so is an operation granted at an end point and not begun, but for a LOAD or an UNLOAD, which go on;
the other port's operation goes on. That a cancelled write's detail is 0 (notes/assumptions/15.md) and that the stop voids a
completion not yet taken (notes/assumptions/29.md) are the model's choices, and so is the port left by the frame just
answered (notes/assumptions/23.md). -/
def Obligations.AbortCancels : Prop :=
  ∀ (s : State) (p : PortId), Answered s p .abort →
    let h := (s.port p).rx.header
    let lost := (s.port p).queue.filter (fun o => !o.granted && o.owed)
    let clamped := fun (d : Bdr) (q : PortId) (l : List Nat) =>
      if s.enabled q = true ∧ ∃ m ∈ l, d.bound m ≠ m then EventKind.positionClamped.bit else 0
    let writes := (lost.filter (fun o => o.cmd.isWrite)).filterMap (fun o => o.block)
    ∃ u, Settles (.abort p) s u
      ∧ (u.port p).status = (s.port p).status
          ++ lost.map (fun o => opRec o .cancelled (if o.cmd = .space then o.param.natAbs else 0))
          ++ [completeRec h.tag h.code .ok lost.length []]
      ∧ (u.port p.other).queue = (s.port p.other).queue ∧ (u.port p.other).status = (s.port p.other).status
      ∧ u.dsq = s.dsq ∧ u.arb = s.arb
      ∧ (writes = [] →
          (u.port p).queue = (s.port p).queue.filter (fun o => o.granted || !o.owed) ∧ u.bdr = s.bdr
          ∧ (u.port p).next = (s.port p).next ∧ u.port p.other = s.port p.other
          ∧ (u.port p).marks = (s.port p).marks ∧ (u.port p).deferred = none ∧ (u.port p).pendingEv = (s.port p).pendingEv
          ∧ (∀ o ∈ lost, ∀ i, o.slot = some i → i < s.bbf.slots.length → u.bbf.slot i = Slot.freed)
          ∧ ∀ i, (∀ o ∈ lost, o.slot ≠ some i) → u.bbf.slot i = s.bbf.slot i)
      ∧ (∀ f, writes.min? = some f →
          let buffered := fun (o : Op) => !o.granted && !o.owed
          let beyond := fun (o : Op) => o.cmd.isWrite && decide (f ≤ o.block.getD 0)
          let behind := (s.port p).queue.filter (fun o => buffered o && beyond o)
          let kept := (s.port p).queue.filter (fun o => o.granted || (buffered o && !beyond o))
          let given := (behind.filterMap (fun o => if o.cmd = .writeBlock then o.block else none)).min?
          (u.bdr = if (∃ e, s.bdr.eod = some e ∧ e < f) then s.bdr
            else { s.bdr with entries := s.bdr.entries.filter (fun e => e.num < f),
                              known := min s.bdr.known ((f : Int) - 1), eod := some f })
          ∧ (u.port p).queue = kept ∧ (u.port p).next = u.bdr.bound (f - kept.countP (fun o => o.cmd.isWrite))
          ∧ (u.port p.other).next = u.bdr.bound (s.port p.other).next
          ∧ (∀ q, (u.port q).marks = (s.port q).marks.map u.bdr.bound)
          ∧ (u.port p).deferred = given ∧ (u.port p.other).deferred = (s.port p.other).deferred
          ∧ (u.port p).pendingEv =
              (s.port p).pendingEv ||| clamped u.bdr p (s.port p).marks
                ||| (if s.enabled p = true ∧ given.isSome = true then EventKind.deferredErrorSet.bit else 0)
          ∧ (u.port p.other).pendingEv =
              (s.port p.other).pendingEv ||| clamped u.bdr p.other ((s.port p.other).next :: (s.port p.other).marks)
          ∧ (∀ o ∈ lost ++ behind, ∀ i, o.slot = some i → i < s.bbf.slots.length → u.bbf.slot i = Slot.freed)
          ∧ ∀ i, (∀ o ∈ lost ++ behind, o.slot ≠ some i) → u.bbf.slot i = s.bbf.slot i)
      ∧ (∀ j, s.ope.job = some j → j.actor = .port p → j.orphan = false → s.tsv.order ≠ .faultRamp →
          (((∃ w, j.stage = .positioning w) ∨ j.stage = .rewinding) →
            u.ope = { s.ope with job := some { j with stage := .abortStop }, phase := .stop }
            ∧ u.tsv = { s.tsv with order := .stop s.tsv.order.isFast .engine, target := 0, report := none })
          ∧ (j.stage = .crossing → u.ope = { s.ope with job := some { j with aborted := true } } ∧ u.tsv = s.tsv)
          ∧ (j.stage = .reading ∨ j.stage = .writing → u.ope = s.ope ∧ u.tsv = s.tsv))
      ∧ (∀ j, s.ope.job = some j → j.actor = .port p → j.orphan = false → j.stage = .scanning →
          u.ope = (if j.op.cmd = .locate ∨ j.op.cmd = .space then { s.ope with job := some { j with aborted := true } }
            else s.ope) ∧ u.tsv = s.tsv)
      ∧ (∀ j, s.ope.job = some j → j.stage = .deck → u.ope = s.ope ∧ u.tsv = s.tsv)
      ∧ (∀ j, s.ope.job = none → s.ope.waiting = some j → j.actor = .port p → j.orphan = false →
          u.tsv = s.tsv
          ∧ (j.op.cmd ∈ [.readBlock, .writeBlock, .writeMark, .space, .locate, .rewind] →
              u.ope = { s.ope with waiting := some { j with aborted := true } })
          ∧ (j.op.cmd = .load ∨ j.op.cmd = .unload → u.ope = s.ope))
      ∧ (∀ j, s.ope.job = some j → j.actor = .port p.other → u.ope = s.ope ∧ u.tsv = s.tsv)
end

