-- ==== Sys2Proof/Laws/Arith.lean ====
section
/-! SUPPORT. The bounds of the servo's arithmetic. -/

namespace Sys2Proof.Machine

theorem le_limit {lo hi x : Int} (h : lo ≤ hi) : lo ≤ limit lo hi x ∧ limit lo hi x ≤ hi := by
  unfold limit; omega

theorem limit_eq_self {lo hi x : Int} (h₁ : lo ≤ x) (h₂ : x ≤ hi) : limit lo hi x = x := by
  unfold limit; omega

/-- A rounded quarter step does not pass what it steps toward (R49). -/
theorem rna_quarter (x : Int) : (0 ≤ x → 0 ≤ rna x 4 ∧ rna x 4 ≤ x) ∧ (x ≤ 0 → x ≤ rna x 4 ∧ rna x 4 ≤ 0) := by
  unfold rna; constructor <;> intro h <;> split <;> omega

/-- The pack estimate stays between its old value and the measurement (R49). -/
theorem newPack_between (p m : Int) : min p m ≤ newPack p m ∧ newPack p m ≤ max p m := by
  have h := rna_quarter (m - p)
  unfold newPack
  rcases le_total p m with hpm | hpm
  · have := h.1 (by omega); omega
  · have := h.2 (by omega); omega

theorem measuredPack_range (w : Reel) (a b : Int) :
    Config.packMin ≤ measuredPack w a b ∧ measuredPack w a b ≤ Config.packMax := by
  unfold measuredPack; exact le_limit (by decide)

theorem newPack_range {p m : Int} (hp : Config.packMin ≤ p ∧ p ≤ Config.packMax)
    (hm : Config.packMin ≤ m ∧ m ≤ Config.packMax) : Config.packMin ≤ newPack p m ∧ newPack p m ≤ Config.packMax := by
  have := newPack_between p m; omega

theorem limitCommand_range (x : Int) : (((limitCommand x).natAbs : Nat) : Int) ≤ Config.reelMax := by
  unfold limitCommand limit; simp only [Config.reelMax]; omega

theorem countOn_range {c : Int} (f : Bool) (h : Config.counterMin ≤ c ∧ c ≤ Config.counterMax) :
    Config.counterMin ≤ countOn c f ∧ countOn c f ≤ Config.counterMax := by
  unfold countOn; simp only [Config.counterMin, Config.counterMax] at *; cases f <;> simp <;> omega

theorem signed_natAbs (f : Bool) (x : Int) : (signed f x).natAbs = x.natAbs := by
  unfold signed; cases f <;> simp

theorem speed_value_le (c : Speed) : c.value.natAbs ≤ 1280 := by cases c <;> decide

/-- A step of Vc stays within the larger of the two magnitudes it lies between (R26). -/
theorem rawStep_bound {vc target a : Int} {b : Nat} (h₁ : vc.natAbs ≤ b) (h₂ : target.natAbs ≤ b) :
    (rawStep vc target a).natAbs ≤ b ∨ a < 0 := by
  unfold rawStep; split <;> [skip; split] <;> omega

/-- Vc stays within 1280 in magnitude (R26). -/
theorem stepVc_bound {vc target a : Int} (hold : Bool) {b : Nat} (ha : 0 ≤ a) (h₁ : vc.natAbs ≤ b)
    (h₂ : target.natAbs ≤ b) : (stepVc vc target a hold).natAbs ≤ b := by
  have h := (rawStep_bound (a := a) h₁ h₂).resolve_right (by omega)
  unfold stepVc
  cases hold <;> simp only [if_true, if_false, Bool.false_eq_true] <;> [exact h; skip]
  split <;> [simp; split] <;> omega

theorem stepFor_nonneg (o : Order) (vc target : Int) : 0 ≤ stepFor o vc target := by
  unfold stepFor; split <;> [decide; split <;> decide]

theorem loopSample_range (n : Nat) : loopSample n ≤ 1023 := by unfold loopSample; omega

end Sys2Proof.Machine
end

