-- ==== Sys2Proof/Laws/Buffer.lean ====
section
/-! SUPPORT. What the shared operations of the Block Buffer make of its slots, in the terms of Safety.lean: the entry to the
cache (R87), a record's release (R86, R89), truncation (R90) and the slots given back at an unload (R91). -/

namespace Sys2Proof.Machine

/-- The slots after a change of each of them are the changed slots, since a slot that is not there reads as a FREE one. -/
theorem slot_mapSlots (f : Slot → Slot) (b : Bbf) (i : Nat) (h : f Slot.freed = Slot.freed) :
    (b.mapSlots f).slot i = f (b.slot i) := by
  simp only [Bbf.mapSlots, Bbf.slot, List.getD_eq_getElem?_getD, List.getElem?_map]
  cases b.slots[i]? <;> simp [h]

/-- A slot other than the one modified stands. -/
theorem slot_modify_ne {i k : Nat} (f : Slot → Slot) (b : Bbf) (h : k ≠ i) : (b.modify k f).slot i = b.slot i := by
  simp [Bbf.modify, Bbf.slot, List.getD_eq_getElem?_getD, List.getElem?_set_ne h]

/-- A freed slot is FREE, whatever its number. -/
theorem slot_free_self (i : Nat) (b : Bbf) : (b.free i).slot i = Slot.freed := by
  simp only [Bbf.free, Bbf.take, Bbf.slot, List.getD_eq_getElem?_getD, List.getElem?_set_self']
  cases b.slots[i]? <;> simp

theorem slot_free_ne {i k : Nat} (b : Bbf) (h : k ≠ i) : (b.free k).slot i = b.slot i := by
  simp [Bbf.free, Bbf.take, Bbf.slot, List.getD_eq_getElem?_getD, List.getElem?_set_ne h]

/-- The entry to the cache (R87). -/
theorem enterCached_enters (i : Nat) (b : Bbf) : b.Enters i (b.enterCached i) := by
  refine ⟨fun hs hp => ?_, fun h => ?_⟩
  · obtain ⟨m, hm⟩ := Option.isSome_iff_exists.mp hs
    have hn : b.cachedSlot m = none :=
      List.find?_eq_none.mpr fun k hk => by
        simpa using fun hb => hp ⟨m, hm, k, hk, hb⟩
    simp [Bbf.enterCached, hm, hn]
  · rcases h with h | ⟨m, hm, k, hk, hb⟩
    · simp [Bbf.enterCached, h, Bbf.free, Bbf.take]
    · have : (b.cachedSlot m).isSome := by
        simpa [Bbf.cachedSlot] using ⟨k, hk, hb⟩
      obtain ⟨y, hy⟩ := Option.isSome_iff_exists.mp this
      simp [Bbf.enterCached, hm, hy, Bbf.free, Bbf.take]

/-- What a record's sending releases (R86, R89). -/
theorem releaseSent_releases (r : Payload) (b : Bbf) : b.Releases r (b.releaseSent r) := by
  cases r with
  | bytes l => rfl
  | delivering i n =>
    refine ⟨fun h => by simp [Bbf.releaseSent, h, Bbf.free, Bbf.take], fun h => ?_⟩
    simpa [Bbf.releaseSent, h] using enterCached_enters i b
  | pinned i n =>
    refine ⟨fun h1 h2 => by simp [Bbf.releaseSent, Bbf.unpin, h1, h2, Bbf.free, Bbf.take], fun h => ?_⟩
    have : ¬ ((b.slot i).pins ≤ 1 ∧ (b.slot i).block = none) := by
      rcases h with h | h
      · omega
      · intro hc; simp [hc.2] at h
    simp [Bbf.releaseSent, Bbf.unpin, this]

/-- The slots that stay on the cache list at a truncation are the CACHED ones below it. -/
theorem truncated_listed (n : Nat) (x : Slot) :
    ((Slot.truncated n x).state = .cached && (Slot.truncated n x).block.isSome)
      = decide (x.state = .cached ∧ x.block.any (fun k => k < n)) := by
  rcases x with ⟨st, ow, bl, le, tg, pi, di, da⟩
  cases bl with
  | none => simp [Slot.truncated]
  | some k =>
    by_cases hk : k < n
    · simp [Slot.truncated, hk]
    · cases st <;> simp [Slot.truncated, hk, Slot.leaveCache]
      by_cases hp : pi = 0 <;> simp [hp, Slot.freed]

/-- Truncation, and then a change of the slot excepted (R90). -/
theorem truncate_truncatedAt (n : Nat) (b : Bbf) : b.TruncatedAt n none (b.truncate n) := by
  have hf : Slot.truncated n Slot.freed = Slot.freed := rfl
  refine ⟨?_, fun i _ => ?_⟩
  · simp only [Bbf.truncate, Bbf.mapSlots, listed]
    refine List.filter_congr fun i _ => ?_
    have h := slot_mapSlots (Slot.truncated n) b i hf
    simp only [Bbf.slot, Bbf.mapSlots] at h
    simp only [h]
    exact (truncated_listed n (b.slot i)).trans (decide_eq_decide.mpr Iff.rfl)
  · have h := slot_mapSlots (Slot.truncated n) b i hf
    simp only [Bbf.truncate, h]
    refine ⟨fun hb => ?_, fun k hk hn => ⟨?_, ?_, ?_, ?_⟩⟩
    · cases hx : (b.slot i).block with
      | none => simp [Slot.truncated, hx]
      | some k => simp [Slot.truncated, hx, hb k hx]
    · intro h1 h2; simp [Slot.truncated, hk, h1, h2, Slot.leaveCache, Nat.not_lt.mpr hn]
    · intro h1 h2; simp [Slot.truncated, hk, h1, Nat.pos_iff_ne_zero.mp h2, Slot.leaveCache, Nat.not_lt.mpr hn]
    · rintro (h1 | h1) <;> simp [Slot.truncated, hk, h1, Nat.not_lt.mpr hn]
    · intro h1; simp at h1; rcases h1 with h1 | h1 | h1 | h1 <;> simp [Slot.truncated, hk, h1]

/-- A change of one slot after a truncation leaves what the truncation did to the others (R90). -/
theorem TruncatedAt_modify {n k : Nat} {b v : Bbf} (f : Slot → Slot) (h : b.TruncatedAt n none v) :
    b.TruncatedAt n (some k) (v.modify k f) := by
  refine ⟨h.1, fun i hi => ?_⟩
  have hk : k ≠ i := fun e => hi (e ▸ rfl)
  simpa [slot_modify_ne f v hk] using h.2 i (by simp)

/-- An operation's slot becomes FREE, and no other slot changes. -/
theorem slot_freeOpt (o : Option Nat) (i : Nat) (b : Bbf) :
    (b.freeOpt o).slot i = if o = some i then Slot.freed else b.slot i := by
  cases o with
  | none => simp [Bbf.freeOpt]
  | some k =>
    by_cases hk : k = i
    · subst hk; simp [Bbf.freeOpt, slot_free_self]
    · simp [Bbf.freeOpt, slot_free_ne b hk, hk]

/-- The slots of operations become FREE, and no others change. -/
theorem freeSlots_slot (l : List Op) (s : State) (i : Nat) :
    (s.freeSlots l).bbf.slot i = if ∃ o ∈ l, o.slot = some i then Slot.freed else s.bbf.slot i := by
  induction l generalizing s with
  | nil => simp [State.freeSlots]
  | cons o l ih =>
    have h := ih (s.onBbf (Bbf.freeOpt o.slot))
    rw [show (s.onBbf (Bbf.freeOpt o.slot)).bbf = s.bbf.freeOpt o.slot from rfl, slot_freeOpt] at h
    refine h.trans ?_
    by_cases h1 : o.slot = some i <;> by_cases h2 : ∃ o ∈ l, o.slot = some i <;> simp [h1, h2]

/-- The cache list is empty after an unload (R91). -/
theorem unload_cache (b : Bbf) : b.unload.cache = [] := by
  simp only [Bbf.unload, Bbf.mapSlots, listed, List.filter_eq_nil_iff]
  intro i _
  have h := slot_mapSlots Slot.unloaded b i rfl
  simp only [Bbf.mapSlots, Bbf.slot] at h
  simp only [h]
  rcases b.slots.getD i Slot.freed with ⟨st, ow, bl, le, tg, pi, di, da⟩
  cases st <;> simp [Slot.unloaded, Slot.leaveCache]
  by_cases hp : pi = 0 <;> simp [hp, Slot.freed]

/-- The slots given back when the operations `lost` are removed and the volume is unloaded (R91). -/
theorem givesBack (lost : List Op) (s : State) : s.bbf.GivesBack lost ((s.freeSlots lost).bbf.unload) := by
  refine ⟨unload_cache _, fun i => ?_⟩
  simp only [Bbf.unload, slot_mapSlots Slot.unloaded _ i rfl, freeSlots_slot lost s i]
  refine ⟨fun h => by rw [if_pos h]; rfl, fun h => ?_⟩
  rw [if_neg (by simpa using h)]
  refine ⟨fun h1 h2 => ?_, fun h1 h2 => ?_, fun h1 => ?_, fun h1 h2 => ?_⟩
  · simp [Slot.unloaded, h1, Slot.leaveCache, h2]
  · simp [Slot.unloaded, h1, Slot.leaveCache, Nat.pos_iff_ne_zero.mp h2]
  · simp [Slot.unloaded, h1]
  · unfold Slot.unloaded
    split <;> simp_all

/-- The events of both ports touch the ports alone (R176). -/
theorem addEvents_fields (k : EventKind) (s : State) :
    (s.addEvents k).dsq = s.dsq ∧ (s.addEvents k).tsv = s.tsv ∧ (s.addEvents k).ope = s.ope ∧ (s.addEvents k).bdr = s.bdr
      ∧ (s.addEvents k).bbf = s.bbf ∧ (s.addEvents k).arb = s.arb := by
  simp only [State.addEvents, State.addEvent, State.onPort]
  split <;> split <;> simp

/-- The writer's release leaves no writer, and frees the slots of the writer's queued writes and no others (R10, R156). -/
theorem releaseForUnload_arb_bbf (s : State) :
    s.releaseForUnload.arb.writer = none
    ∧ s.releaseForUnload.bbf = (s.freeSlots (match s.arb.writer with
        | some p => (s.port p).queue.filter (fun o => o.cmd.isWrite)
        | none => [])).bbf := by
  unfold State.releaseForUnload
  cases hw : s.arb.writer with
  | none => exact ⟨hw, rfl⟩
  | some p =>
    simp only [addEvents_fields]
    exact ⟨rfl, by cases p <;> rfl⟩

/-- What the entry effects of an unload leave (R10, R91). -/
theorem unloadEffects_unloads (s : State) : Unloads s s.unloadEffects := by
  obtain ⟨hw, hb⟩ := releaseForUnload_arb_bbf s
  refine ⟨rfl, hw, rfl, fun p => by cases p <;> exact ⟨rfl, rfl, rfl⟩, ⟨rfl, rfl, rfl⟩, ?_⟩
  have h := givesBack (match s.arb.writer with
    | some p => (s.port p).queue.filter (fun o => o.cmd.isWrite)
    | none => []) s
  rw [← hb] at h
  exact h

end Sys2Proof.Machine
end

