-- ==== Sys2Proof/Laws/Clear.lean ====
section
/-! SUPPORT. What an accepted clear leaves (R71), in the terms of Safety.lean. -/

namespace Sys2Proof.Machine

/-- A port in service by its strap has the kind added (R176). -/
theorem addEvents_pendingEv (k : EventKind) (p : PortId) {s : State} (h : s.enabled p = true) :
    ((s.addEvents k).port p).pendingEv = (s.port p).pendingEv ||| k.bit := by
  cases p <;> simp_all [State.addEvents, State.addEvent, State.enabled, State.onPort, State.port]
  split <;> simp_all

/-- An accepted clear (R71). -/
theorem acceptedClear_resumes (s : State) : Resumes s s.acceptedClear := by
  obtain ⟨hq, hv, he, hd, hb, ha⟩ := addEvents_fields .faultCleared
    ((((s.onDsq Dsq.noFault).onTsv Tsv.clearCounts).onOpe (fun e => { e with failCount := 0 })).resumeAt
      (clearTarget s.dsq.resume s.dsq.faultKind))
  have hp := fun p => addEvents_pendingEv .faultCleared p
    (s := (((s.onDsq Dsq.noFault).onTsv Tsv.clearCounts).onOpe (fun e => { e with failCount := 0 })).resumeAt
      (clearTarget s.dsq.resume s.dsq.faultKind))
  unfold Resumes State.acceptedClear
  dsimp only
  rw [hq, hv, he, hd, hb, ha]
  clear hq hv he hd hb ha
  rcases hr : s.dsq.resume with _ | r
  · by_cases hk : s.dsq.faultKind = some .tach <;>
      simp [hr, hk, clearTarget, State.resumeAt, State.enterReady, State.enterRezero, State.onDsq, State.onTsv, State.onOpe,
        State.onBdr, State.enterDeck, State.setTimer, State.setSearch, State.beginSearch, State.latchTest, Tsv.latchesIn,
        Dsq.enter, Dsq.noFault, Tsv.clearCounts, ReelState.clearSat, Tsv.clearMarkers, Tsv.orderRun, Sighting.fresh,
        Bdr.cleared, signed, Speed.value] at hp ⊢ <;>
      first
      | (simpa [State.enabled, State.port] using hp)
      | (split <;> simp_all [State.enabled, State.port])
  · cases r <;> by_cases hk : s.dsq.faultKind = some .tach <;>
      simp [hr, hk, clearTarget, State.resumeAt, State.enterReady, State.enterRezero, State.enterLoadPointSearch,
        State.enterRewindOut, State.enterWindOff, State.onDsq, State.onTsv, State.onOpe, State.onBdr, State.enterDeck,
        State.setTimer, State.setSearch, State.beginSearch, State.latchTest, Tsv.latchesIn, Dsq.enter, Dsq.noFault,
        Tsv.clearCounts, ReelState.clearSat, Tsv.clearMarkers, Tsv.orderRun, Tsv.orderMove, Tsv.orderMoveAt, Tsv.distance,
        Tsv.setCounter, Tsv.setModes, Tsv.restartBoth, ReelState.restart, ReelState.setMode, Sighting.fresh, Bdr.cleared,
        signed, Speed.value, Config.searchStart] at hp ⊢ <;>
      first
      | (simpa [State.enabled, State.port] using hp)
      | (split <;> simp_all [State.enabled, State.port])

end Sys2Proof.Machine
end

