-- ==== Sys2Proof/Laws/Directory.lean ====
section
/-! SUPPORT. Every operation of the directory keeps what it keeps at all times: entries in order of number and of start,
multiples of the stride, at most 4096, within the known limit and below a known EOD. -/

namespace Sys2Proof.Machine

/-- Two entries in order (R97, R104). -/
abbrev Entry.before (x y : Entry) : Prop := x.num < y.num ∧ x.start < y.start

theorem wf_cleared : Bdr.cleared.wf := by
  simp [Bdr.wf, Bdr.cleared, strides]

/-- An entry put in its place leaves the list in order (R104). -/
theorem placeEntry_sorted (e : Entry) {l : List Entry} (h : l.Pairwise Entry.before) :
    (placeEntry e l).Pairwise Entry.before := by
  unfold placeEntry
  rw [List.pairwise_append, List.pairwise_cons]
  refine ⟨h.filter _, ⟨?_, h.filter _⟩, ?_⟩
  · intro x hx; simpa using (List.mem_filter.1 hx).2
  · intro x hx y hy
    have hx' : x.num < e.num ∧ x.start < e.start := by simpa using (List.mem_filter.1 hx).2
    rcases List.mem_cons.1 hy with rfl | hy
    · exact hx'
    · have hy' : e.num < y.num ∧ e.start < y.start := by simpa using (List.mem_filter.1 hy).2
      exact ⟨by omega, by omega⟩

theorem mem_placeEntry {e x : Entry} {l : List Entry} (h : x ∈ placeEntry e l) : x = e ∨ x ∈ l := by
  unfold placeEntry at h
  simp only [List.mem_append, List.mem_cons, List.mem_filter] at h
  tauto

theorem filter_two_le {α : Type} {p q : α → Bool} (l : List α) (h : ∀ x ∈ l, ¬ (p x = true ∧ q x = true)) :
    (l.filter p).length + (l.filter q).length ≤ l.length := by
  induction l with
  | nil => simp
  | cons x l ih =>
    have ih' := ih (fun y hy => h y (List.mem_cons_of_mem _ hy))
    have hx := h x List.mem_cons_self
    simp only [List.filter_cons]
    split <;> split <;> simp_all <;> omega

theorem length_placeEntry_le (e : Entry) (l : List Entry) : (placeEntry e l).length ≤ l.length + 1 := by
  have := filter_two_le (p := fun x => decide (x.num < e.num) && decide (x.start < e.start))
    (q := fun x => decide (e.num < x.num) && decide (e.start < x.start)) l
    (by intro x _; simp only [Bool.and_eq_true, decide_eq_true_eq]; omega)
  simp only [placeEntry, List.length_append, List.length_cons]
  omega

/-- When an entry of the number was there, no more entries stand than before. -/
theorem length_placeEntry_mem (e : Entry) {l : List Entry} {old : Entry} (ho : old ∈ l) (hn : old.num = e.num) :
    (placeEntry e l).length ≤ l.length := by
  obtain ⟨a, b, rfl⟩ := List.append_of_mem ho
  have ha := filter_two_le (p := fun x => decide (x.num < e.num) && decide (x.start < e.start))
    (q := fun x => decide (e.num < x.num) && decide (e.start < x.start)) a
    (by intro x _; simp only [Bool.and_eq_true, decide_eq_true_eq]; omega)
  have hb := filter_two_le (p := fun x => decide (x.num < e.num) && decide (x.start < e.start))
    (q := fun x => decide (e.num < x.num) && decide (e.start < x.start)) b
    (by intro x _; simp only [Bool.and_eq_true, decide_eq_true_eq]; omega)
  simp only [placeEntry, List.length_append, List.length_cons, List.filter_append, List.filter_cons, hn, lt_irrefl,
    decide_false, Bool.false_and, Bool.false_eq_true, if_false]
  omega

/-- An entry found by number is in the list and has the number. -/
theorem Bdr.entry_some {d : Bdr} {n : Nat} {e : Entry} (h : d.entry n = some e) : e ∈ d.entries ∧ e.num = n :=
  ⟨List.mem_of_find?_eq_some h, by simpa using List.find?_some h⟩

/-- A cut at `b` keeps the order (R108, R109). -/
theorem Bdr.wf.cut {d : Bdr} (h : d.wf) (b : Nat) : (d.cut b).wf := by
  obtain ⟨h₁, h₂, h₃, h₄, h₅, h₆⟩ := h
  refine ⟨h₁.filter _, ?_, ?_, h₄, ?_, ?_⟩
  · intro e he
    have he := List.mem_filter.1 he
    have := h₂ e he.1
    have hb : e.num < b := by simpa using he.2
    refine ⟨this.1, ?_⟩
    simp only [Bdr.cut]; omega
  · exact le_trans (List.length_filter_le _ _) h₃
  · simp only [Bdr.cut]; omega
  · intro e he
    have : e = b := by simpa [Bdr.cut] using he.symm
    subst this; simp only [Bdr.cut]; omega

theorem Bdr.wf.lowerEod {d : Bdr} (h : d.wf) (b : Nat) : (d.lowerEod b).wf := by
  unfold Bdr.lowerEod; split
  · exact h
  · exact h.cut b

/-- Truncation keeps the order (R107). -/
theorem Bdr.wf.truncate {d : Bdr} (h : d.wf) (n : Nat) : (d.truncate n).wf := by
  obtain ⟨h₁, h₂, h₃, h₄, h₅, h₆⟩ := h
  refine ⟨h₁.filter _, ?_, ?_, h₄, ?_, ?_⟩
  · intro e he
    have he := List.mem_filter.1 he
    have := h₂ e he.1
    have hb : e.num < n := by simpa using he.2
    refine ⟨this.1, ?_⟩
    simp only [Bdr.truncate]; omega
  · exact le_trans (List.length_filter_le _ _) h₃
  · simp only [Bdr.truncate]; omega
  · intro e he
    have : e = n + 1 := by simpa [Bdr.truncate] using he.symm
    subst this; simp only [Bdr.truncate]; push_cast; omega

/-- A doubled stride keeps the order and is a stride (R98). -/
theorem Bdr.wf.decimate {d : Bdr} (h : d.wf) : d.decimate.wf := by
  unfold Bdr.decimate
  split
  · rename_i hs
    obtain ⟨h₁, h₂, h₃, h₄, h₅, h₆⟩ := h
    refine ⟨h₁.filter _, ?_, ?_, ?_, h₅, h₆⟩
    · intro e he
      have he := List.mem_filter.1 he
      exact ⟨by simpa using he.2, (h₂ e he.1).2⟩
    · exact le_trans (List.length_filter_le _ _) h₃
    · simp only [strides, List.mem_cons, List.not_mem_nil, or_false, Config.maxStride] at h₄ hs ⊢
      omega
  · exact h

theorem Bdr.decimate_known (d : Bdr) : d.decimate.known = d.known := by unfold Bdr.decimate; split <;> rfl

/-- An addition keeps the order (R98, R102, R104). -/
theorem Bdr.wf.add {d : Bdr} (h : d.wf) {t : Traversal} (hk : (t.num : Int) ≤ d.known) : (d.add t).wf := by
  unfold Bdr.add
  have key : ∀ d : Bdr, d.wf → (t.num : Int) ≤ d.known → t.num % d.stride = 0 → d.entries.length < Config.maxEntries →
      Bdr.wf { d with entries := placeEntry t.entry d.entries } := by
    intro d h hk hs hl
    obtain ⟨h₁, h₂, h₃, h₄, h₅, h₆⟩ := h
    refine ⟨placeEntry_sorted _ h₁, ?_, ?_, h₄, h₅, h₆⟩
    · intro e he
      rcases mem_placeEntry he with rfl | he
      · exact ⟨hs, hk⟩
      · exact h₂ e he
    · have := length_placeEntry_le t.entry d.entries
      simp only; omega
  simp only
  split
  · split
    · rename_i hc
      exact key _ h.decimate (by rw [Bdr.decimate_known]; exact hk) hc.1 hc.2
    · exact h.decimate
  · split
    · rename_i hc
      exact key _ h hk hc.1 hc.2
    · exact h

/-- A map of the entries that keeps number and start keeps the order. -/
theorem pairwise_map_same {f : Entry → Entry} (hn : ∀ x, (f x).num = x.num) (hs : ∀ x, (f x).start = x.start) {l : List Entry}
    (h : l.Pairwise Entry.before) : (l.map f).Pairwise Entry.before := by
  rw [List.pairwise_map]
  exact h.imp (fun {a b} hab => by simpa [Entry.before, hn, hs] using hab)

/-- A traversal report keeps the order (R102 to R104). -/
theorem Bdr.wf.traverse {d : Bdr} (h : d.wf) (t : Traversal) : (d.traverse t).wf := by
  unfold Bdr.traverse
  split
  · rename_i ht
    have htk : ∀ b ∈ d.eod, t.num < b := by
      intro b hb
      simp only [Bdr.takes, Option.mem_def.1 hb, Bool.and_eq_true, decide_eq_true_eq] at ht
      exact ht.1
    have hd : Bdr.wf { d with known := max d.known t.num } := by
      obtain ⟨h₁, h₂, h₃, h₄, h₅, h₆⟩ := h
      refine ⟨h₁, ?_, h₃, h₄, ?_, ?_⟩
      · intro e he; have := h₂ e he; exact ⟨this.1, by simp only; omega⟩
      · simp only; omega
      · intro b hb
        have := h₆ b hb
        have := htk b hb
        simp only; omega
    simp only
    split
    · rename_i old ho
      have hm := Bdr.entry_some ho
      obtain ⟨h₁, h₂, h₃, h₄, h₅, h₆⟩ := hd
      unfold retraverse
      split
      · refine ⟨placeEntry_sorted _ h₁, ?_, ?_, h₄, h₅, h₆⟩
        · intro e he
          rcases mem_placeEntry he with rfl | he
          · have := h₂ old hm.1
            rw [hm.2] at this
            exact this
          · exact h₂ e he
        · exact le_trans (length_placeEntry_mem t.entry hm.1 hm.2) h₃
      · refine ⟨pairwise_map_same ?_ ?_ h₁, ?_, by simpa using h₃, h₄, h₅, h₆⟩
        · intro x; simp only; split
          · rename_i hx; simp [Traversal.entry, hx]
          · rfl
        · intro x; simp only; split <;> rfl
        · intro e he
          obtain ⟨x, hx, rfl⟩ := List.mem_map.1 he
          have := h₂ x hx
          split
          · rename_i hxn; simpa [Traversal.entry, ← hxn] using this
          · exact this
    · split
      · exact hd.add (by simp only; omega)
      · exact hd
  · exact h

end Sys2Proof.Machine
end

