-- ==== Sys2Proof/Laws/State.lean ====
section
/-! SUPPORT. One lemma for each field under each update of the state, so that no later proof unfolds an update. -/

namespace Sys2Proof.Machine

/-! ## `State.onTsv` -/

@[simp] theorem State.onTsv_dsq (f : Tsv → Tsv) (s : State) : (s.onTsv f).dsq = s.dsq := rfl
@[simp] theorem State.onTsv_tsv (f : Tsv → Tsv) (s : State) : (s.onTsv f).tsv = f s.tsv := rfl
@[simp] theorem State.onTsv_ope (f : Tsv → Tsv) (s : State) : (s.onTsv f).ope = s.ope := rfl
@[simp] theorem State.onTsv_arb (f : Tsv → Tsv) (s : State) : (s.onTsv f).arb = s.arb := rfl
@[simp] theorem State.onTsv_bbf (f : Tsv → Tsv) (s : State) : (s.onTsv f).bbf = s.bbf := rfl
@[simp] theorem State.onTsv_bdr (f : Tsv → Tsv) (s : State) : (s.onTsv f).bdr = s.bdr := rfl
@[simp] theorem State.onTsv_portA (f : Tsv → Tsv) (s : State) : (s.onTsv f).portA = s.portA := rfl
@[simp] theorem State.onTsv_portB (f : Tsv → Tsv) (s : State) : (s.onTsv f).portB = s.portB := rfl
@[simp] theorem State.onTsv_inReset (f : Tsv → Tsv) (s : State) : (s.onTsv f).inReset = s.inReset := rfl
@[simp] theorem State.onTsv_draws (f : Tsv → Tsv) (s : State) : (s.onTsv f).draws = s.draws := rfl
@[simp] theorem State.onTsv_pending (f : Tsv → Tsv) (s : State) : (s.onTsv f).pending = s.pending := rfl

@[simp] theorem State.onTsv_port (f : Tsv → Tsv) (s : State) (p : PortId) : (s.onTsv f).port p = s.port p := by
  cases p <;> rfl

/-! ## `State.onDsq` -/

@[simp] theorem State.onDsq_dsq (f : Dsq → Dsq) (s : State) : (s.onDsq f).dsq = f s.dsq := rfl
@[simp] theorem State.onDsq_tsv (f : Dsq → Dsq) (s : State) : (s.onDsq f).tsv = s.tsv := rfl
@[simp] theorem State.onDsq_ope (f : Dsq → Dsq) (s : State) : (s.onDsq f).ope = s.ope := rfl
@[simp] theorem State.onDsq_arb (f : Dsq → Dsq) (s : State) : (s.onDsq f).arb = s.arb := rfl
@[simp] theorem State.onDsq_bbf (f : Dsq → Dsq) (s : State) : (s.onDsq f).bbf = s.bbf := rfl
@[simp] theorem State.onDsq_bdr (f : Dsq → Dsq) (s : State) : (s.onDsq f).bdr = s.bdr := rfl
@[simp] theorem State.onDsq_portA (f : Dsq → Dsq) (s : State) : (s.onDsq f).portA = s.portA := rfl
@[simp] theorem State.onDsq_portB (f : Dsq → Dsq) (s : State) : (s.onDsq f).portB = s.portB := rfl
@[simp] theorem State.onDsq_inReset (f : Dsq → Dsq) (s : State) : (s.onDsq f).inReset = s.inReset := rfl
@[simp] theorem State.onDsq_draws (f : Dsq → Dsq) (s : State) : (s.onDsq f).draws = s.draws := rfl
@[simp] theorem State.onDsq_pending (f : Dsq → Dsq) (s : State) : (s.onDsq f).pending = s.pending := rfl

@[simp] theorem State.onDsq_port (f : Dsq → Dsq) (s : State) (p : PortId) : (s.onDsq f).port p = s.port p := by
  cases p <;> rfl

/-! ## `State.onOpe` -/

@[simp] theorem State.onOpe_dsq (f : Ope → Ope) (s : State) : (s.onOpe f).dsq = s.dsq := rfl
@[simp] theorem State.onOpe_tsv (f : Ope → Ope) (s : State) : (s.onOpe f).tsv = s.tsv := rfl
@[simp] theorem State.onOpe_ope (f : Ope → Ope) (s : State) : (s.onOpe f).ope = f s.ope := rfl
@[simp] theorem State.onOpe_arb (f : Ope → Ope) (s : State) : (s.onOpe f).arb = s.arb := rfl
@[simp] theorem State.onOpe_bbf (f : Ope → Ope) (s : State) : (s.onOpe f).bbf = s.bbf := rfl
@[simp] theorem State.onOpe_bdr (f : Ope → Ope) (s : State) : (s.onOpe f).bdr = s.bdr := rfl
@[simp] theorem State.onOpe_portA (f : Ope → Ope) (s : State) : (s.onOpe f).portA = s.portA := rfl
@[simp] theorem State.onOpe_portB (f : Ope → Ope) (s : State) : (s.onOpe f).portB = s.portB := rfl
@[simp] theorem State.onOpe_inReset (f : Ope → Ope) (s : State) : (s.onOpe f).inReset = s.inReset := rfl
@[simp] theorem State.onOpe_draws (f : Ope → Ope) (s : State) : (s.onOpe f).draws = s.draws := rfl
@[simp] theorem State.onOpe_pending (f : Ope → Ope) (s : State) : (s.onOpe f).pending = s.pending := rfl

@[simp] theorem State.onOpe_port (f : Ope → Ope) (s : State) (p : PortId) : (s.onOpe f).port p = s.port p := by
  cases p <;> rfl

/-! ## `State.onBbf` -/

@[simp] theorem State.onBbf_dsq (f : Bbf → Bbf) (s : State) : (s.onBbf f).dsq = s.dsq := rfl
@[simp] theorem State.onBbf_tsv (f : Bbf → Bbf) (s : State) : (s.onBbf f).tsv = s.tsv := rfl
@[simp] theorem State.onBbf_ope (f : Bbf → Bbf) (s : State) : (s.onBbf f).ope = s.ope := rfl
@[simp] theorem State.onBbf_arb (f : Bbf → Bbf) (s : State) : (s.onBbf f).arb = s.arb := rfl
@[simp] theorem State.onBbf_bbf (f : Bbf → Bbf) (s : State) : (s.onBbf f).bbf = f s.bbf := rfl
@[simp] theorem State.onBbf_bdr (f : Bbf → Bbf) (s : State) : (s.onBbf f).bdr = s.bdr := rfl
@[simp] theorem State.onBbf_portA (f : Bbf → Bbf) (s : State) : (s.onBbf f).portA = s.portA := rfl
@[simp] theorem State.onBbf_portB (f : Bbf → Bbf) (s : State) : (s.onBbf f).portB = s.portB := rfl
@[simp] theorem State.onBbf_inReset (f : Bbf → Bbf) (s : State) : (s.onBbf f).inReset = s.inReset := rfl
@[simp] theorem State.onBbf_draws (f : Bbf → Bbf) (s : State) : (s.onBbf f).draws = s.draws := rfl
@[simp] theorem State.onBbf_pending (f : Bbf → Bbf) (s : State) : (s.onBbf f).pending = s.pending := rfl

@[simp] theorem State.onBbf_port (f : Bbf → Bbf) (s : State) (p : PortId) : (s.onBbf f).port p = s.port p := by
  cases p <;> rfl

/-! ## `State.onBdr` -/

@[simp] theorem State.onBdr_dsq (f : Bdr → Bdr) (s : State) : (s.onBdr f).dsq = s.dsq := rfl
@[simp] theorem State.onBdr_tsv (f : Bdr → Bdr) (s : State) : (s.onBdr f).tsv = s.tsv := rfl
@[simp] theorem State.onBdr_ope (f : Bdr → Bdr) (s : State) : (s.onBdr f).ope = s.ope := rfl
@[simp] theorem State.onBdr_arb (f : Bdr → Bdr) (s : State) : (s.onBdr f).arb = s.arb := rfl
@[simp] theorem State.onBdr_bbf (f : Bdr → Bdr) (s : State) : (s.onBdr f).bbf = s.bbf := rfl
@[simp] theorem State.onBdr_bdr (f : Bdr → Bdr) (s : State) : (s.onBdr f).bdr = f s.bdr := rfl
@[simp] theorem State.onBdr_portA (f : Bdr → Bdr) (s : State) : (s.onBdr f).portA = s.portA := rfl
@[simp] theorem State.onBdr_portB (f : Bdr → Bdr) (s : State) : (s.onBdr f).portB = s.portB := rfl
@[simp] theorem State.onBdr_inReset (f : Bdr → Bdr) (s : State) : (s.onBdr f).inReset = s.inReset := rfl
@[simp] theorem State.onBdr_draws (f : Bdr → Bdr) (s : State) : (s.onBdr f).draws = s.draws := rfl
@[simp] theorem State.onBdr_pending (f : Bdr → Bdr) (s : State) : (s.onBdr f).pending = s.pending := rfl

@[simp] theorem State.onBdr_port (f : Bdr → Bdr) (s : State) (p : PortId) : (s.onBdr f).port p = s.port p := by
  cases p <;> rfl

/-! ## `State.onArb` -/

@[simp] theorem State.onArb_dsq (f : Arb → Arb) (s : State) : (s.onArb f).dsq = s.dsq := rfl
@[simp] theorem State.onArb_tsv (f : Arb → Arb) (s : State) : (s.onArb f).tsv = s.tsv := rfl
@[simp] theorem State.onArb_ope (f : Arb → Arb) (s : State) : (s.onArb f).ope = s.ope := rfl
@[simp] theorem State.onArb_arb (f : Arb → Arb) (s : State) : (s.onArb f).arb = f s.arb := rfl
@[simp] theorem State.onArb_bbf (f : Arb → Arb) (s : State) : (s.onArb f).bbf = s.bbf := rfl
@[simp] theorem State.onArb_bdr (f : Arb → Arb) (s : State) : (s.onArb f).bdr = s.bdr := rfl
@[simp] theorem State.onArb_portA (f : Arb → Arb) (s : State) : (s.onArb f).portA = s.portA := rfl
@[simp] theorem State.onArb_portB (f : Arb → Arb) (s : State) : (s.onArb f).portB = s.portB := rfl
@[simp] theorem State.onArb_inReset (f : Arb → Arb) (s : State) : (s.onArb f).inReset = s.inReset := rfl
@[simp] theorem State.onArb_draws (f : Arb → Arb) (s : State) : (s.onArb f).draws = s.draws := rfl
@[simp] theorem State.onArb_pending (f : Arb → Arb) (s : State) : (s.onArb f).pending = s.pending := rfl

@[simp] theorem State.onArb_port (f : Arb → Arb) (s : State) (p : PortId) : (s.onArb f).port p = s.port p := by
  cases p <;> rfl

/-! ## `State.onPort` -/

@[simp] theorem State.onPort_dsq (p : PortId) (f : Port → Port) (s : State) : (s.onPort p f).dsq = s.dsq := by
  cases p <;> rfl

@[simp] theorem State.onPort_tsv (p : PortId) (f : Port → Port) (s : State) : (s.onPort p f).tsv = s.tsv := by
  cases p <;> rfl

@[simp] theorem State.onPort_ope (p : PortId) (f : Port → Port) (s : State) : (s.onPort p f).ope = s.ope := by
  cases p <;> rfl

@[simp] theorem State.onPort_arb (p : PortId) (f : Port → Port) (s : State) : (s.onPort p f).arb = s.arb := by
  cases p <;> rfl

@[simp] theorem State.onPort_bbf (p : PortId) (f : Port → Port) (s : State) : (s.onPort p f).bbf = s.bbf := by
  cases p <;> rfl

@[simp] theorem State.onPort_bdr (p : PortId) (f : Port → Port) (s : State) : (s.onPort p f).bdr = s.bdr := by
  cases p <;> rfl

@[simp] theorem State.onPort_inReset (p : PortId) (f : Port → Port) (s : State) : (s.onPort p f).inReset = s.inReset := by
  cases p <;> rfl

@[simp] theorem State.onPort_draws (p : PortId) (f : Port → Port) (s : State) : (s.onPort p f).draws = s.draws := by
  cases p <;> rfl

@[simp] theorem State.onPort_pending (p : PortId) (f : Port → Port) (s : State) : (s.onPort p f).pending = s.pending := by
  cases p <;> rfl

@[simp] theorem PortId.other_ne (p : PortId) : p.other ≠ p := by cases p <;> decide

@[simp] theorem PortId.ne_other (p : PortId) : p ≠ p.other := by cases p <;> decide

@[simp] theorem PortId.other_other (p : PortId) : p.other.other = p := by cases p <;> rfl

theorem PortId.eq_or_other (p q : PortId) : q = p ∨ q = p.other := by cases p <;> cases q <;> decide

@[simp] theorem State.onPort_port (p : PortId) (f : Port → Port) (s : State) : (s.onPort p f).port p = f (s.port p) := by
  cases p <;> rfl

@[simp] theorem State.onPort_port_other (p : PortId) (f : Port → Port) (s : State) :
    (s.onPort p f).port p.other = s.port p.other := by
  cases p <;> rfl

/-- A port after a change at a port, by whether it is that port. -/
theorem State.onPort_port_eq (p q : PortId) (f : Port → Port) (s : State) :
    (s.onPort p f).port q = if q = p then f (s.port q) else s.port q := by
  cases p <;> cases q <;> rfl

@[simp] theorem State.onPort_enabled (p q : PortId) (f : Port → Port) (s : State) :
    (s.onPort p f).enabled q = s.enabled q := by
  cases p <;> cases q <;> rfl



/-! ## `State.drawn` -/

@[simp] theorem State.drawn_dsq (n : Nat) (s : State) : (s.drawn n).dsq = s.dsq := rfl
@[simp] theorem State.drawn_tsv (n : Nat) (s : State) : (s.drawn n).tsv = s.tsv := rfl
@[simp] theorem State.drawn_ope (n : Nat) (s : State) : (s.drawn n).ope = s.ope := rfl
@[simp] theorem State.drawn_arb (n : Nat) (s : State) : (s.drawn n).arb = s.arb := rfl
@[simp] theorem State.drawn_bbf (n : Nat) (s : State) : (s.drawn n).bbf = s.bbf := rfl
@[simp] theorem State.drawn_bdr (n : Nat) (s : State) : (s.drawn n).bdr = s.bdr := rfl
@[simp] theorem State.drawn_portA (n : Nat) (s : State) : (s.drawn n).portA = s.portA := rfl
@[simp] theorem State.drawn_portB (n : Nat) (s : State) : (s.drawn n).portB = s.portB := rfl
@[simp] theorem State.drawn_inReset (n : Nat) (s : State) : (s.drawn n).inReset = s.inReset := rfl
@[simp] theorem State.drawn_draws (n : Nat) (s : State) : (s.drawn n).draws = s.draws + n := rfl
@[simp] theorem State.drawn_pending (n : Nat) (s : State) : (s.drawn n).pending = s.pending := rfl

@[simp] theorem State.drawn_port (n : Nat) (s : State) (p : PortId) : (s.drawn n).port p = s.port p := by
  cases p <;> rfl

@[simp] theorem State.set_pending_port (x : List Instr) (s : State) (p : PortId) : ({ s with pending := x } : State).port p = s.port p := by
  cases p <;> rfl

end Sys2Proof.Machine
end

