-- ==== Sys2Proof/Laws/Shared.lean ====
section
/-! SUPPORT. Every shared operation keeps what the ports, the buffer and the arbiter share: one lemma for each, in the order
of the files of Machine. -/

namespace Sys2Proof.Machine

/-! ## The buffer alone -/

/-- The buffer's part of `SharedOk`. -/
structure BufOk (b : Bbf) : Prop where
  slots : b.slots.length = 16
  owner : ∀ x ∈ b.slots, x.state.isHeld = false → x.owner = none
  cache : b.cache.Nodup

/-- A change of the buffer that keeps its part and raises no port's slots-held count. -/
def Bbf.Keeps (f : Bbf → Bbf) : Prop := ∀ b, BufOk b → BufOk (f b) ∧ ∀ p, (f b).held p ≤ b.held p

/-- A change of a slot that leaves an owner to a held slot alone and gives no port a slot. -/
def Slot.Keeps (f : Slot → Slot) : Prop :=
  ∀ x : Slot, (x.state.isHeld = false → x.owner = none) →
    ((f x).state.isHeld = false → (f x).owner = none) ∧ ∀ p, (f x).heldBy p = true → x.heldBy p = true

theorem Slot.keeps_of_state {f : Slot → Slot} (hs : ∀ x, (f x).state.isHeld = x.state.isHeld)
    (ho : ∀ x, (f x).owner = x.owner) : Slot.Keeps f := by
  intro x hx
  simp only [hs, ho, Slot.heldBy]
  exact ⟨hx, fun _ h => h⟩

theorem Slot.keeps_of_held {f : Slot → Slot} (hs : ∀ x, (f x).state.isHeld = true) (ho : ∀ x, (f x).owner = x.owner) :
    Slot.Keeps f := by
  intro x hx
  simp only [hs, ho, Slot.heldBy, Bool.true_and, decide_eq_true_eq, Bool.and_eq_true]
  refine ⟨by simp, fun p hp => ⟨?_, hp⟩⟩
  by_contra hn
  rw [hx (by simpa using hn)] at hp
  cases hp

theorem Slot.keeps_of_unheld {f : Slot → Slot} (hs : ∀ x, (f x).state.isHeld = false) (ho : ∀ x, (f x).owner = none) :
    Slot.Keeps f := by
  intro x _
  simp [hs, ho, Slot.heldBy]

theorem Bbf.slot_mem {b : Bbf} {i : Nat} (h : i < b.slots.length) : b.slot i ∈ b.slots := by
  simp [Bbf.slot, List.getD, List.getElem?_eq_getElem h]

theorem Bbf.slot_eq {b : Bbf} {i : Nat} (h : i < b.slots.length) : b.slot i = b.slots[i] := by
  simp [Bbf.slot, List.getD, List.getElem?_eq_getElem h]

/-- One slot replaced: the count of slots held moves by that slot alone. -/
theorem Bbf.held_set {b : Bbf} {i : Nat} (h : i < b.slots.length) (y : Slot) (c : List Nat) (p : PortId) :
    ({ slots := b.slots.set i y, cache := c } : Bbf).held p
      = b.held p - (if (b.slot i).heldBy p then 1 else 0) + (if y.heldBy p then 1 else 0) := by
  unfold Bbf.held
  dsimp only
  rw [List.countP_set h, Bbf.slot_eq h]

theorem BufOk.set {b : Bbf} (h : BufOk b) (i : Nat) {y : Slot} (hy : y.state.isHeld = false → y.owner = none)
    {c : List Nat} (hc : c.Nodup) : BufOk { slots := b.slots.set i y, cache := c } := by
  refine ⟨by simp [h.slots], ?_, hc⟩
  intro x hx
  rcases List.mem_or_eq_of_mem_set hx with hx | rfl
  · exact h.owner x hx
  · exact hy

theorem Bbf.keeps_set {f : Slot → Slot} (hf : Slot.Keeps f) (i : Nat) {c : Bbf → List Nat}
    (hc : ∀ b, BufOk b → (c b).Nodup) :
    Bbf.Keeps (fun b => { slots := b.slots.set i (f (b.slot i)), cache := c b }) := by
  intro b h
  by_cases hi : i < b.slots.length
  · have hs := hf (b.slot i) (h.owner _ (Bbf.slot_mem hi))
    refine ⟨h.set i hs.1 (hc b h), fun p => ?_⟩
    rw [Bbf.held_set hi]
    have := hs.2 p
    have hpos : (b.slot i).heldBy p = true → 0 < b.held p := fun hh =>
      List.countP_pos_iff.2 ⟨_, Bbf.slot_mem hi, hh⟩
    split <;> split <;> simp_all
  · dsimp only
    rw [List.set_eq_of_length_le (Nat.not_lt.1 hi)]
    exact ⟨⟨h.slots, h.owner, hc b h⟩, fun _ => Nat.le_refl _⟩

theorem Bbf.keeps_modify {f : Slot → Slot} (hf : Slot.Keeps f) (i : Nat) : Bbf.Keeps (Bbf.modify i f) :=
  Bbf.keeps_set hf i fun _ h => h.cache

theorem nodup_moved {l : List Nat} (h : l.Nodup) (i : Nat) : (l.filter (· ≠ i) ++ [i]).Nodup := by
  rw [List.nodup_append]
  refine ⟨h.filter _, List.nodup_singleton i, ?_⟩
  intro a ha b hb
  have := (List.mem_filter.1 ha).2
  simp only [List.mem_singleton] at hb
  subst hb
  simpa using this

theorem Bbf.keeps_free (i : Nat) : Bbf.Keeps (Bbf.free i) :=
  Bbf.keeps_set (f := fun _ => Slot.freed) (Slot.keeps_of_unheld (fun _ => rfl) (fun _ => rfl)) i
    fun _ h => h.cache.filter _

theorem Bbf.keeps_id : Bbf.Keeps (fun b => b) := fun _ h => ⟨h, fun _ => Nat.le_refl _⟩

theorem Bbf.keeps_freeOpt (i : Option Nat) : Bbf.Keeps (Bbf.freeOpt i) := by
  cases i
  · exact Bbf.keeps_id
  · exact Bbf.keeps_free _

theorem Bbf.keeps_enterCached (i : Nat) : Bbf.Keeps (Bbf.enterCached i) := by
  intro b h
  unfold Bbf.enterCached
  split
  · exact Bbf.keeps_free i b h
  · split
    · exact Bbf.keeps_free i b h
    · exact Bbf.keeps_set (f := fun x => { x with state := .cached, owner := none, tag := 0, pins := 0, discard := false })
        (Slot.keeps_of_unheld (fun _ => rfl) (fun _ => rfl)) i (c := fun b => b.cache.filter (· ≠ i) ++ [i])
        (fun _ h => nodup_moved h.cache i) b h

theorem Bbf.keeps_hit (i : Nat) : Bbf.Keeps (Bbf.hit i) :=
  Bbf.keeps_set (f := fun x => { x with pins := x.pins + 1 }) (Slot.keeps_of_state (fun _ => rfl) (fun _ => rfl)) i
    (c := fun b => b.cache.filter (· ≠ i) ++ [i]) (fun _ h => nodup_moved h.cache i)

theorem Bbf.keeps_unpin (i : Nat) : Bbf.Keeps (Bbf.unpin i) := by
  intro b h
  unfold Bbf.unpin
  dsimp only
  split
  · exact Bbf.keeps_free i b h
  · exact Bbf.keeps_set (f := fun x => { x with pins := x.pins - 1 }) (Slot.keeps_of_state (fun _ => rfl) (fun _ => rfl)) i
      (c := fun b => b.cache) (fun _ h => h.cache) b h

theorem Bbf.keeps_mapSlots {f : Slot → Slot} (hf : Slot.Keeps f) : Bbf.Keeps (Bbf.mapSlots f) := by
  intro b h
  refine ⟨⟨by simp [Bbf.mapSlots, h.slots], ?_, h.cache.filter _⟩, fun p => ?_⟩
  · intro x hx
    obtain ⟨y, hy, rfl⟩ := List.mem_map.1 hx
    exact (hf y (h.owner y hy)).1
  · unfold Bbf.held Bbf.mapSlots
    rw [List.countP_map]
    exact List.countP_mono_left fun y hy hh => (hf y (h.owner y hy)).2 p hh

theorem Slot.keeps_leave (x : Slot) (hx : x.state.isHeld = false → x.owner = none) :
    (x.leaveCache.state.isHeld = false → x.leaveCache.owner = none) ∧
      ∀ p, x.leaveCache.heldBy p = true → x.heldBy p = true := by
  unfold Slot.leaveCache
  split
  · simp [Slot.freed, Slot.heldBy, SlotState.isHeld]
  · exact ⟨hx, fun _ h => h⟩

theorem Slot.keeps_truncated (n : Nat) : Slot.Keeps (Slot.truncated n) := by
  intro x hx
  unfold Slot.truncated
  split
  · exact ⟨hx, fun _ h => h⟩
  · split
    · exact ⟨hx, fun _ h => h⟩
    · split
      · exact Slot.keeps_leave x hx
      all_goals exact ⟨hx, fun _ h => h⟩

theorem Slot.keeps_unloaded : Slot.Keeps Slot.unloaded := by
  intro x hx
  unfold Slot.unloaded
  split
  · exact Slot.keeps_leave x hx
  all_goals exact ⟨hx, fun _ h => h⟩

theorem Slot.keeps_portReset (p : PortId) : Slot.Keeps (Slot.portReset p) := by
  intro x hx
  unfold Slot.portReset
  split
  · split
    all_goals first
      | exact ⟨hx, fun _ h => h⟩
      | exact ⟨fun _ => rfl, fun _ h => by simp [Slot.freed, Slot.heldBy, SlotState.isHeld] at h⟩
  · exact ⟨hx, fun _ h => h⟩

theorem Bbf.Keeps.comp {f g : Bbf → Bbf} (hf : Bbf.Keeps f) (hg : Bbf.Keeps g) : Bbf.Keeps (fun b => f (g b)) := by
  intro b h
  have h₁ := hg b h
  have h₂ := hf _ h₁.1
  exact ⟨h₂.1, fun p => (h₂.2 p).trans (h₁.2 p)⟩

theorem Bbf.keeps_releaseSent (x : Payload) : Bbf.Keeps (Bbf.releaseSent x) := by
  intro b h
  unfold Bbf.releaseSent
  split
  · exact Bbf.keeps_id b h
  · split
    · exact Bbf.keeps_free _ b h
    · exact Bbf.keeps_enterCached _ b h
  · exact Bbf.keeps_unpin _ b h

theorem Bbf.keeps_releaseDiscarded (x : Payload) : Bbf.Keeps (Bbf.releaseDiscarded x) := by
  intro b h
  unfold Bbf.releaseDiscarded
  split
  · exact Bbf.keeps_id b h
  · exact Bbf.keeps_id b h
  · exact Bbf.keeps_unpin _ b h

theorem Bbf.keeps_releaseAll (l : List Rec) :
    Bbf.Keeps (fun b => l.foldl (fun b r => b.releaseDiscarded r.payload) b) := by
  induction l with
  | nil => exact Bbf.keeps_id
  | cons r l ih => exact ih.comp (Bbf.keeps_releaseDiscarded r.payload)

/-- A slot that is given to a port: its slots-held count rises by one at most, the other port's does not. -/
theorem Bbf.take_held {b : Bbf} (h : BufOk b) (i : Nat) {y : Slot} (p : PortId) (hy : y.state.isHeld = true)
    (ho : y.owner = some p) :
    BufOk (b.take i y) ∧ (b.take i y).held p ≤ b.held p + 1 ∧ ∀ q, q ≠ p → (b.take i y).held q ≤ b.held q := by
  refine ⟨h.set i (by simp [hy]) (h.cache.filter _), ?_⟩
  unfold Bbf.take
  by_cases hi : i < b.slots.length
  · refine ⟨?_, fun q hq => ?_⟩
    · rw [Bbf.held_set hi]; split <;> split <;> omega
    · rw [Bbf.held_set hi]
      have : y.heldBy q = false := by
        simp only [Slot.heldBy, ho, hy, Bool.true_and, decide_eq_false_iff_not]
        intro h; exact hq (Option.some.inj h).symm
      rw [this]; simp
  · rw [List.set_eq_of_length_le (Nat.not_lt.1 hi)]
    exact ⟨Nat.le_succ _, fun _ _ => Nat.le_refl _⟩

/-! ## Updates of the state -/

theorem SharedOk.buf {s : State} (h : SharedOk s) : BufOk s.bbf := ⟨h.slots, h.owner, h.cache⟩

/-- What `SharedOk` reads of a state. -/
theorem SharedOk.of {s t : State} (h : SharedOk s) (hp : ∀ p, PortOk t.bdr (t.port p)) (hb : BufOk t.bbf)
    (hc : ∀ p, t.charge p ≤ s.charge p) (ha : t.arb.chainRun ≤ Config.maxChain) : SharedOk t :=
  { port := hp, slots := hb.slots, owner := hb.owner, cache := hb.cache, charge := fun p => (hc p).trans (h.charge p)
    chain := ha }

theorem SharedOk.onTsv {s : State} (h : SharedOk s) (f : Tsv → Tsv) : SharedOk (s.onTsv f) :=
  h.of (by simpa using h.port) h.buf (by simp [State.charge]) h.chain

theorem SharedOk.onDsq {s : State} (h : SharedOk s) (f : Dsq → Dsq) : SharedOk (s.onDsq f) :=
  h.of (by simpa using h.port) h.buf (by simp [State.charge]) h.chain

theorem SharedOk.onOpe {s : State} (h : SharedOk s) (f : Ope → Ope) : SharedOk (s.onOpe f) :=
  h.of (by simpa using h.port) h.buf (by simp [State.charge]) h.chain

theorem SharedOk.drawn {s : State} (h : SharedOk s) (n : Nat) : SharedOk (s.drawn n) :=
  h.of (fun p => by cases p; exact h.port .a; exact h.port .b) h.buf (fun p => by cases p <;> exact Nat.le_refl _) h.chain

theorem SharedOk.onArb {s : State} (h : SharedOk s) (f : Arb → Arb) (hf : (f s.arb).chainRun ≤ Config.maxChain) :
    SharedOk (s.onArb f) :=
  h.of (fun p => by cases p; exact h.port .a; exact h.port .b) h.buf (fun p => by cases p <;> exact Nat.le_refl _) hf

theorem SharedOk.setWriter {s : State} (h : SharedOk s) (w : Option PortId) : SharedOk (s.onArb (Arb.setWriter w)) :=
  h.onArb _ h.chain

theorem SharedOk.dropPermit {s : State} (h : SharedOk s) : SharedOk (s.onArb Arb.dropPermit) :=
  h.onArb _ (Nat.zero_le _)

theorem SharedOk.onBbf {s : State} (h : SharedOk s) {f : Bbf → Bbf} (hf : Bbf.Keeps f) : SharedOk (s.onBbf f) := by
  have hb := hf s.bbf h.buf
  refine h.of (by simpa using h.port) hb.1 (fun p => ?_) h.chain
  have := hb.2 p
  simp only [State.charge, State.onBbf_bbf, State.onBbf_port]
  omega

/-- A change of a port that leaves its number and marks, lengthens no queue and places no pin. -/
def Port.Sub (q q' : Port) : Prop :=
  q'.queue.length ≤ q.queue.length ∧ q'.marks = q.marks ∧ q'.next = q.next
    ∧ q'.status.countP Rec.pinsSlot ≤ q.status.countP Rec.pinsSlot

theorem SharedOk.onPort' {s : State} (h : SharedOk s) (p : PortId) {f : Port → Port}
    (hq : PortOk s.bdr (f (s.port p)))
    (hn : (f (s.port p)).status.countP Rec.pinsSlot ≤ (s.port p).status.countP Rec.pinsSlot) : SharedOk (s.onPort p f) := by
  refine h.of (fun q => ?_) (by cases p <;> exact h.buf) (fun q => ?_) (by cases p <;> exact h.chain)
  · cases p <;> cases q
    · exact hq
    · exact h.port .b
    · exact h.port .a
    · exact hq
  · have hb : (s.onPort p f).bbf = s.bbf := by cases p <;> rfl
    simp only [State.charge, hb]
    cases p <;> cases q
    · exact Nat.add_le_add_left hn _
    · exact Nat.le_refl _
    · exact Nat.le_refl _
    · exact Nat.add_le_add_left hn _

theorem SharedOk.onPort {s : State} (h : SharedOk s) (p : PortId) {f : Port → Port} (hf : ∀ q, Port.Sub q (f q)) :
    SharedOk (s.onPort p f) := by
  have hp := h.port p
  obtain ⟨h₁, h₂, h₃, h₄⟩ := hf (s.port p)
  exact h.onPort' p
    { queue := h₁.trans hp.queue, marks := by rw [h₂]; exact hp.marks, next := by rw [h₃]; exact hp.next
      marksIn := by rw [h₂]; exact hp.marksIn } h₄

theorem Port.sub_refl {q q' : Port} (h₁ : q'.queue.length ≤ q.queue.length) (h₂ : q'.marks = q.marks)
    (h₃ : q'.next = q.next) (h₄ : q'.status.countP Rec.pinsSlot ≤ q.status.countP Rec.pinsSlot) : Port.Sub q q' :=
  ⟨h₁, h₂, h₃, h₄⟩

theorem owedRecs_pins (c : Code) (d : Op → Nat) (l : List Op) : (owedRecs c d l).countP Rec.pinsSlot = 0 := by
  simp [owedRecs, List.countP_map, List.countP_eq_zero, Rec.pinsSlot, opRec, completeRec]

/-! ## The directory and the EOD bound -/

/-- `SharedOk` but for the EOD bound. -/
structure SharedPre (s : State) : Prop where
  queue : ∀ p, (s.port p).queue.length ≤ Config.maxOps
  marks : ∀ p, (s.port p).marks.length ≤ Config.maxMarks
  buf : BufOk s.bbf
  charge : ∀ p, s.charge p ≤ Config.maxCharge
  chain : s.arb.chainRun ≤ Config.maxChain

theorem SharedOk.pre {s : State} (h : SharedOk s) : SharedPre s :=
  ⟨fun p => (h.port p).queue, fun p => (h.port p).marks, h.buf, h.charge, h.chain⟩

theorem SharedPre.onBdr {s : State} (h : SharedPre s) (f : Bdr → Bdr) : SharedPre (s.onBdr f) :=
  ⟨fun p => by simpa using h.queue p, fun p => by simpa using h.marks p, h.buf, fun p => by simpa [State.charge] using h.charge p,
    h.chain⟩

theorem SharedPre.onPort {s : State} (h : SharedPre s) (p : PortId) {f : Port → Port}
    (hq : ∀ q, (f q).queue = q.queue ∧ (f q).marks.length = q.marks.length ∧ (f q).status = q.status) :
    SharedPre (s.onPort p f) := by
  refine ⟨fun q => ?_, fun q => ?_, by cases p <;> exact h.buf, fun q => ?_, by cases p <;> exact h.chain⟩
  · cases p <;> cases q
    · exact ((congrArg List.length (hq s.portA).1).le).trans (h.queue .a)
    · exact h.queue .b
    · exact h.queue .a
    · exact ((congrArg List.length (hq s.portB).1).le).trans (h.queue .b)
  · cases p <;> cases q
    · exact ((hq s.portA).2.1.le).trans (h.marks .a)
    · exact h.marks .b
    · exact h.marks .a
    · exact ((hq s.portB).2.1.le).trans (h.marks .b)
  · have hb : (s.onPort p f).bbf = s.bbf := by cases p <;> rfl
    have hc := h.charge q
    simp only [State.charge, hb] at hc ⊢
    cases p <;> cases q
    · simpa [State.port, State.onPort, (hq s.portA).2.2] using hc
    · exact hc
    · exact hc
    · simpa [State.port, State.onPort, (hq s.portB).2.2] using hc

theorem SharedPre.setNext {s : State} (h : SharedPre s) (p : PortId) (n : Nat) : SharedPre (s.setNext p n) :=
  h.onPort p fun _ => ⟨rfl, rfl, rfl⟩

theorem bound_idem (d : Bdr) (n : Nat) : d.bound (d.bound n) = d.bound n := by
  unfold Bdr.bound
  split <;> simp

theorem map_bound_idem (d : Bdr) (l : List Nat) : (l.map d.bound).map d.bound = l.map d.bound := by
  simp [bound_idem]

theorem addEvent_eq (k : EventKind) (p : PortId) (s : State) :
    ∃ v, s.addEvent k p = s.onPort p (fun q => { q with pendingEv := v }) := by
  unfold State.addEvent
  split
  · exact ⟨(s.port p).pendingEv ||| k.bit, by cases p <;> rfl⟩
  · exact ⟨(s.port p).pendingEv, by cases p <;> rfl⟩

/-- The EOD bound brings both ports within a known EOD (R161). -/
theorem SharedPre.boundPorts {s : State} (h : SharedPre s) : SharedOk s.boundPorts := by
  have key : ∀ (p : PortId) (s : State), ∃ v, s.boundPort p =
      s.onPort p (fun q => { q with next := s.bdr.bound q.next, marks := q.marks.map s.bdr.bound, pendingEv := v }) := by
    intro p s
    unfold State.boundPort
    dsimp only
    split
    · obtain ⟨v, hv⟩ := addEvent_eq .positionClamped p (s.onPort p (Port.bounded s.bdr))
      exact ⟨v, by rw [hv]; cases p <;> rfl⟩
    · exact ⟨(s.port p).pendingEv, by cases p <;> rfl⟩
  obtain ⟨v, hv⟩ := key .a s
  obtain ⟨w, hw⟩ := key .b (s.boundPort .a)
  have h₁ := h.onPort .a (f := fun q => { q with next := s.bdr.bound q.next, marks := q.marks.map s.bdr.bound, pendingEv := v })
    fun _ => ⟨rfl, by simp, rfl⟩
  rw [← hv] at h₁
  have h₂ := h₁.onPort .b (f := fun q => { q with next := (s.boundPort .a).bdr.bound q.next, marks := q.marks.map (s.boundPort .a).bdr.bound, pendingEv := w })
    fun _ => ⟨rfl, by simp, rfl⟩
  rw [← hw] at h₂
  have e₁ : s.boundPorts = (s.boundPort .a).boundPort .b := rfl
  rw [e₁]
  refine { port := fun p => ⟨h₂.queue p, h₂.marks p, ?_, ?_⟩, slots := h₂.buf.slots, owner := h₂.buf.owner, cache := h₂.buf.cache,
           charge := h₂.charge, chain := h₂.chain }
  all_goals
    rw [hw, hv]
    cases p <;> simp [State.onPort, State.port, bound_idem]

theorem SharedOk.bdr_same {s : State} (h : SharedOk s) {f : Bdr → Bdr} (hf : (f s.bdr).eod = s.bdr.eod) : SharedOk (s.onBdr f) := by
  have hb : (f s.bdr).bound = s.bdr.bound := by funext n; simp [Bdr.bound, hf]
  refine h.of (fun p => ?_) h.buf (fun p => by simp [State.charge]) h.chain
  have hp := h.port p
  simp only [State.onBdr_port, State.onBdr_bdr]
  exact { queue := hp.queue, marks := hp.marks, next := by rw [hb]; exact hp.next, marksIn := by rw [hb]; exact hp.marksIn }

theorem traverse_eod (t : Traversal) (d : Bdr) : (d.traverse t).eod = d.eod := by
  unfold Bdr.traverse
  split
  · dsimp only
    split
    · rfl
    · split
      · unfold Bdr.add Bdr.decimate
        dsimp only
        repeat' split
        all_goals rfl
      · rfl
  · rfl

theorem SharedOk.traverse {s : State} (h : SharedOk s) (t : Traversal) : SharedOk (s.onBdr (Bdr.traverse t)) :=
  h.bdr_same (traverse_eod t _)

theorem SharedOk.bdrCleared {s : State} (h : SharedOk s) : SharedOk (s.onBdr (fun _ => Bdr.cleared)) := by
  refine h.of (fun p => ?_) h.buf (fun p => by simp [State.charge]) h.chain
  have hp := h.port p
  have hb : Bdr.cleared.bound = id := by funext n; rfl
  simp only [State.onBdr_port, State.onBdr_bdr]
  exact { queue := hp.queue, marks := hp.marks, next := by rw [hb]; rfl, marksIn := by rw [hb]; simp }

theorem SharedOk.rebound {s : State} (h : SharedOk s) (f : Bdr → Bdr) : SharedOk ((s.onBdr f).boundPorts) :=
  (h.pre.onBdr f).boundPorts

theorem SharedOk.rollbackTo {s : State} (h : SharedOk s) (p : PortId) (f ahead : Nat) : SharedOk (s.rollbackTo p f ahead) :=
  ((h.pre.onBdr _).setNext p _).boundPorts

theorem SharedOk.rollbackOrphan {s : State} (h : SharedOk s) (f : Nat) : SharedOk (s.rollbackOrphan f) := h.rebound _

theorem SharedOk.setNext {s : State} (h : SharedOk s) (p : PortId) (n : Nat) : SharedOk (s.setNext p n) := by
  have hp := h.port p
  exact h.onPort' p { queue := hp.queue, marks := hp.marks, next := bound_idem _ _, marksIn := hp.marksIn } (Nat.le_refl _)

/-! ## The operations -/

theorem SharedOk.engineOrder {s : State} (h : SharedOk s) (f : Tsv → Tsv) : SharedOk (s.engineOrder f) := h.onTsv _

theorem SharedOk.addEvent (k : EventKind) (p : PortId) {s : State} (h : SharedOk s) : SharedOk (s.addEvent k p) := by
  obtain ⟨v, hv⟩ := addEvent_eq k p s
  rw [hv]
  exact h.onPort p fun _ => ⟨Nat.le_refl _, rfl, rfl, Nat.le_refl _⟩

theorem SharedOk.addEvents (k : EventKind) {s : State} (h : SharedOk s) : SharedOk (s.addEvents k) := by
  unfold State.addEvents
  repeat' first
    | with_reducible exact h | with_reducible apply SharedOk.addEvent

theorem SharedOk.place (p : PortId) {r : Rec} (hr : r.pinsSlot = false) {s : State} (h : SharedOk s) :
    SharedOk (s.place p r) :=
  h.onPort p fun _ => ⟨Nat.le_refl _, rfl, rfl, by simp [hr]⟩

theorem SharedOk.defer (p : PortId) (n : Nat) {s : State} (h : SharedOk s) : SharedOk (s.defer p n) :=
  SharedOk.addEvent _ _ (h.onPort p fun _ => ⟨Nat.le_refl _, rfl, rfl, Nat.le_refl _⟩)

theorem SharedOk.deferOpt (p : PortId) (n : Option Nat) {s : State} (h : SharedOk s) : SharedOk (s.deferOpt p n) := by
  unfold State.deferOpt
  repeat' first
    | with_reducible exact h | with_reducible apply SharedOk.defer | split

theorem SharedOk.freeSlots (l : List Op) {s : State} (h : SharedOk s) : SharedOk (s.freeSlots l) := by
  unfold State.freeSlots
  induction l generalizing s with
  | nil => exact h
  | cons o l ih => exact ih (h.onBbf (Bbf.keeps_freeOpt _))

theorem freeSlots_port (l : List Op) (s : State) (p : PortId) : (s.freeSlots l).port p = s.port p := by
  unfold State.freeSlots
  induction l generalizing s with
  | nil => rfl
  | cons o l ih => exact (ih _).trans (State.onBbf_port _ _ _)

theorem freeSlots_bdr (l : List Op) (s : State) : (s.freeSlots l).bdr = s.bdr := by
  unfold State.freeSlots
  induction l generalizing s with
  | nil => rfl
  | cons o l ih => exact (ih _).trans rfl

theorem SharedOk.requeue (p : PortId) {f : Port → Port} {s : State} (h : SharedOk s)
    (hq : (f (s.port p)).queue.length ≤ (s.port p).queue.length) (hm : (f (s.port p)).marks = (s.port p).marks)
    (hn : (f (s.port p)).next = (s.port p).next)
    (hs : (f (s.port p)).status.countP Rec.pinsSlot ≤ (s.port p).status.countP Rec.pinsSlot) : SharedOk (s.onPort p f) :=
  h.onPort' p
    { queue := hq.trans (h.port p).queue, marks := by rw [hm]; exact (h.port p).marks
      next := by rw [hn]; exact (h.port p).next, marksIn := by rw [hm]; exact (h.port p).marksIn } hs

theorem SharedOk.loseOps (p : PortId) {kept : List Op} (lost : List Op) {s : State} (h : SharedOk s)
    (hk : kept.length ≤ (s.port p).queue.length) : SharedOk (s.loseOps p kept lost) := by
  unfold State.loseOps
  refine (h.freeSlots lost).requeue p ?_ rfl rfl ?_
  · simpa [freeSlots_port] using hk
  · simp [owedRecs_pins]

theorem SharedOk.latchTest {s : State} (h : SharedOk s) : SharedOk (s.latchTest) := by
  unfold State.latchTest
  try dsimp only
  repeat' first
    | with_reducible exact h | with_reducible apply SharedOk.onOpe | split

theorem SharedOk.leaveQueue (j : Job) {recs : List Rec} (hr : recs.countP Rec.pinsSlot = 0) {s : State} (h : SharedOk s) :
    SharedOk (s.leaveQueue j recs) := by
  unfold State.leaveQueue
  split
  · split
    · exact h
    · refine h.onPort _ fun q => ⟨by simp, rfl, rfl, ?_⟩
      dsimp only
      split <;> simp [hr]
  · exact h

theorem SharedOk.dropJob {s : State} (h : SharedOk s) : SharedOk (s.dropJob) := by
  unfold State.dropJob
  try dsimp only
  repeat' first
    | with_reducible exact h | with_reducible apply SharedOk.onOpe | with_reducible apply SharedOk.latchTest

theorem SharedOk.finishJob (j : Job) (c : Code) (detail : Nat) {s : State} (h : SharedOk s) :
    SharedOk (s.finishJob j c detail) := SharedOk.dropJob (SharedOk.leaveQueue j (by simp [Rec.pinsSlot, opRec, completeRec]) h)

theorem SharedOk.goIdle {s : State} (h : SharedOk s) : SharedOk (s.goIdle) := by
  unfold State.goIdle
  try dsimp only
  repeat' first
    | with_reducible exact h | with_reducible apply SharedOk.onOpe

theorem SharedOk.askAtEnd {s : State} (h : SharedOk s) : SharedOk (s.askAtEnd) := by
  unfold State.askAtEnd
  try dsimp only
  repeat' first
    | with_reducible exact h | with_reducible apply SharedOk.onOpe

theorem SharedOk.after (atRest : Bool) {s : State} (h : SharedOk s) : SharedOk (s.after atRest) := by
  unfold State.after
  repeat' first
    | with_reducible exact h | with_reducible apply SharedOk.goIdle | with_reducible apply SharedOk.askAtEnd | split

theorem SharedOk.finishDeckJob (c : Cmd → Code) {s : State} (h : SharedOk s) : SharedOk (s.finishDeckJob c) := by
  unfold State.finishDeckJob
  repeat' first
    | with_reducible exact h | with_reducible apply SharedOk.finishJob | with_reducible apply SharedOk.goIdle | split

theorem SharedOk.jobNext (j : Job) (n : Nat) {s : State} (h : SharedOk s) : SharedOk (s.jobNext j n) := by
  unfold State.jobNext
  repeat' first
    | with_reducible exact h | with_reducible apply SharedOk.setNext | split

theorem SharedOk.enterDeck (d : Deck) {s : State} (h : SharedOk s) : SharedOk (s.enterDeck d) := by
  unfold State.enterDeck
  repeat' first
    | with_reducible exact h | with_reducible apply SharedOk.onDsq

theorem SharedOk.setTimer (t : Option SeqTimer) {s : State} (h : SharedOk s) : SharedOk (s.setTimer t) := by
  unfold State.setTimer
  try dsimp only
  repeat' first
    | with_reducible exact h | with_reducible apply SharedOk.onDsq

theorem SharedOk.setSearch (x : Option Search) {s : State} (h : SharedOk s) : SharedOk (s.setSearch x) := by
  unfold State.setSearch
  try dsimp only
  repeat' first
    | with_reducible exact h | with_reducible apply SharedOk.onDsq

theorem SharedOk.reportFault (x : FaultReport) {s : State} (h : SharedOk s) : SharedOk (s.reportFault x) := by
  unfold State.reportFault
  try dsimp only
  repeat' first
    | with_reducible exact h | with_reducible apply SharedOk.onDsq

theorem SharedOk.reportWhen (b : Bool) (x : FaultReport) {s : State} (h : SharedOk s) :
    SharedOk (s.reportWhen b x) := by
  unfold State.reportWhen
  repeat' first
    | with_reducible exact h | with_reducible apply SharedOk.reportFault | split

theorem SharedOk.enterLoopForm {s : State} (h : SharedOk s) : SharedOk (s.enterLoopForm) := by
  unfold State.enterLoopForm
  try dsimp only
  repeat' first
    | with_reducible exact h | with_reducible apply SharedOk.enterDeck | with_reducible apply SharedOk.setTimer
    | with_reducible apply SharedOk.onTsv

theorem SharedOk.loadStart {s : State} (h : SharedOk s) : SharedOk (s.loadStart) := by
  unfold State.loadStart
  try dsimp only
  repeat' first
    | with_reducible exact h | with_reducible apply SharedOk.enterDeck | with_reducible apply SharedOk.setTimer
    | with_reducible apply SharedOk.enterLoopForm | with_reducible apply SharedOk.onTsv | split

theorem SharedOk.loadFail {s : State} (h : SharedOk s) : SharedOk (s.loadFail) := by
  unfold State.loadFail
  repeat' first
    | with_reducible exact h | with_reducible apply SharedOk.latchTest | with_reducible apply SharedOk.finishDeckJob
    | with_reducible apply SharedOk.enterDeck | with_reducible apply SharedOk.setTimer | with_reducible apply SharedOk.setSearch
    | with_reducible apply SharedOk.onTsv

theorem SharedOk.beginSearch (p : SearchPass) {s : State} (h : SharedOk s) : SharedOk (s.beginSearch p) := by
  unfold State.beginSearch
  try dsimp only
  repeat' first
    | with_reducible exact h | with_reducible apply SharedOk.onDsq

theorem SharedOk.enterLoadPointSearch {s : State} (h : SharedOk s) : SharedOk (s.enterLoadPointSearch) := by
  unfold State.enterLoadPointSearch
  try dsimp only
  repeat' first
    | with_reducible exact h | with_reducible apply SharedOk.enterDeck | with_reducible apply SharedOk.setTimer
    | with_reducible apply SharedOk.beginSearch
    | with_reducible apply SharedOk.onTsv

theorem SharedOk.enterRezero {s : State} (h : SharedOk s) : SharedOk (s.enterRezero) := by
  unfold State.enterRezero
  try dsimp only
  repeat' first
    | with_reducible exact h | with_reducible apply SharedOk.enterDeck | with_reducible apply SharedOk.setTimer
    | with_reducible apply SharedOk.beginSearch | with_reducible apply SharedOk.onTsv
    | with_reducible apply SharedOk.bdrCleared

theorem SharedOk.rezeroForward {s : State} (h : SharedOk s) : SharedOk (s.rezeroForward) := by
  unfold State.rezeroForward
  repeat' first
    | with_reducible exact h | with_reducible apply SharedOk.beginSearch
    | with_reducible apply SharedOk.onTsv

theorem SharedOk.atLoadPoint (p : PortId) {s : State} (h : SharedOk s) : SharedOk (s.onPort p Port.atLoadPoint) :=
  h.onPort' p { queue := (h.port p).queue, marks := Nat.zero_le _, next := by simp [Port.atLoadPoint, Bdr.bound]; split <;> simp,
                marksIn := rfl } (Nat.le_refl _)

theorem SharedOk.portsAtLoadPoint {s : State} (h : SharedOk s) : SharedOk (s.portsAtLoadPoint) :=
  (h.atLoadPoint .a).atLoadPoint .b

theorem SharedOk.enterReady {s : State} (h : SharedOk s) : SharedOk (s.enterReady) := by
  unfold State.enterReady
  repeat' first
    | with_reducible exact h | with_reducible apply SharedOk.latchTest | with_reducible apply SharedOk.enterDeck
    | with_reducible apply SharedOk.setTimer | with_reducible apply SharedOk.setSearch
    | with_reducible apply SharedOk.onTsv

theorem SharedOk.readyFromLoad {s : State} (h : SharedOk s) : SharedOk (s.readyFromLoad) := by
  unfold State.readyFromLoad
  try dsimp only
  repeat' first
    | with_reducible exact h | with_reducible apply SharedOk.onDsq | with_reducible apply SharedOk.onOpe
    | with_reducible apply SharedOk.addEvents | with_reducible apply SharedOk.finishDeckJob
    | with_reducible apply SharedOk.portsAtLoadPoint | with_reducible apply SharedOk.enterReady
    | with_reducible apply SharedOk.onTsv
    | with_reducible apply SharedOk.bdrCleared

theorem SharedOk.readyFromRezero {s : State} (h : SharedOk s) : SharedOk (s.readyFromRezero) := by
  unfold State.readyFromRezero
  repeat' first
    | with_reducible exact h | with_reducible apply SharedOk.onOpe | with_reducible apply SharedOk.addEvents
    | with_reducible apply SharedOk.enterReady

theorem SharedOk.releaseForUnload {s : State} (h : SharedOk s) : SharedOk (s.releaseForUnload) := by
  unfold State.releaseForUnload
  split
  · exact h
  · exact SharedOk.addEvents _ ((SharedOk.loseOps _ _ h (List.length_filter_le _ _)).setWriter _)

theorem SharedOk.unloadEffects {s : State} (h : SharedOk s) : SharedOk (s.unloadEffects) :=
  SharedOk.onBbf (SharedOk.onOpe (SharedOk.portsAtLoadPoint (SharedOk.bdrCleared (SharedOk.onDsq (SharedOk.releaseForUnload h) _))) _)
    (Bbf.keeps_mapSlots Slot.keeps_unloaded)

theorem SharedOk.enterRewindOut {s : State} (h : SharedOk s) : SharedOk (s.enterRewindOut) := by
  unfold State.enterRewindOut
  repeat' first
    | with_reducible exact h | with_reducible apply SharedOk.enterDeck | with_reducible apply SharedOk.setTimer
    | with_reducible apply SharedOk.setSearch | with_reducible apply SharedOk.onTsv

theorem SharedOk.enterWindOff {s : State} (h : SharedOk s) : SharedOk (s.enterWindOff) := by
  unfold State.enterWindOff
  try dsimp only
  repeat' first
    | with_reducible exact h | with_reducible apply SharedOk.enterDeck | with_reducible apply SharedOk.setTimer
    | with_reducible apply SharedOk.setSearch | with_reducible apply SharedOk.onTsv

theorem SharedOk.unloadStart (notReady : Bool) {s : State} (h : SharedOk s) : SharedOk (s.unloadStart notReady) := by
  unfold State.unloadStart
  try dsimp only
  repeat' first
    | with_reducible exact h | with_reducible apply SharedOk.addEvents | with_reducible apply SharedOk.unloadEffects
    | with_reducible apply SharedOk.enterRewindOut | split

theorem SharedOk.windOffEnd {s : State} (h : SharedOk s) : SharedOk (s.windOffEnd) := by
  unfold State.windOffEnd
  try dsimp only
  repeat' first
    | with_reducible exact h | with_reducible apply SharedOk.latchTest | with_reducible apply SharedOk.finishDeckJob
    | with_reducible apply SharedOk.enterDeck | with_reducible apply SharedOk.setTimer
    | with_reducible apply SharedOk.onTsv

theorem SharedOk.engineNotice {s : State} (h : SharedOk s) : SharedOk (s.engineNotice) := (h.onOpe _).dropPermit

theorem SharedOk.freeJob (j : Option Job) {s : State} (h : SharedOk s) : SharedOk (s.freeJob j) := by
  cases j
  · exact h
  · exact h.onBbf (Bbf.keeps_freeOpt _)

theorem SharedOk.removeMotion (p : PortId) {s : State} (h : SharedOk s) : SharedOk (s.removeMotion p) := by
  unfold State.removeMotion
  refine (SharedOk.freeSlots _ h).requeue p ?_ rfl rfl ?_
  · simpa [freeSlots_port] using List.length_filter_le _ _
  · simp [owedRecs_pins]

theorem SharedOk.faultRollback (p : PortId) (lost : List Op) {s : State} (h : SharedOk s) :
    SharedOk (s.faultRollback p lost) := by
  unfold State.faultRollback
  repeat' first
    | with_reducible exact h | with_reducible apply SharedOk.deferOpt | with_reducible apply SharedOk.rollbackTo | split

theorem SharedOk.orphanRollback (j : Option Job) {s : State} (h : SharedOk s) : SharedOk (s.orphanRollback j) := by
  unfold State.orphanRollback
  repeat' first
    | with_reducible exact h | with_reducible apply SharedOk.rollbackOrphan | split

theorem SharedOk.beginFaultStop (k : FaultKind) {s : State} (h : SharedOk s) : SharedOk (s.beginFaultStop k) := by
  unfold State.beginFaultStop
  try dsimp only
  repeat' first
    | with_reducible exact h | with_reducible apply SharedOk.onDsq | with_reducible apply SharedOk.addEvents
    | with_reducible apply SharedOk.engineNotice | with_reducible apply SharedOk.freeJob | with_reducible apply SharedOk.removeMotion
    | with_reducible apply SharedOk.faultRollback | with_reducible apply SharedOk.orphanRollback
    | with_reducible apply SharedOk.onTsv

theorem SharedOk.escalate (k : FaultKind) {s : State} (h : SharedOk s) : SharedOk (s.escalate k) := by
  unfold State.escalate
  try dsimp only
  repeat' first
    | with_reducible exact h | with_reducible apply SharedOk.onDsq | with_reducible apply SharedOk.enterDeck
    | with_reducible apply SharedOk.onTsv

theorem SharedOk.takeFault (k : FaultKind) {s : State} (h : SharedOk s) : SharedOk (s.takeFault k) := by
  unfold State.takeFault
  try dsimp only
  repeat' first
    | with_reducible exact h | with_reducible apply SharedOk.beginFaultStop | with_reducible apply SharedOk.escalate | split

theorem SharedOk.resumeAt (d : Deck) {s : State} (h : SharedOk s) : SharedOk (s.resumeAt d) := by
  unfold State.resumeAt
  repeat' first
    | with_reducible exact h | with_reducible apply SharedOk.enterLoadPointSearch | with_reducible apply SharedOk.enterRezero
    | with_reducible apply SharedOk.enterReady | with_reducible apply SharedOk.enterRewindOut
    | with_reducible apply SharedOk.enterWindOff | split

theorem SharedOk.acceptedClear {s : State} (h : SharedOk s) : SharedOk (s.acceptedClear) := by
  unfold State.acceptedClear
  try dsimp only
  repeat' first
    | with_reducible exact h | with_reducible apply SharedOk.onDsq | with_reducible apply SharedOk.onOpe
    | with_reducible apply SharedOk.addEvents | with_reducible apply SharedOk.resumeAt
    | with_reducible apply SharedOk.onTsv

theorem SharedOk.hardClear {s : State} (h : SharedOk s) : SharedOk (s.hardClear) := by
  unfold State.hardClear
  try dsimp only
  repeat' first
    | with_reducible exact h | with_reducible apply SharedOk.onDsq | with_reducible apply SharedOk.addEvents
    | with_reducible apply SharedOk.latchTest | with_reducible apply SharedOk.enterDeck | with_reducible apply SharedOk.setTimer
    | with_reducible apply SharedOk.unloadEffects | with_reducible apply SharedOk.onTsv | split

theorem SharedOk.moveTo (j : Job) (st : Stage) (x : Int) (forward : Bool) {s : State} (h : SharedOk s) :
    SharedOk (s.moveTo j st x forward) := by
  unfold State.moveTo
  try dsimp only
  repeat' first
    | with_reducible exact h | with_reducible apply SharedOk.onOpe
    | with_reducible apply SharedOk.engineOrder

theorem SharedOk.runNormal {s : State} (h : SharedOk s) : SharedOk (s.runNormal) := by
  unfold State.runNormal
  repeat' first
    | with_reducible exact h | with_reducible apply SharedOk.engineOrder

theorem SharedOk.stopAt (j : Job) (st : Stage) {s : State} (h : SharedOk s) : SharedOk (s.stopAt j st) := by
  unfold State.stopAt
  try dsimp only
  repeat' first
    | with_reducible exact h | with_reducible apply SharedOk.onOpe
    | with_reducible apply SharedOk.engineOrder

theorem SharedOk.runWrite (j : Job) (a : Nat) {s : State} (h : SharedOk s) : SharedOk (s.runWrite j a) := by
  unfold State.runWrite
  try dsimp only
  repeat' first
    | with_reducible exact h | with_reducible apply SharedOk.onOpe | with_reducible apply SharedOk.runNormal

theorem SharedOk.runRead (j : Job) (a : Nat) {s : State} (h : SharedOk s) : SharedOk (s.runRead j a) := by
  unfold State.runRead
  dsimp only
  refine SharedOk.runNormal (SharedOk.onOpe ?_ _)
  split
  · exact h.onBbf (Bbf.keeps_modify (f := fun x => { x with data := [] })
      (Slot.keeps_of_state (fun _ => rfl) (fun _ => rfl)) _)
  · exact h

theorem SharedOk.runScan (j : Job) (st : Stage) {s : State} (h : SharedOk s) : SharedOk (s.runScan j st) := by
  unfold State.runScan
  try dsimp only
  repeat' first
    | with_reducible exact h | with_reducible apply SharedOk.onOpe | with_reducible apply SharedOk.runNormal

theorem SharedOk.runCrossing (j : Job) (atRest : Bool) {s : State} (h : SharedOk s) : SharedOk (s.runCrossing j atRest) :=
  (h.onOpe _).runScan _ _

theorem SharedOk.endOp (j : Job) (c : Code) (detail : Nat) (atRest : Bool) {s : State} (h : SharedOk s) :
    SharedOk (s.endOp j c detail atRest) := by
  unfold State.endOp
  repeat' first
    | with_reducible exact h | with_reducible apply SharedOk.finishJob | with_reducible apply SharedOk.after

theorem SharedOk.freeOwn (j : Job) {s : State} (h : SharedOk s) : SharedOk (s.freeOwn j) := h.onBbf (Bbf.keeps_freeOpt _)

theorem SharedOk.failWrite (j : Job) (c : Code) (detail : Nat) {s : State} (h : SharedOk s) :
    SharedOk (s.failWrite j c detail) := by
  have h₁ := SharedOk.finishJob j c detail (SharedOk.freeOwn j h)
  unfold State.failWrite
  dsimp only
  split
  · exact h₁.rollbackOrphan _
  · exact SharedOk.deferOpt _ _ (SharedOk.rollbackTo (SharedOk.loseOps _ _ h₁ (Nat.zero_le _)) _ _ _)

theorem SharedOk.endFailed (j : Job) (c : Code) (detail : Nat) (atRest : Bool) {s : State} (h : SharedOk s) :
    SharedOk (s.endFailed j c detail atRest) := by
  unfold State.endFailed
  repeat' first
    | with_reducible exact h | with_reducible apply SharedOk.finishJob | with_reducible apply SharedOk.after
    | with_reducible apply SharedOk.freeOwn | with_reducible apply SharedOk.failWrite | split

theorem SharedOk.endOfData (j : Job) (atRest : Bool) {s : State} (h : SharedOk s) :
    SharedOk (s.endOfData j atRest) := by
  unfold State.endOfData
  repeat' first
    | with_reducible exact h | with_reducible apply SharedOk.endOp | with_reducible apply SharedOk.freeOwn | split

theorem SharedOk.positioned (j : Job) (atRest : Bool) {s : State} (h : SharedOk s) :
    SharedOk (s.positioned j atRest) := by
  unfold State.positioned
  repeat' first
    | with_reducible exact h | with_reducible apply SharedOk.jobNext | with_reducible apply SharedOk.runWrite
    | with_reducible apply SharedOk.runRead | with_reducible apply SharedOk.runCrossing | with_reducible apply SharedOk.endOp
    | with_reducible apply SharedOk.endOfData | split

theorem SharedOk.positionMove (j : Job) (w : Way) (x : Int) {s : State} (h : SharedOk s) :
    SharedOk (s.positionMove j w x) := by
  unfold State.positionMove
  repeat' first
    | with_reducible exact h | with_reducible apply SharedOk.moveTo

theorem SharedOk.positionTo (j : Job) (atRest : Bool) {s : State} (h : SharedOk s) :
    SharedOk (s.positionTo j atRest) := by
  unfold State.positionTo
  try dsimp only
  repeat' first
    | with_reducible exact h | with_reducible apply SharedOk.runScan | with_reducible apply SharedOk.positioned
    | with_reducible apply SharedOk.positionMove | split

theorem SharedOk.beginOp (j : Job) (atRest : Bool) {s : State} (h : SharedOk s) : SharedOk (s.beginOp j atRest) := by
  unfold State.beginOp
  try dsimp only
  repeat' first
    | with_reducible exact h | with_reducible apply SharedOk.onOpe | with_reducible apply SharedOk.finishDeckJob
    | with_reducible apply SharedOk.loadStart | with_reducible apply SharedOk.loadFail | with_reducible apply SharedOk.unloadStart
    | with_reducible apply SharedOk.moveTo | with_reducible apply SharedOk.endOp | with_reducible apply SharedOk.endOfData
    | with_reducible apply SharedOk.positionTo | split

theorem SharedOk.landed (j : Job) {s : State} (h : SharedOk s) : SharedOk (s.landed j) := by
  unfold State.landed
  try dsimp only
  repeat' first
    | with_reducible exact h | with_reducible apply SharedOk.onOpe | with_reducible apply SharedOk.jobNext
    | with_reducible apply SharedOk.runWrite | with_reducible apply SharedOk.runRead | with_reducible apply SharedOk.runScan
    | with_reducible apply SharedOk.endOp | with_reducible apply SharedOk.endFailed | with_reducible apply SharedOk.endOfData
    | with_reducible apply SharedOk.positioned | split

theorem SharedOk.positioningFailed (j : Job) {s : State} (h : SharedOk s) : SharedOk (s.positioningFailed j) := by
  unfold State.positioningFailed
  try dsimp only
  repeat' first
    | with_reducible exact h | with_reducible apply SharedOk.onOpe | with_reducible apply SharedOk.endFailed

theorem SharedOk.moveDone (e : Int) {s : State} (h : SharedOk s) : SharedOk (s.moveDone e) := by
  unfold State.moveDone
  try dsimp only
  repeat' first
    | with_reducible exact h | with_reducible apply SharedOk.onOpe | with_reducible apply SharedOk.landed
    | with_reducible apply SharedOk.positioningFailed
    | with_reducible apply SharedOk.engineOrder | split

theorem SharedOk.raiseFailures {s : State} (h : SharedOk s) : SharedOk (s.raiseFailures) := by
  unfold State.raiseFailures
  try dsimp only
  repeat' first
    | with_reducible exact h | with_reducible apply SharedOk.onOpe

theorem SharedOk.mediaHold (j : Job) {s : State} (h : SharedOk s) : SharedOk (s.mediaHold j) := by
  unfold State.mediaHold
  repeat' first
    | with_reducible exact h | with_reducible apply SharedOk.reportFault | with_reducible apply SharedOk.stopAt

theorem SharedOk.completeHead (p : PortId) {r : Rec} (hr : r.pinsSlot = false) {s : State} (h : SharedOk s) :
    SharedOk (s.completeHead p r) :=
  h.onPort p fun q => ⟨by simp, rfl, rfl, by simp [hr]⟩

theorem SharedOk.portOp (p : PortId) (o : Op) {s : State} (h : SharedOk s) : SharedOk (s.portOp p o) := by
  have hp := h.port p
  unfold State.portOp
  dsimp only
  split
  · refine SharedOk.completeHead p rfl (h.onPort' p ?_ ?_)
    · unfold Port.pushed
      have hm := hp.marks
      split
      · exact { hp with marks := by simp; omega, marksIn := by simp [hp.marksIn, hp.next] }
      · have hl : ((s.port p).marks.tail ++ [(s.port p).next]).length ≤ Config.maxMarks := by
          rw [List.length_append, List.length_tail, List.length_singleton]
          have : 4 ≤ (s.port p).marks.length := Nat.not_lt.1 ‹_›
          omega
        refine { hp with marks := hl, marksIn := ?_ }
        have := congrArg List.tail hp.marksIn
        simpa [hp.next, List.map_tail] using this
    · unfold Port.pushed; split <;> exact Nat.le_refl _
  · split
    · rename_i m hm
      have hmem := List.mem_of_getLast? hm
      refine SharedOk.completeHead p rfl (h.onPort' p ?_ (Nat.le_refl _))
      have hb := List.map_inj_left.1 (hp.marksIn.trans (List.map_id _).symm)
      refine { queue := hp.queue, marks := ?_, next := hb m hmem, marksIn := ?_ }
      · have := hp.marks; simp; omega
      · dsimp only
        rw [List.map_dropLast, hp.marksIn]
    · exact SharedOk.completeHead p rfl (h.onPort p fun _ => ⟨Nat.le_refl _, rfl, rfl, Nat.le_refl _⟩)

/-- A READ served from the cache: a port charged with fewer than eight takes one pin (R80, R88). -/
theorem SharedOk.serveHit (p : PortId) {i : Nat} {s : State} (h : SharedOk s) (hi : s.hitSlot p = some i) :
    SharedOk (s.serveHit p i) := by
  have hp := h.port p
  obtain ⟨hend, hch⟩ : s.bdr.atEnd (s.port p).next = false ∧ s.charge p < Config.maxCharge := by
    unfold State.hitSlot at hi
    split at hi
    · split at hi
      · rename_i hc; exact ⟨hc.2.1, hc.2.2.1⟩
      · cases hi
    · cases hi
  unfold State.serveHit
  split
  · rename_i o rest hq
    dsimp only
    have hb := Bbf.keeps_hit i s.bbf h.buf
    have hheld : ∀ q, ((s.bbf.hit i)).held q ≤ s.bbf.held q := hb.2
    refine { port := fun q => ?_, slots := ?_, owner := ?_, cache := ?_, charge := fun q => ?_, chain := ?_ }
    · cases p <;> cases q <;>
        first
          | exact h.port .a
          | exact h.port .b
          | (refine { queue := ?_, marks := hp.marks, next := ?_, marksIn := hp.marksIn }
             · have := hp.queue
               simp only [State.completeHead, State.onPort, State.onBbf, State.port, List.length_tail] at this ⊢
               omega
             · simp only [State.completeHead, State.onPort, State.onBbf, State.port, Bdr.bound, Bdr.atEnd] at hend ⊢
               split
               · rename_i e he
                 simp only [he] at hend
                 have hlt := of_decide_eq_false hend
                 exact Nat.min_eq_left (by omega)
               · rfl)
    · cases p <;> exact hb.1.slots
    · cases p <;> exact hb.1.owner
    · cases p <;> exact hb.1.cache
    · have hq' := h.charge q
      have hh := hheld q
      simp only [State.charge] at hq' hch ⊢
      cases p <;> cases q <;>
        simp only [State.completeHead, State.onPort, State.onBbf, State.port, List.countP_append, List.countP_cons,
          List.countP_nil, Rec.pinsSlot] at hq' hch hh ⊢ <;> simp <;> omega
    · cases p <;> exact h.chain
  · exact h

/-- The slot of a grant: a READ's port is charged with fewer than eight (R80, R157). -/
theorem SharedOk.grantSlot (p : PortId) (o : Op) {s : State} (h : SharedOk s)
    (hc : o.cmd = .readBlock → s.charge p < Config.maxCharge) : SharedOk (s.grantSlot p o).2 := by
  unfold State.grantSlot
  split
  · split
    · exact h.onBbf (Bbf.keeps_modify (f := fun x => { x with state := .writing })
        (Slot.keeps_of_held (fun _ => rfl) (fun _ => rfl)) _)
    · exact h
  · rename_i hcmd
    split
    · rename_i i _
      generalize hy : ({ Slot.freed with state := .reading, owner := some p, block := some (s.port p).next, tag := o.tag } : Slot) = y
      have hb := Bbf.take_held h.buf i (y := y) p (by rw [← hy]; rfl) (by rw [← hy])
      refine { port := by simpa using h.port, slots := hb.1.slots, owner := hb.1.owner, cache := hb.1.cache,
               charge := fun q => ?_, chain := h.chain }
      have h₁ := hc hcmd
      have h₂ := h.charge q
      simp only [State.charge, State.onBbf_bbf, State.onBbf_port] at h₁ h₂ ⊢
      by_cases hq : q = p
      · subst hq; have := hb.2.1; omega
      · have := hb.2.2 q hq; omega
    · exact h
  · exact h

theorem grantSlot_port (p : PortId) (o : Op) (s : State) (q : PortId) : (s.grantSlot p o).2.port q = s.port q := by
  unfold State.grantSlot
  repeat' split
  all_goals rfl

/-- A grant to a port whose head is ready. -/
theorem SharedOk.grant (p : PortId) (byChain : Bool) {s : State} (h : SharedOk s) (hp : s.isCandidate p = true) :
    SharedOk (s.grant p byChain) := by
  unfold State.grant
  split
  · exact h
  · rename_i o rest hq
    have hc : o.cmd = .readBlock → s.charge p < Config.maxCharge := by
      intro hcmd
      unfold State.isCandidate at hp
      split at hp
      · rename_i o' ho'
        have : o' = o := by
          unfold State.head at ho'
          rw [hq] at ho'
          split at ho'
          · dsimp only at ho'
            split at ho'
            · cases ho'
            · exact (Option.some.inj ho').symm
          · cases ho'
        subst this
        simp only [State.opReady, hcmd, Bool.and_eq_true, decide_eq_true_eq] at hp
        exact hp.1.2
      · cases hp
    have hg := SharedOk.grantSlot p o h hc
    revert hg
    dsimp only
    generalize State.grantSlot p o s = x
    intro hg
    obtain ⟨slot, u⟩ := x
    dsimp only at hg
    have hm : ∀ (x : Op) (l : List Op), (markGranted x l).length = l.length := by intro x l; cases l <;> rfl
    have h₁ : ∀ (x : Op), SharedOk (u.onPort p (fun q => { q with queue := markGranted x q.queue })) :=
      fun x => SharedOk.onPort hg p fun q => ⟨(hm _ _).le, rfl, rfl, Nat.le_refl _⟩
    have h₂ : ∀ x : Op, SharedOk ((u.onPort p (fun q => { q with queue := markGranted x q.queue })).onArb (Arb.granted p byChain x)) :=
      fun x => SharedOk.onArb (h₁ x) _ (by unfold Arb.granted; dsimp only; split <;> simp)
    split
    · split
      · exact SharedOk.beginOp _ _ (SharedOk.onOpe (h₂ _) _)
      · exact SharedOk.engineOrder (SharedOk.onOpe (SharedOk.onOpe (h₂ _) _) _) _
    · exact SharedOk.beginOp _ _ (h₂ _)

theorem SharedOk.closeAsk {s : State} (h : SharedOk s) : SharedOk (s.closeAsk) := by
  unfold State.closeAsk
  try dsimp only
  repeat' first
    | with_reducible exact h | with_reducible apply SharedOk.onOpe
    | with_reducible apply SharedOk.engineOrder | split

theorem SharedOk.eventTest (p : PortId) {s : State} (h : SharedOk s) : SharedOk (s.eventTest p) := by
  unfold State.eventTest
  split
  · exact h.onPort p fun q => ⟨Nat.le_refl _, rfl, rfl, by simp [Port.deliver, Rec.pinsSlot]⟩
  · exact h

theorem SharedOk.stampPort (p : PortId) {s : State} (h : SharedOk s) : SharedOk (s.stampPort p) := by
  unfold State.stampPort
  dsimp only
  refine h.requeue p (Nat.le_refl _) rfl rfl ?_
  dsimp only
  rw [List.countP_map]
  refine (List.countP_congr fun r _ => ?_).le
  simp only [Function.comp, Rec.stamped]
  split <;> rfl

theorem SharedOk.seal {s : State} (h : SharedOk s) : SharedOk (s.seal) := by
  unfold State.seal
  repeat' first
    | with_reducible exact h | with_reducible apply SharedOk.eventTest | with_reducible apply SharedOk.stampPort

theorem isCandidate_drawn (n : Nat) (s : State) (p : PortId) : (s.drawn n).isCandidate p = s.isCandidate p := by
  cases p <;> rfl

theorem hitSlot_drawn (n : Nat) (s : State) (p : PortId) : (s.drawn n).hitSlot p = s.hitSlot p := by
  cases p <;> rfl

/-- The arbiter chooses a candidate (R159). -/
theorem choose_candidate {s : State} {cand : PortId → Bool} {c : PortId × Bool} (h : s.choose cand = some c) :
    cand c.1 = true := by
  unfold State.choose State.chainGoesOn at h
  repeat' split at h
  all_goals first
    | cases h; done
    | (obtain rfl := Option.some.inj h
       simp_all
       try (cases hl : s.arb.lastServed <;> simp_all [PortId.other]))

theorem SharedOk.grantNext {fresh : Bool} {s t : State} (h : SharedOk s) (ht : s.grantNext fresh = some t) : SharedOk t := by
  unfold State.grantNext State.draw at ht
  dsimp only at ht
  split at ht
  · rename_i hab
    simp only [Bool.and_eq_true] at hab
    obtain ⟨c, hc, rfl⟩ := Option.map_eq_some_iff.1 ht
    refine SharedOk.grant _ _ (h.drawn _) ?_
    rw [isCandidate_drawn]
    cases c.1
    · exact hab.1.2
    · exact hab.2
  · obtain ⟨c, hc, rfl⟩ := Option.map_eq_some_iff.1 ht
    exact SharedOk.grant _ _ h (choose_candidate hc)

theorem SharedOk.hitNext {a b : Option Nat} {s t : State} (h : SharedOk s) (ha : a = s.hitSlot .a) (hb : b = s.hitSlot .b)
    (ht : s.hitNext a b = some t) : SharedOk t := by
  unfold State.hitNext State.draw at ht
  dsimp only at ht
  split at ht
  · obtain rfl := Option.some.inj ht
    split
    · exact SharedOk.serveHit _ (h.drawn _) (by rw [hitSlot_drawn]; exact ha.symm)
    · exact SharedOk.serveHit _ (h.drawn _) (by rw [hitSlot_drawn]; exact hb.symm)
  · obtain rfl := Option.some.inj ht; exact SharedOk.serveHit _ h ha.symm
  · obtain rfl := Option.some.inj ht; exact SharedOk.serveHit _ h hb.symm
  · cases ht

theorem SharedOk.settleOne {fresh : Bool} {s : State} {x : State × Bool} (h : SharedOk s)
    (hx : s.settleOne fresh = some x) : SharedOk x.1 := by
  unfold State.settleOne State.draw at hx
  dsimp only at hx
  split at hx
  · obtain rfl := Option.some.inj hx; exact SharedOk.portOp _ _ h
  · obtain rfl := Option.some.inj hx; exact SharedOk.portOp _ _ h
  · repeat' split at hx
    · obtain ⟨u, hu, rfl⟩ := Option.map_eq_some_iff.1 hx
      exact SharedOk.hitNext (h.drawn _) (hitSlot_drawn _ _ _).symm (hitSlot_drawn _ _ _).symm hu
    · obtain ⟨u, hu, rfl⟩ := Option.map_eq_some_iff.1 hx; exact SharedOk.grantNext (h.drawn _) hu
    · obtain ⟨u, hu, rfl⟩ := Option.map_eq_some_iff.1 hx; exact SharedOk.hitNext h rfl rfl hu
    · obtain ⟨u, hu, rfl⟩ := Option.map_eq_some_iff.1 hx; exact SharedOk.grantNext h hu
    · cases hx

theorem SharedOk.settleLoop (n : Nat) : ∀ (fresh : Bool) {s : State}, SharedOk s → SharedOk (settleLoop n fresh s) := by
  induction n with
  | zero => intro fresh s h; exact h
  | succ n ih =>
    intro fresh s h
    unfold Machine.settleLoop
    split
    · rename_i ht; exact ih _ (SharedOk.settleOne h ht)
    · exact h

/-- The end of an event keeps what the ports, the buffer and the arbiter share. -/
theorem SharedOk.settle (before : State) {s : State} (h : SharedOk s) : SharedOk (s.settle before) :=
  SharedOk.seal (SharedOk.closeAsk (SharedOk.settleLoop _ _ h))

/-! ## Frames and their takes -/

theorem SharedOk.onRx (p : PortId) (f : Rx → Rx) {s : State} (h : SharedOk s) : SharedOk (s.onRx p f) :=
  h.onPort p fun _ => ⟨Nat.le_refl _, rfl, rfl, Nat.le_refl _⟩

theorem SharedOk.nextFrame (p : PortId) {s : State} (h : SharedOk s) : SharedOk (s.onPort p Port.nextFrame) :=
  h.onPort p fun _ => ⟨Nat.le_refl _, rfl, rfl, Nat.le_refl _⟩

theorem SharedOk.frameFault (p : PortId) {s : State} (h : SharedOk s) : SharedOk (s.frameFault p) := by
  unfold State.frameFault
  exact SharedOk.onRx p _ (h.onBbf (Bbf.keeps_freeOpt _))

theorem SharedOk.storeByte (p : PortId) (v : Byte) {s : State} (h : SharedOk s) : SharedOk (s.storeByte p v) := by
  unfold State.storeByte
  split
  · exact h.onBbf (Bbf.keeps_modify (f := fun x => { x with data := x.data ++ [v] })
      (Slot.keeps_of_state (fun _ => rfl) (fun _ => rfl)) _)
  · exact h

/-- A slot is allotted to a port charged with fewer than eight (R80, R81); what `admitData` does is this or nothing. -/
theorem SharedOk.allotSlot (p : PortId) (i : Nat) {s : State} (h : SharedOk s) (hc : s.charge p < Config.maxCharge) :
    SharedOk (s.allotSlot p i) := by
  unfold State.allotSlot
  dsimp only
  refine SharedOk.onRx p _ ?_
  generalize hy :
    ({ Slot.freed with state := .filling, owner := some p, len := (s.port p).rx.header.dataLen, tag := (s.port p).rx.header.tag } : Slot) = y
  have hb := Bbf.take_held h.buf i (y := y) p (by rw [← hy]; rfl) (by rw [← hy])
  refine { port := by simpa using h.port, slots := hb.1.slots, owner := hb.1.owner, cache := hb.1.cache
           charge := fun q => ?_
           chain := h.chain }
  have h₁ := hc
  have h₂ := h.charge q
  simp only [State.charge, State.onBbf_bbf, State.onBbf_port] at h₁ h₂ ⊢
  by_cases hq : q = p
  · subst hq; have := hb.2.1; omega
  · have := hb.2.2 q hq; omega

theorem SharedOk.recordLeaves (p : PortId) (r : Rec) {s : State} (h : SharedOk s) : SharedOk (s.recordLeaves p r) :=
  (h.onPort p (f := fun q => { q with status := q.status.tail, soFrm := false, sent := 0 })
    fun q => ⟨Nat.le_refl _, rfl, rfl, (List.tail_sublist q.status).countP_le⟩).onBbf (Bbf.keeps_releaseSent _)

theorem SharedOk.dropQueued (p : PortId) {s : State} (h : SharedOk s) : SharedOk (s.dropQueued p) := by
  unfold State.dropQueued
  split
  · exact h.rollbackOrphan _
  · exact h

theorem SharedOk.releaseWriterAt (p : PortId) {s : State} (h : SharedOk s) : SharedOk (s.releaseWriterAt p) := by
  unfold State.releaseWriterAt
  split
  · exact SharedOk.addEvent _ _ (h.setWriter _)
  · exact h

theorem SharedOk.resetPort (p : PortId) {s : State} (h : SharedOk s) : SharedOk (s.resetPort p) := by
  have h₁ : SharedOk ((((s.giveBack p).orphanJobs p).dropQueued p).releaseWriterAt p) :=
    SharedOk.releaseWriterAt p (SharedOk.dropQueued p (SharedOk.onOpe
      (h.onBbf ((Bbf.keeps_mapSlots (Slot.keeps_portReset p)).comp (Bbf.keeps_releaseAll _))) _))
  have h₂ := h₁.onArb (Arb.releasePermit p) (by unfold Arb.releasePermit; split; exact Nat.zero_le _; exact h₁.chain)
  unfold State.resetPort
  dsimp only
  refine h₂.onPort' p ?_ (Nat.zero_le _)
  exact { queue := Nat.zero_le _, marks := Nat.zero_le _, marksIn := rfl
          next := by simp only [Port.resetContext, Port.powerOn, Bdr.bound]; split <;> simp }

theorem SharedOk.takePortReset (p : PortId) {s : State} (h : SharedOk s) : SharedOk (s.takePortReset p) :=
  SharedOk.place p rfl (SharedOk.onRx p _ (SharedOk.resetPort p h))

theorem SharedOk.answer (p : PortId) (hd : Hdr) (c : Code) (detail : Nat) (data : List Byte) {s : State} (h : SharedOk s) :
    SharedOk (s.answer p hd c detail data) := SharedOk.place p rfl h

theorem SharedOk.refuse (p : PortId) (hd : Hdr) (slot : Option Nat) (c : Code) (detail : Nat) {s : State} (h : SharedOk s) :
    SharedOk (s.refuse p hd slot c detail) := by
  unfold State.refuse
  have h₁ := SharedOk.answer p hd c detail [] (h.onBbf (Bbf.keeps_freeOpt slot))
  dsimp only
  split
  · exact h₁.onPort p fun _ => ⟨Nat.le_refl _, rfl, rfl, Nat.le_refl _⟩
  · exact h₁

theorem SharedOk.joinQueue (p : PortId) (o : Op) {s : State} (h : SharedOk s) (hr : (s.port p).queueRoom = true) :
    SharedOk (s.joinQueue p o) := by
  have hq : (s.port p).queue.length < Config.maxOps := of_decide_eq_true hr
  refine h.onPort' p ?_ (Nat.le_refl _)
  exact { h.port p with queue := by rw [List.length_append]; exact hq }

theorem SharedOk.queueFrame (p : PortId) {c : Cmd} (hc : c.isQueued = true) (hw : c.isWrite = false) {s : State}
    (h : SharedOk s) (ht : s.takes p c = true) : SharedOk (s.queueFrame p c) := by
  unfold State.queueFrame
  dsimp only
  split
  · exact SharedOk.refuse _ _ _ _ _ (SharedOk.nextFrame p h)
  · refine SharedOk.joinQueue _ _ (SharedOk.nextFrame p h) ?_
    have hr : (s.port p).queueRoom = true := by
      unfold State.takes at ht
      cases c <;> simp_all [Cmd.isQueued, Cmd.isWrite]
    cases p <;> exact hr

theorem SharedOk.takeQueued (p : PortId) {c : Cmd} (hc : c.isQueued = true) (hw : c.isWrite = false) {s : State}
    (h : SharedOk s) : SharedOk (s.takeQueued p c) := by
  unfold State.takeQueued
  split
  · exact SharedOk.settle _ (SharedOk.queueFrame p hc hw h ‹_›)
  · exact h

theorem SharedOk.truncateAt (n : Nat) {s : State} (h : SharedOk s) : SharedOk (s.truncateAt n) :=
  (h.rebound _).onBbf (Bbf.keeps_mapSlots (Slot.keeps_truncated n))

theorem SharedOk.makePending (slot : Option Nat) (n : Nat) {s : State} (h : SharedOk s) : SharedOk (s.makePending slot n) := by
  unfold State.makePending
  split
  · exact h.onBbf (Bbf.keeps_modify (f := fun x => { x with state := .pending, block := some n, tag := 0 })
      (Slot.keeps_of_held (fun _ => rfl) (fun _ => rfl)) _)
  · exact h

theorem boundPorts_queue (s : State) (p : PortId) : (s.boundPorts.port p).queue = (s.port p).queue := by
  unfold State.boundPorts State.boundPort State.addEvent
  dsimp only
  repeat' split
  all_goals cases p <;> rfl

theorem SharedOk.acceptWrite (p : PortId) (c : Cmd) (hd : Hdr) (slot : Option Nat) (n : Nat) {s : State} (h : SharedOk s)
    (hr : (s.port p).queueRoom = true) : SharedOk (s.acceptWrite p c hd slot n) := by
  have h₁ : SharedOk (((s.truncateAt n).makePending slot n).joinQueue p (writeOp c hd n slot ((s.port p).answersAtTake c))) := by
    refine SharedOk.joinQueue p _ (SharedOk.makePending slot n (SharedOk.truncateAt n h)) ?_
    have : (((s.truncateAt n).makePending slot n).port p).queue = (s.port p).queue := by
      unfold State.makePending State.truncateAt
      split <;> simp [boundPorts_queue]
    simpa [Port.queueRoom, this] using hr
  unfold State.acceptWrite
  dsimp only
  split
  · exact SharedOk.answer _ _ _ _ _ h₁
  · exact h₁

theorem SharedOk.writeFrame (p : PortId) (c : Cmd) {s : State} (h : SharedOk s) (hr : (s.port p).queueRoom = true) :
    SharedOk (s.writeFrame p c) := by
  unfold State.writeFrame
  dsimp only
  split
  · exact SharedOk.refuse _ _ _ _ _ (SharedOk.nextFrame p h)
  · refine SharedOk.acceptWrite _ _ _ _ _ (SharedOk.nextFrame p h) ?_
    cases p <;> exact hr

theorem SharedOk.takeWrite (p : PortId) (c : Cmd) {s : State} (h : SharedOk s) (hr : (s.port p).queueRoom = true) :
    SharedOk (s.takeWrite p c) := SharedOk.settle _ (SharedOk.writeFrame p c h hr)

theorem SharedOk.answerFrame (p : PortId) (c : Code) {s : State} (h : SharedOk s) : SharedOk (s.answerFrame p c) :=
  SharedOk.place p rfl (SharedOk.nextFrame p h)

theorem SharedOk.immediateFrame (p : PortId) {body : Hdr → State → State}
    (hb : ∀ hd {t : State}, SharedOk t → SharedOk (body hd t)) {s : State} (h : SharedOk s) :
    SharedOk (s.immediateFrame p body) := by
  unfold State.immediateFrame
  dsimp only
  split
  · exact SharedOk.refuse _ _ _ _ _ (SharedOk.nextFrame p h)
  · exact hb _ (SharedOk.nextFrame p h)

theorem SharedOk.takeImmediate (p : PortId) (c : Cmd) {body : Hdr → State → State} (readies : State → State → Bool)
    (hb : ∀ hd {t : State}, SharedOk t → SharedOk (body hd t)) {s : State} (h : SharedOk s) :
    SharedOk (s.takeImmediate p c body readies) := by
  have ht := SharedOk.immediateFrame p hb h
  unfold State.takeImmediate
  split
  · dsimp only
    split
    · exact SharedOk.settle _ ht
    · exact SharedOk.seal ht
  · exact h

theorem SharedOk.cancelQueued (p : PortId) {s : State} (h : SharedOk s) : SharedOk (s.cancelQueued p) := by
  have h₁ : ∀ (lost : List Op) (g : Op → Bool) (recs : List Rec), recs.countP Rec.pinsSlot = 0 →
      SharedOk ((s.freeSlots lost).onPort p (fun q => { q with queue := (s.port p).queue.filter g, status := q.status ++ recs })) := by
    intro lost g recs hr
    refine (SharedOk.freeSlots lost h).requeue p ?_ rfl rfl ?_
    · simpa [freeSlots_port] using List.length_filter_le _ _
    · simp [hr]
  unfold State.cancelQueued
  dsimp only
  split
  · exact SharedOk.deferOpt _ _ (SharedOk.rollbackTo
      (h₁ _ _ _ (by simp [List.countP_map, List.countP_eq_zero, Rec.pinsSlot, opRec, completeRec])) _ _ _)
  · exact h₁ _ _ _ (by simp [List.countP_map, List.countP_eq_zero, Rec.pinsSlot, opRec, completeRec])

theorem SharedOk.abortNotice (p : PortId) {s : State} (h : SharedOk s) : SharedOk (s.abortNotice p) := by
  unfold State.abortNotice State.abortJob
  dsimp only
  repeat' first
    | with_reducible exact h | with_reducible apply SharedOk.stopAt | with_reducible apply SharedOk.onOpe | split

/-! ## Steps -/

theorem SharedOk.reportSeen (n : Nat) {s : State} (h : SharedOk s) : SharedOk (s.reportSeen n) := h.traverse _

theorem SharedOk.passSeen (n : Nat) {s : State} (h : SharedOk s) : SharedOk (s.passSeen n) := (h.reportSeen n).onOpe _

theorem SharedOk.deliver (j : Job) (data : List Byte) {s : State} (h : SharedOk s) : SharedOk (s.deliver j data) := by
  unfold State.deliver
  split
  · split
    · exact SharedOk.askAtEnd (SharedOk.dropJob (SharedOk.freeOwn j h))
    · exact SharedOk.askAtEnd (SharedOk.dropJob (SharedOk.leaveQueue j (by simp [State.dataRec, Rec.pinsSlot])
        (h.onBbf (Bbf.keeps_modify (f := Slot.delivered data) (Slot.keeps_of_held (fun _ => rfl) (fun _ => rfl)) _))))
  · exact SharedOk.askAtEnd (SharedOk.dropJob h)

end Sys2Proof.Machine
end

