-- ==== Sys2Proof/Laws/Engine.lean ====
section
/-! SUPPORT. What `EngineOk` reads of a state, and how the shared operations change it: the engine's job, the deck state, the
queues and the lengths of the status queues. -/

namespace Sys2Proof.Machine

/-! ## The view -/

/-- What `EngineOk` reads of a state. -/
structure View where
  job : Option Job
  waiting : Option Job
  phase : Phase
  asking : Bool
  deck : Deck
  search : Option Search
  queue : PortId → List Op
  owes : PortId → Nat

/-- The view of a state. -/
def State.view (s : State) : View :=
  { job := s.ope.job, waiting := s.ope.waiting, phase := s.ope.phase, asking := s.ope.asking, deck := s.dsq.deck
    search := s.dsq.search, queue := fun p => (s.port p).queue, owes := fun p => (s.port p).recordCount }

/-- A job is the granted head of its port's queue. -/
def View.headIs (v : View) (j : Job) : Prop :=
  ∀ p, j.port = some p → (v.queue p).head? = some j.op ∧ j.op.granted = true

/-- What holds inside an event: `EngineOk`, but that the arbiter may be being asked. -/
structure View.Ok (v : View) : Prop where
  asking : v.asking = true → v.job = none ∧ v.waiting = none ∧ v.phase ≠ .idle
  idle : v.phase = .idle → v.job = none
  waiting : v.waiting.isSome → v.job = none ∧ v.phase = .stop ∧ v.deck = .ready
  search : ∀ x, v.search = some x → v.deck = (if x.pass = .load then .loadPointSearch else .rezero)
  deckJob : ∀ j, v.job = some j → j.stage = .deck →
    (j.op.cmd = .load ∨ j.op.cmd = .unload)
      ∧ v.deck ∈ [Deck.vacuumUp, .loopForm, .loadPointSearch, .rewindOut, .windOff]
  tapeJob : ∀ j, v.job = some j → j.stage ≠ .deck → v.deck = .ready
  head : ∀ j, v.job = some j ∨ v.waiting = some j → v.headIs j
  owed : ∀ p, ∀ o ∈ v.queue p, o.cmd ≠ .writeBlock → o.owed = true
  records : ∀ p, v.owes p ≤ Config.maxRecords

theorem EngineOk.view {s : State} (h : EngineOk s) : s.view.Ok :=
  { asking := fun ha => by rw [show s.view.asking = false from h.asking] at ha; cases ha
    idle := h.idle, waiting := h.waiting, search := h.search, deckJob := h.deckJob, tapeJob := h.tapeJob, head := h.head
    owed := h.owed, records := h.records }

theorem EngineOk.of_view {s : State} (h : s.view.Ok) (ha : s.ope.asking = false) : EngineOk s :=
  { asking := ha, idle := h.idle, waiting := h.waiting, search := h.search, deckJob := h.deckJob, tapeJob := h.tapeJob
    head := h.head, owed := h.owed, records := h.records }

/-! ## Operations that leave the view -/

@[simp] theorem view_onTsv (f : Tsv → Tsv) (s : State) : (s.onTsv f).view = s.view := by
  simp [State.view]

@[simp] theorem view_onBbf (f : Bbf → Bbf) (s : State) : (s.onBbf f).view = s.view := by
  simp [State.view]

@[simp] theorem view_onBdr (f : Bdr → Bdr) (s : State) : (s.onBdr f).view = s.view := by
  simp [State.view]

@[simp] theorem view_onArb (f : Arb → Arb) (s : State) : (s.onArb f).view = s.view := by
  simp only [State.view]
  congr 1

@[simp] theorem view_drawn (n : Nat) (s : State) : (s.drawn n).view = s.view := by
  simp only [State.view]
  congr 1

theorem view_onDsq {f : Dsq → Dsq} {s : State} (hd : (f s.dsq).deck = s.dsq.deck) (hs : (f s.dsq).search = s.dsq.search) :
    (s.onDsq f).view = s.view := by
  simp [State.view, hd, hs]

theorem view_onOpe {f : Ope → Ope} {s : State} (h₁ : (f s.ope).job = s.ope.job) (h₂ : (f s.ope).waiting = s.ope.waiting)
    (h₃ : (f s.ope).phase = s.ope.phase) (h₄ : (f s.ope).asking = s.ope.asking) : (s.onOpe f).view = s.view := by
  simp [State.view, h₁, h₂, h₃, h₄]

theorem view_onPort {p : PortId} {f : Port → Port} {s : State} (hq : (f (s.port p)).queue = (s.port p).queue)
    (hn : (f (s.port p)).status.length = (s.port p).status.length) : (s.onPort p f).view = s.view := by
  simp only [State.view]
  congr 1
  · cases p <;> rfl
  · cases p <;> rfl
  · cases p <;> rfl
  · cases p <;> rfl
  · cases p <;> rfl
  · cases p <;> rfl
  · funext q
    cases p <;> cases q <;> first | exact hq | rfl
  · funext q
    cases p <;> cases q <;> first | rfl | (simp only [Port.recordCount, State.onPort, State.port] at hq hn ⊢; rw [hq, hn])

@[simp] theorem view_addEvent (k : EventKind) (p : PortId) (s : State) : (s.addEvent k p).view = s.view := by
  obtain ⟨v, hv⟩ := addEvent_eq k p s
  rw [hv]
  exact view_onPort rfl rfl

@[simp] theorem view_addEvents (k : EventKind) (s : State) : (s.addEvents k).view = s.view := by
  simp [State.addEvents]

@[simp] theorem view_boundPort (p : PortId) (s : State) : (s.boundPort p).view = s.view := by
  unfold State.boundPort
  dsimp only
  split
  · rw [view_addEvent]; exact view_onPort rfl rfl
  · exact view_onPort rfl rfl

@[simp] theorem view_boundPorts (s : State) : s.boundPorts.view = s.view := by simp [State.boundPorts]

@[simp] theorem view_setNext (p : PortId) (n : Nat) (s : State) : (s.setNext p n).view = s.view := view_onPort rfl rfl

@[simp] theorem view_jobNext (j : Job) (n : Nat) (s : State) : (s.jobNext j n).view = s.view := by
  unfold State.jobNext
  split
  · exact view_setNext _ _ _
  · rfl

@[simp] theorem view_rollbackTo (p : PortId) (f a : Nat) (s : State) : (s.rollbackTo p f a).view = s.view := by
  simp [State.rollbackTo]

@[simp] theorem view_rollbackOrphan (f : Nat) (s : State) : (s.rollbackOrphan f).view = s.view := by
  simp [State.rollbackOrphan]

@[simp] theorem view_defer (p : PortId) (n : Nat) (s : State) : (s.defer p n).view = s.view := by
  unfold State.defer
  rw [view_addEvent]
  exact view_onPort rfl rfl

@[simp] theorem view_deferOpt (p : PortId) (n : Option Nat) (s : State) : (s.deferOpt p n).view = s.view := by
  cases n
  · rfl
  · exact view_defer _ _ _

@[simp] theorem view_freeSlots (l : List Op) (s : State) : (s.freeSlots l).view = s.view := by
  unfold State.freeSlots
  induction l generalizing s with
  | nil => rfl
  | cons o l ih => exact (ih _).trans (view_onBbf _ _)

@[simp] theorem view_freeOwn (j : Job) (s : State) : (s.freeOwn j).view = s.view := view_onBbf _ _

@[simp] theorem view_latchTest (s : State) : s.latchTest.view = s.view := by
  unfold State.latchTest
  split
  · rfl
  · exact view_onOpe rfl rfl rfl rfl

@[simp] theorem view_engineOrder (f : Tsv → Tsv) (s : State) : (s.engineOrder f).view = s.view := view_onTsv _ _

@[simp] theorem view_runNormal (s : State) : s.runNormal.view = s.view := view_onTsv _ _

@[simp] theorem view_setTimer (t : Option SeqTimer) (s : State) : (s.setTimer t).view = s.view := view_onDsq rfl rfl

@[simp] theorem view_reportFault (x : FaultReport) (s : State) : (s.reportFault x).view = s.view := view_onDsq rfl rfl

@[simp] theorem view_reportWhen (b : Bool) (x : FaultReport) (s : State) : (s.reportWhen b x).view = s.view := by
  unfold State.reportWhen
  split
  · exact view_reportFault _ _
  · rfl

@[simp] theorem view_reportSeen (n : Nat) (s : State) : (s.reportSeen n).view = s.view := view_onBdr _ _

@[simp] theorem view_passSeen (n : Nat) (s : State) : (s.passSeen n).view = s.view := by
  unfold State.passSeen
  exact (view_onOpe rfl rfl rfl rfl).trans (view_reportSeen _ _)

@[simp] theorem view_portsAtLoadPoint (s : State) : s.portsAtLoadPoint.view = s.view :=
  (view_onPort rfl rfl).trans (view_onPort rfl rfl)

/-! ## Changes of the view -/

/-- The engine's part of the view changed. -/
def View.engine (v : View) (job waiting : Option Job) (phase : Phase) (asking : Bool) : View :=
  { v with job := job, waiting := waiting, phase := phase, asking := asking }

theorem view_engine {f : Ope → Ope} {s : State} :
    (s.onOpe f).view = s.view.engine (f s.ope).job (f s.ope).waiting (f s.ope).phase (f s.ope).asking := by
  simp [State.view, View.engine]

/-- The deck's part of the view changed. -/
def View.at (v : View) (d : Deck) (x : Option Search) : View := { v with deck := d, search := x }

theorem view_at {f : Dsq → Dsq} {s : State} : (s.onDsq f).view = s.view.at (f s.dsq).deck (f s.dsq).search := by
  simp [State.view, View.at]

/-- What the end of an operation needs of the view before it. -/
structure View.Base (v : View) : Prop where
  asking : v.asking = true → v.phase ≠ .idle
  search : ∀ x, v.search = some x → v.deck = (if x.pass = .load then .loadPointSearch else .rezero)
  owed : ∀ p, ∀ o ∈ v.queue p, o.cmd ≠ .writeBlock → o.owed = true
  records : ∀ p, v.owes p ≤ Config.maxRecords

theorem View.Ok.base {v : View} (h : v.Ok) : v.Base := ⟨fun ha => (h.asking ha).2.2, h.search, h.owed, h.records⟩

/-- An operation that leaves the engine: no job, its head and its debt gone from its port's queue and its record owed by the
status queue. -/
theorem View.Base.finish {v w : View} {j : Job} (h : v.Base)
    (he : w = v.engine none none v.phase v.asking ∨
      ∃ p, j.port = some p ∧ w.job = none ∧ w.waiting = none ∧ w.phase = v.phase ∧ w.asking = v.asking ∧ w.deck = v.deck
        ∧ w.search = v.search ∧ (∀ q, w.queue q = if q = p then (v.queue q).tail else v.queue q)
        ∧ (∀ q, w.owes q = v.owes q)) :
    w.Ok ∧ w.job = none ∧ w.waiting = none ∧ w.phase = v.phase ∧ w.asking = v.asking ∧ w.deck = v.deck := by
  rcases he with rfl | ⟨p, -, h₁, h₂, h₃, h₄, h₅, h₆, h₇, h₈⟩
  · refine ⟨?_, rfl, rfl, rfl, rfl, rfl⟩
    exact { asking := fun ha => ⟨rfl, rfl, h.asking ha⟩, idle := fun _ => rfl, waiting := fun hh => (by cases hh)
            search := h.search, deckJob := fun _ hh => (by cases hh)
            tapeJob := fun _ hh => (by cases hh)
            head := fun _ hh => (by rcases hh with hh | hh <;> cases hh), owed := h.owed, records := h.records }
  · refine ⟨?_, h₁, h₂, h₃, h₄, h₅⟩
    exact { asking := fun ha => ⟨h₁, h₂, by rw [h₃]; exact h.asking (by rw [← h₄]; exact ha)⟩, idle := fun _ => h₁
            waiting := fun hh => (by rw [h₂] at hh; cases hh)
            search := by rw [h₆, h₅]; exact h.search
            deckJob := fun _ hh => (by rw [h₁] at hh; cases hh)
            tapeJob := fun _ hh => (by rw [h₁] at hh; cases hh)
            head := fun _ hh => (by rw [h₁, h₂] at hh; rcases hh with hh | hh <;> cases hh)
            owed := fun q o ho => (by
              rw [h₇] at ho
              split at ho
              · exact h.owed q o (List.mem_of_mem_tail ho)
              · exact h.owed q o ho)
            records := fun q => by rw [h₈]; exact h.records q }

theorem Job.port_eq {j : Job} {p : PortId} : j.port = some p ↔ j.actor = .port p ∧ j.orphan = false := by
  unfold Job.port
  cases j.actor with
  | port q => simp; tauto
  | panel => simp

/-- The view after an operation has left its queue with the one record it owes. -/
theorem view_leave {j : Job} {r : Rec} {s : State} (hj : s.view.headIs j) :
    (s.leaveQueue j [r]).view = s.view ∨
      ∃ p, j.port = some p ∧ (s.leaveQueue j [r]).ope = s.ope ∧ (s.leaveQueue j [r]).dsq = s.dsq
        ∧ (∀ q, ((s.leaveQueue j [r]).port q).queue = if q = p then (s.port q).queue.tail else (s.port q).queue)
        ∧ (∀ q, ((s.leaveQueue j [r]).port q).recordCount = (s.port q).recordCount) := by
  unfold State.leaveQueue
  split
  · rename_i p ha
    split
    · exact .inl rfl
    · rename_i ho
      have hp : j.port = some p := Job.port_eq.2 ⟨ha, by simpa using ho⟩
      refine .inr ⟨p, hp, by cases p <;> rfl, by cases p <;> rfl, ?_, ?_⟩
      · intro q; cases p <;> cases q <;> rfl
      · intro q
        have hh := (hj p hp).1
        change (s.port p).queue.head? = some j.op at hh
        by_cases hq : q = p
        · subst hq
          have hc : (s.port q).queue = j.op :: (s.port q).queue.tail := by
            cases hl : (s.port q).queue with
            | nil => rw [hl] at hh; cases hh
            | cons o l => rw [hl] at hh; simp only [List.head?_cons, Option.some.injEq] at hh; simp [hh]
          have : ((s.onPort q (fun x => { x with queue := x.queue.tail, status := x.status ++ (if j.op.owed then [r] else []) })).port q)
              = { s.port q with queue := (s.port q).queue.tail, status := (s.port q).status ++ (if j.op.owed then [r] else []) } := by
            cases q <;> rfl
          rw [this]
          simp only [Port.recordCount]
          conv_rhs => rw [hc]
          rw [List.length_append, List.countP_cons]
          cases j.op.owed
          · simp
          · simp; omega
        · cases p <;> cases q <;> first | rfl | exact absurd rfl hq
  · exact .inl rfl

/-- What is left when an operation has ended: nothing executes and nothing waits. -/
structure Ended (s t : State) : Prop where
  ok : t.view.Ok
  job : t.ope.job = none
  waiting : t.ope.waiting = none
  phase : t.ope.phase = s.ope.phase
  asking : t.ope.asking = s.ope.asking
  deck : t.dsq.deck = s.dsq.deck

theorem Ended.of_view {s t u : State} (h : Ended s t) (hv : u.view = t.view) : Ended s u :=
  { ok := by rw [hv]; exact h.ok, job := (congrArg View.job hv).trans h.job, waiting := (congrArg View.waiting hv).trans h.waiting
    phase := (congrArg View.phase hv).trans h.phase, asking := (congrArg View.asking hv).trans h.asking
    deck := (congrArg View.deck hv).trans h.deck }

theorem Ended.drop {s t : State} {j : Job} {r : Rec} (h : s.view.Base) (hw : s.ope.waiting = none) (hj : s.view.headIs j)
    (ht : t.view = (s.leaveQueue j [r]).view.engine none (s.leaveQueue j [r]).view.waiting (s.leaveQueue j [r]).view.phase
      (s.leaveQueue j [r]).view.asking) : Ended s t := by
  have key := h.finish (w := t.view) (j := j) (by
    rcases view_leave (r := r) hj with hv | ⟨p, hp, ho, hd, hq, hn⟩
    · left; rw [ht, hv, show s.view.waiting = none from hw]
    · right
      refine ⟨p, hp, ?_⟩
      rw [ht]
      refine ⟨rfl, ?_, ?_, ?_, ?_, ?_, hq, hn⟩
      · exact (congrArg Ope.waiting ho).trans hw
      · exact congrArg Ope.phase ho
      · exact congrArg Ope.asking ho
      · exact congrArg Dsq.deck hd
      · exact congrArg Dsq.search hd)
  obtain ⟨h₁, h₂, h₃, h₄, h₅, h₆⟩ := key
  exact ⟨h₁, h₂, h₃, h₄, h₅, h₆⟩

theorem view_dropJob (s : State) : s.dropJob.view = s.view.engine none s.view.waiting s.view.phase s.view.asking := by
  unfold State.dropJob
  rw [view_latchTest, view_engine]
  rfl

theorem Ended.finishJob {s : State} {j : Job} (c : Code) (detail : Nat) (h : s.view.Base) (hw : s.ope.waiting = none)
    (hj : s.view.headIs j) : Ended s (s.finishJob j c detail) :=
  Ended.drop h hw hj (view_dropJob _)

/-- A job is held for a tape operation: it is the head of its queue, nothing waits, and the deck is READY. -/
structure Runs (s : State) (j : Job) : Prop where
  ok : s.view.Ok
  head : s.view.headIs j
  waiting : s.ope.waiting = none
  asking : s.ope.asking = false
  deck : s.dsq.deck = .ready

theorem Runs.of_view {s t : State} {j : Job} (h : Runs s j) (hv : t.view = s.view) : Runs t j :=
  { ok := by rw [hv]; exact h.ok, head := by rw [hv]; exact h.head, waiting := (congrArg View.waiting hv).trans h.waiting
    asking := (congrArg View.asking hv).trans h.asking, deck := (congrArg View.deck hv).trans h.deck }

theorem Runs.congr {s : State} {j k : Job} (h : Runs s j) (hp : k.port = j.port) (ho : k.op = j.op) : Runs s k :=
  { h with head := fun p hh => by rw [ho]; exact h.head p (hp ▸ hh) }

/-- The job is put to a stage of the tape, in a phase other than IDLE. -/
theorem Runs.put {s t : State} {j k : Job} {ph : Phase} (h : Runs s j) (hp : k.port = j.port) (ho : k.op = j.op)
    (hs : k.stage ≠ .deck) (hph : ph ≠ .idle) (ht : t.view = s.view.engine (some k) none ph false) : t.view.Ok := by
  have hk : s.view.headIs k := (h.congr hp ho).head
  rw [ht]
  exact { asking := fun ha => (by cases ha), idle := fun hh => absurd hh hph, waiting := fun hh => (by cases hh)
          search := h.ok.search
          deckJob := fun j' hh hst => by obtain rfl := Option.some.inj hh; exact absurd hst hs
          tapeJob := fun _ _ _ => h.deck
          head := fun j' hh => by
            rcases hh with hh | hh
            · obtain rfl := Option.some.inj hh; exact hk
            · cases hh
          owed := h.ok.owed, records := h.ok.records }

theorem Ended.after {s t : State} (h : Ended s t) (atRest : Bool) (hp : atRest = false → s.ope.phase ≠ .idle) :
    (t.after atRest).view.Ok ∧ (t.after atRest).ope.job = none ∧ (t.after atRest).ope.waiting = none := by
  unfold State.after
  cases atRest
  · refine ⟨?_, h.job, h.waiting⟩
    have : (t.askAtEnd).view = t.view.engine t.view.job t.view.waiting t.view.phase true := view_engine
    rw [if_neg (by decide), this]
    exact { h.ok with asking := fun _ => ⟨h.job, h.waiting, by rw [show (t.view.engine t.view.job t.view.waiting t.view.phase true).phase = s.ope.phase from h.phase]; exact hp rfl⟩ }
  · refine ⟨?_, h.job, h.waiting⟩
    have : (t.goIdle).view = t.view.engine t.view.job t.view.waiting .idle false := view_engine
    rw [if_pos rfl, this]
    refine { h.ok with asking := fun ha => (by cases ha), idle := fun _ => h.job, waiting := fun hh => ?_ }
    rw [show (t.view.engine t.view.job t.view.waiting .idle false).waiting = none from h.waiting] at hh
    cases hh

/-! ## Operations of the engine -/

theorem Runs.moveTo {s : State} {j : Job} (h : Runs s j) {st : Stage} (hs : st ≠ .deck) (x : Int) (f : Bool) :
    (s.moveTo j st x f).view.Ok :=
  h.put (k := { j with stage := st, moveTarget := x }) (ph := .move) rfl rfl hs (by decide) (by
    unfold State.moveTo
    rw [view_engineOrder, view_engine]
    exact congrArg₂ (fun a b => s.view.engine _ a _ b) h.waiting h.asking)

theorem Runs.stopAt {s : State} {j : Job} (h : Runs s j) {st : Stage} (hs : st ≠ .deck) : (s.stopAt j st).view.Ok :=
  h.put (k := { j with stage := st }) (ph := .stop) rfl rfl hs (by decide) (by
    unfold State.stopAt
    rw [view_engineOrder, view_engine]
    exact congrArg₂ (fun a b => s.view.engine _ a _ b) h.waiting h.asking)

theorem Runs.runWrite {s : State} {j : Job} (h : Runs s j) (a : Nat) : (s.runWrite j a).view.Ok :=
  h.put (k := { j with stage := .writing }) (ph := .run) rfl rfl (by simp) (by decide) (by
    unfold State.runWrite
    rw [view_runNormal, view_engine]
    exact congrArg₂ (fun a b => s.view.engine _ a _ b) h.waiting h.asking)

theorem Runs.runRead {s : State} {j : Job} (h : Runs s j) (a : Nat) : (s.runRead j a).view.Ok := by
  unfold State.runRead
  dsimp only
  have key : ∀ t : State, t.view = s.view →
      (State.runNormal (t.onOpe (fun e =>
        { e with job := some { j with stage := .reading }, phase := .run, attempt := a, wrErase := false,
                 seen := Seen.nothing }))).view.Ok := fun t ht =>
    (h.of_view ht).put (k := { j with stage := .reading }) (ph := .run) rfl rfl (by simp) (by decide) (by
      rw [view_runNormal, view_engine]
      exact congrArg₂ (fun a b => t.view.engine _ a _ b) (h.of_view ht).waiting (h.of_view ht).asking)
  split
  · exact key _ (view_onBbf _ _)
  · exact key _ rfl

theorem Runs.runScan {s : State} {j : Job} (h : Runs s j) {st : Stage} (hs : st ≠ .deck) : (s.runScan j st).view.Ok :=
  h.put (k := { j with stage := st }) (ph := .scan) rfl rfl hs (by decide) (by
    unfold State.runScan
    rw [view_runNormal, view_engine]
    exact congrArg₂ (fun a b => s.view.engine _ a _ b) h.waiting h.asking)

theorem Runs.runCrossing {s : State} {j : Job} (h : Runs s j) (atRest : Bool) : (s.runCrossing j atRest).view.Ok :=
  ((h.of_view (view_onOpe rfl rfl rfl rfl)).congr (k := { j with crossed := 0 }) rfl rfl).runScan (by simp)

/-- At an end point the tape runs: the engine is not IDLE. -/
def RestOr (atRest : Bool) (s : State) : Prop := atRest = false → s.ope.phase ≠ .idle

theorem Runs.finishJob {s : State} {j : Job} (h : Runs s j) (c : Code) (detail : Nat) : Ended s (s.finishJob j c detail) :=
  Ended.finishJob c detail h.ok.base h.waiting h.head

theorem Runs.endOp {s : State} {j : Job} (h : Runs s j) (c : Code) (detail : Nat) {atRest : Bool} (ha : RestOr atRest s) :
    (s.endOp j c detail atRest).view.Ok := ((h.finishJob c detail).after atRest ha).1

/-- A queue lost whole: the operations that owe a record have their records (R162). -/
theorem view_loseAll (p : PortId) (lost : List Op) (s : State) (hl : lost = (s.port p).queue) :
    (s.loseOps p [] lost).view =
      { s.view with queue := fun q => if q = p then [] else s.view.queue q } := by
  unfold State.loseOps
  subst hl
  have hv := view_freeSlots (s.port p).queue s
  generalize s.freeSlots (s.port p).queue = t at hv
  have hq : ∀ q, (t.port q).queue = (s.port q).queue := fun q => congrFun (congrArg View.queue hv) q
  have hn : ∀ q, (t.port q).recordCount = (s.port q).recordCount := fun q => congrFun (congrArg View.owes hv) q
  rw [← hv]
  simp only [State.view]
  congr 1
  any_goals (cases p <;> rfl)
  · funext q
    cases p <;> cases q <;> rfl
  · funext q
    have key : ∀ x : Port, x = t.port p →
        ({ x with queue := [], status := x.status ++ owedRecs .cancelled lostDetail (s.port p).queue } : Port).recordCount = x.recordCount := by
      intro x hx
      have := hq p
      rw [← hx] at this
      simp [Port.recordCount, owedRecs, this, List.countP_eq_length_filter]
    cases p <;> cases q <;> first | rfl | exact key _ rfl

theorem View.Ok.shrink {v w : View} (h : v.Ok) (hj : v.job = none) (hw : v.waiting = none)
    (he : w = { v with queue := w.queue, owes := w.owes }) (hq : ∀ p, ∀ o ∈ w.queue p, o ∈ v.queue p)
    (hn : ∀ p, w.owes p ≤ v.owes p) : w.Ok := by
  rw [he]
  exact { h with head := fun j hh => (by rw [hj, hw] at hh; rcases hh with hh | hh <;> cases hh)
                 owed := fun p o ho => h.owed p o (hq p o ho), records := fun p => (hn p).trans (h.records p) }

theorem Ended.loseAll {s t : State} (h : Ended s t) (p : PortId) : Ended s (t.loseOps p [] (t.port p).queue) := by
  have hv := view_loseAll p _ t rfl
  have hok : (t.loseOps p [] (t.port p).queue).view.Ok := by
    rw [hv]
    refine h.ok.shrink h.job h.waiting rfl (fun q o ho => ?_) (fun _ => Nat.le_refl _)
    dsimp only at ho
    split at ho
    · cases ho
    · exact ho
  exact { ok := hok, job := (congrArg View.job hv).trans h.job, waiting := (congrArg View.waiting hv).trans h.waiting
          phase := (congrArg View.phase hv).trans h.phase, asking := (congrArg View.asking hv).trans h.asking
          deck := (congrArg View.deck hv).trans h.deck }

theorem Runs.failWrite {s : State} {j : Job} (h : Runs s j) (c : Code) (detail : Nat) : Ended s (s.failWrite j c detail) := by
  have hv := view_freeOwn j s
  have h₀ : Ended s ((s.freeOwn j).finishJob j c detail) :=
    { (h.of_view hv).finishJob c detail with
      phase := ((h.of_view hv).finishJob c detail).phase.trans (congrArg View.phase hv)
      asking := ((h.of_view hv).finishJob c detail).asking.trans (congrArg View.asking hv)
      deck := ((h.of_view hv).finishJob c detail).deck.trans (congrArg View.deck hv) }
  unfold State.failWrite
  dsimp only
  split
  · exact h₀.of_view (view_rollbackOrphan _ _)
  · exact (h₀.loseAll _).of_view ((view_deferOpt _ _ _).trans (view_rollbackTo _ _ _ _))

theorem Runs.endFailed' {s : State} {j : Job} (h : Runs s j) (c : Code) (detail : Nat) {atRest : Bool} (ha : RestOr atRest s) :
    (s.endFailed j c detail atRest).view.Ok ∧ (s.endFailed j c detail atRest).ope.job = none := by
  unfold State.endFailed
  split
  · have := (h.failWrite c detail).after atRest ha
    exact ⟨this.1, this.2.1⟩
  · have hv := view_freeOwn j s
    have := ((h.of_view hv).finishJob c detail).after atRest (fun hh => by rw [show (s.freeOwn j).ope.phase = s.ope.phase from congrArg View.phase hv]; exact ha hh)
    exact ⟨this.1, this.2.1⟩

theorem Runs.endFailed {s : State} {j : Job} (h : Runs s j) (c : Code) (detail : Nat) {atRest : Bool} (ha : RestOr atRest s) :
    (s.endFailed j c detail atRest).view.Ok := (h.endFailed' c detail ha).1

theorem RestOr.of_view {s t : State} {atRest : Bool} (h : RestOr atRest s) (hv : t.view = s.view) : RestOr atRest t := by
  intro hh
  rw [show t.ope.phase = s.ope.phase from congrArg View.phase hv]
  exact h hh

theorem RestOr.rest {s : State} : RestOr true s := fun hh => by cases hh

theorem Runs.endOfData {s : State} {j : Job} (h : Runs s j) {atRest : Bool} (ha : RestOr atRest s) :
    (s.endOfData j atRest).view.Ok := by
  unfold State.endOfData
  split
  · exact h.endOp _ _ ha
  · exact (h.of_view (view_freeOwn j s)).endOp _ _ (ha.of_view (view_freeOwn j s))

theorem View.Ok.same {s t : State} (h : s.view.Ok) (hv : t.view = s.view) : t.view.Ok := by rw [hv]; exact h

theorem Runs.positioned {s : State} {j : Job} (h : Runs s j) {atRest : Bool} (ha : RestOr atRest s) :
    (s.positioned j atRest).view.Ok := by
  unfold State.positioned
  have hn : ∀ n, (s.jobNext j n).view = s.view := fun n => view_jobNext j n s
  split
  · split
    · exact h.endOfData ha
    · exact h.runRead _
  · exact h.runWrite _
  · exact h.runWrite _
  · split
    · split
      · exact h.endOfData ha
      · exact h.runCrossing _
    · exact (h.of_view (hn _)).endOp _ _ (ha.of_view (hn _))
  · exact (h.of_view (hn _)).endOp _ _ (ha.of_view (hn _))
  · exact h.ok

theorem Runs.positionMove {s : State} {j : Job} (h : Runs s j) (w : Way) (x : Int) : (s.positionMove j w x).view.Ok :=
  h.moveTo (by simp) _ _

theorem Runs.positionTo {s : State} {j : Job} (h : Runs s j) {atRest : Bool} (ha : RestOr atRest s) :
    (s.positionTo j atRest).view.Ok := by
  unfold State.positionTo
  dsimp only
  repeat' split
  all_goals first
    | exact h.positioned ha
    | exact h.positionMove _ _
    | exact h.runScan (by simp)

/-! ## Operations of the deck sequencer -/

/-- No tape operation: nothing waits, the arbiter is not being asked, and what the engine holds is a LOAD or UNLOAD. -/
structure View.Held (v : View) : Prop where
  asking : v.asking = false
  waiting : v.waiting = none
  idle : v.phase = .idle → v.job = none
  job : ∀ j, v.job = some j → j.stage = .deck ∧ (j.op.cmd = .load ∨ j.op.cmd = .unload) ∧ v.headIs j
  owed : ∀ p, ∀ o ∈ v.queue p, o.cmd ≠ .writeBlock → o.owed = true
  records : ∀ p, v.owes p ≤ Config.maxRecords

theorem EngineOk.held {s : State} (h : EngineOk s) (hd : s.dsq.deck ≠ .ready) : s.view.Held :=
  { asking := h.asking
    waiting := (by
      by_contra hw
      exact hd (h.waiting (Option.isSome_iff_ne_none.2 hw)).2.2)
    idle := h.idle
    job := fun j hj => (by
      by_cases hs : j.stage = .deck
      · exact ⟨hs, (h.deckJob j hj hs).1, h.head j (.inl hj)⟩
      · exact absurd (h.tapeJob j hj hs) hd)
    owed := h.owed, records := h.records }

/-- The deck goes to a state in which what the engine holds may be held. -/
theorem View.Held.to {v : View} (h : v.Held) {d : Deck} {x : Option Search}
    (hd : v.job = none ∨ d ∈ [Deck.vacuumUp, .loopForm, .loadPointSearch, .rewindOut, .windOff])
    (hx : ∀ y, x = some y → d = (if y.pass = .load then .loadPointSearch else .rezero)) : (v.at d x).Ok :=
  { asking := fun ha => absurd (h.asking.symm.trans ha) (by decide)
    idle := h.idle
    waiting := fun hw => (by rw [show (v.at d x).waiting = none from h.waiting] at hw; cases hw)
    search := hx
    deckJob := fun j hj _ => (by
      refine ⟨(h.job j hj).2.1, hd.resolve_left ?_⟩
      rw [show v.job = some j from hj]; simp)
    tapeJob := fun j hj hs => absurd (h.job j hj).1 hs
    head := fun j hj => (by
      rcases hj with hj | hj
      · exact (h.job j hj).2.2
      · rw [show (v.at d x).waiting = none from h.waiting] at hj; cases hj)
    owed := h.owed, records := h.records }

theorem View.Held.at {v : View} (h : v.Held) (d : Deck) (x : Option Search) : (v.at d x).Held :=
  { asking := h.asking, waiting := h.waiting, idle := h.idle, job := h.job, owed := h.owed, records := h.records }

/-- A LOAD or UNLOAD that the engine holds ends (R9, R11): nothing executes. -/
theorem View.Held.finishDeck {s : State} (h : s.view.Held)
    (hx : ∀ x, s.dsq.search = some x → s.dsq.deck = (if x.pass = .load then .loadPointSearch else .rezero)) (c : Cmd → Code) :
    (s.finishDeckJob c).view.Ok ∧ (s.finishDeckJob c).ope.job = none ∧ (s.finishDeckJob c).ope.asking = false := by
  unfold State.finishDeckJob
  split
  · rename_i j hj
    have hh := h.job j hj
    rw [if_pos hh.1]
    have he := Ended.finishJob (c j.op.cmd) 0 ⟨fun ha => absurd (h.asking.symm.trans ha) (by decide), hx, h.owed, h.records⟩
      h.waiting hh.2.2
    have := he.after true (fun hh => by cases hh)
    exact ⟨this.1, this.2.1, rfl⟩
  · rename_i hj
    exact ⟨h.to (d := s.dsq.deck) (x := s.dsq.search) (.inl hj) hx, hj, h.asking⟩

theorem view_enterDeck (d : Deck) (s : State) : (s.enterDeck d).view = s.view.at d s.dsq.search := view_at

theorem view_setSearch (x : Option Search) (s : State) : (s.setSearch x).view = s.view.at s.dsq.deck x := view_at

theorem view_beginSearch (p : SearchPass) (s : State) : (s.beginSearch p).view = s.view.at s.dsq.deck (some ⟨p, .running⟩) :=
  view_at

theorem view_enterLoopForm (s : State) : s.enterLoopForm.view = s.view.at .loopForm s.dsq.search := by
  unfold State.enterLoopForm
  rw [view_onTsv, view_setTimer, view_enterDeck]

theorem view_loadStart (s : State) :
    s.loadStart.view = s.view.at .vacuumUp s.dsq.search ∨ s.loadStart.view = s.view.at .loopForm s.dsq.search := by
  unfold State.loadStart
  dsimp only
  have h : (((s.enterDeck .vacuumUp).setTimer (some .vacuumUp)).onTsv Tsv.loadStart).view = s.view.at .vacuumUp s.dsq.search := by
    rw [view_onTsv, view_setTimer, view_enterDeck]
  split
  · right
    rw [view_enterLoopForm, h]
    rfl
  · exact .inl h

theorem View.Held.loadStart {s : State} (h : s.view.Held) (hx : s.dsq.search = none) : s.loadStart.view.Ok := by
  rcases view_loadStart s with hv | hv
  · rw [hv, hx]; exact h.to (.inr (by simp)) (fun y hy => by cases hy)
  · rw [hv, hx]; exact h.to (.inr (by simp)) (fun y hy => by cases hy)

theorem View.Held.loadFail {s : State} (h : s.view.Held) :
    s.loadFail.view.Ok ∧ s.loadFail.ope.job = none ∧ s.loadFail.ope.asking = false := by
  unfold State.loadFail
  have hv : (((((s.onTsv Tsv.hardStop).enterDeck .unloaded).setTimer none).setSearch none).latchTest).view
      = s.view.at .unloaded none := by
    rw [view_latchTest, view_setSearch, view_setTimer, view_enterDeck, view_onTsv]
    rfl
  refine View.Held.finishDeck (by rw [hv]; exact h.at _ _) ?_ _
  intro x hx
  rw [show (((((s.onTsv Tsv.hardStop).enterDeck .unloaded).setTimer none).setSearch none).latchTest).dsq.search = none from
    congrArg View.search hv] at hx
  cases hx

theorem view_enterLoadPointSearch (s : State) :
    s.enterLoadPointSearch.view = s.view.at .loadPointSearch (some ⟨.load, .running⟩) := by
  unfold State.enterLoadPointSearch
  rw [view_onTsv, view_beginSearch, view_setTimer, view_enterDeck]
  rfl

theorem view_enterRezero (s : State) : s.enterRezero.view = s.view.at .rezero (some ⟨.rezeroReverse, .running⟩) := by
  unfold State.enterRezero
  rw [view_onTsv, view_onBdr, view_beginSearch, view_setTimer, view_enterDeck]
  rfl

theorem view_rezeroForward (s : State) : s.rezeroForward.view = s.view.at s.dsq.deck (some ⟨.rezeroForward, .running⟩) := by
  unfold State.rezeroForward
  rw [view_onTsv, view_beginSearch]

theorem view_enterReady (s : State) : s.enterReady.view = s.view.at .ready none := by
  unfold State.enterReady
  rw [view_latchTest, view_onTsv, view_setSearch, view_setTimer, view_enterDeck]
  rfl

theorem view_enterRewindOut (s : State) : s.enterRewindOut.view = s.view.at .rewindOut none := by
  unfold State.enterRewindOut
  rw [view_onTsv, view_setSearch, view_setTimer, view_enterDeck]
  rfl

theorem view_enterWindOff (s : State) : s.enterWindOff.view = s.view.at .windOff none := by
  unfold State.enterWindOff
  rw [view_onTsv, view_setSearch, view_setTimer, view_enterDeck]
  rfl

theorem View.Held.readyFromLoad {s : State} (h : s.view.Held) : s.readyFromLoad.view.Ok ∧ s.readyFromLoad.ope.asking = false := by
  have key : ∀ t : State, t.view = s.view →
      (((t.enterReady).finishDeckJob (fun _ => .ok)).addEvents .deckReady).view.Ok
        ∧ (((t.enterReady).finishDeckJob (fun _ => .ok)).addEvents .deckReady).ope.asking = false := by
    intro t ht
    have hv := view_enterReady t
    rw [ht] at hv
    have := View.Held.finishDeck (s := t.enterReady) (by rw [hv]; exact h.at _ _)
      (fun x hx => by rw [show t.enterReady.dsq.search = none from congrArg View.search hv] at hx; cases hx) (fun _ => .ok)
    refine ⟨by rw [view_addEvents]; exact this.1, ?_⟩
    exact (congrArg View.asking (view_addEvents .deckReady (t.enterReady.finishDeckJob fun _ => .ok))).trans this.2.2
  unfold State.readyFromLoad
  exact key _ (by
    rw [view_onOpe rfl rfl rfl rfl, view_onTsv, view_onDsq rfl rfl, view_portsAtLoadPoint, view_onBdr])

theorem view_readyFromRezero (s : State) : s.readyFromRezero.view = s.view.at .ready none := by
  unfold State.readyFromRezero
  rw [view_addEvents, view_enterReady, view_onOpe rfl rfl rfl rfl]

/-- Operations removed from a queue: those that owe a record have their records (R162). -/
theorem view_loseOps (p : PortId) (f : Op → Bool) (s : State) :
    (s.loseOps p ((s.port p).queue.filter (fun o => !f o)) ((s.port p).queue.filter f)).view =
      { s.view with queue := fun q => if q = p then (s.view.queue q).filter (fun o => !f o) else s.view.queue q } := by
  unfold State.loseOps
  have hv := view_freeSlots ((s.port p).queue.filter f) s
  generalize s.freeSlots ((s.port p).queue.filter f) = t at hv
  have hq : ∀ q, (t.port q).queue = (s.port q).queue := fun q => congrFun (congrArg View.queue hv) q
  rw [← hv]
  simp only [State.view]
  congr 1
  any_goals (cases p <;> rfl)
  · funext q
    have := hq p
    cases p <;> cases q <;> first | rfl | (simp only [State.onPort, State.port, if_true] at this ⊢; rw [this])
  · funext q
    have key : ∀ x : Port, x = t.port p →
        ({ x with queue := (s.port p).queue.filter (fun o => !f o),
                  status := x.status ++ owedRecs .cancelled lostDetail ((s.port p).queue.filter f) } : Port).recordCount = x.recordCount := by
      intro x hx
      have := hq p
      rw [← hx] at this
      have hc : (s.port p).queue.countP Op.owed
          = ((s.port p).queue.filter f).countP Op.owed + ((s.port p).queue.filter (fun o => !f o)).countP Op.owed := by
        simpa using List.countP_eq_countP_filter_add (s.port p).queue Op.owed f
      simp only [Port.recordCount, owedRecs, this, List.length_append, List.length_map, ← List.countP_eq_length_filter]
      omega
    cases p <;> cases q <;> first | rfl | exact key _ rfl

theorem View.Held.lose {v : View} (h : v.Held) (p : PortId) :
    ({ v with queue := fun q => if q = p then (v.queue q).filter (fun o => !o.cmd.isWrite) else v.queue q } : View).Held :=
  { asking := h.asking, waiting := h.waiting, idle := h.idle
    job := fun j hj => (by
      obtain ⟨h₁, h₂, h₃⟩ := h.job j hj
      refine ⟨h₁, h₂, fun q hq => ?_⟩
      obtain ⟨h₄, h₅⟩ := h₃ q hq
      refine ⟨?_, h₅⟩
      dsimp only
      split
      · cases hl : v.queue q with
        | nil => rw [hl] at h₄; cases h₄
        | cons o l =>
          rw [hl] at h₄
          obtain rfl := Option.some.inj h₄
          have : j.op.cmd.isWrite = false := by rcases h₂ with h₂ | h₂ <;> rw [h₂] <;> rfl
          simp [this]
      · exact h₄)
    owed := fun q o ho => (by
      dsimp only at ho
      split at ho
      · exact h.owed q o (List.mem_filter.1 ho).1
      · exact h.owed q o ho)
    records := h.records }

theorem View.Held.unloadEffects {s : State} (h : s.view.Held) :
    s.unloadEffects.view.Held ∧ s.unloadEffects.ope.job = s.ope.job ∧ s.unloadEffects.dsq.deck = s.dsq.deck
      ∧ s.unloadEffects.dsq.search = s.dsq.search := by
  have h₁ : s.releaseForUnload.view.Held ∧ s.releaseForUnload.view.job = s.ope.job
      ∧ s.releaseForUnload.view.deck = s.dsq.deck ∧ s.releaseForUnload.view.search = s.dsq.search := by
    unfold State.releaseForUnload
    split
    · exact ⟨h, rfl, rfl, rfl⟩
    · rename_i p _
      dsimp only
      rw [view_addEvents, view_onArb, view_loseOps p (fun o => o.cmd.isWrite) s]
      exact ⟨h.lose p, rfl, rfl, rfl⟩
  have hv : s.unloadEffects.view = s.releaseForUnload.view := by
    unfold State.unloadEffects
    dsimp only
    rw [view_onBbf, view_onOpe rfl rfl rfl rfl, view_portsAtLoadPoint, view_onBdr, view_onDsq rfl rfl]
  refine ⟨by rw [hv]; exact h₁.1, ?_, ?_, ?_⟩
  · exact (congrArg View.job hv).trans h₁.2.1
  · exact (congrArg View.deck hv).trans h₁.2.2.1
  · exact (congrArg View.search hv).trans h₁.2.2.2

theorem View.Held.unloadStart {s : State} (h : s.view.Held) (b : Bool) :
    (s.unloadStart b).view.Ok ∧ (s.unloadStart b).ope.asking = false := by
  have hu := h.unloadEffects
  have hv : (s.unloadStart b).view = s.unloadEffects.view.at .rewindOut none := by
    unfold State.unloadStart
    dsimp only
    split
    · rw [view_addEvents, view_enterRewindOut]
    · rw [view_enterRewindOut]
  rw [hv]
  exact ⟨hu.1.to (.inr (by simp)) (fun y hy => by cases hy), (congrArg View.asking hv).trans hu.1.asking⟩

theorem View.Held.windOffEnd {s : State} (h : s.view.Held) (hx : s.dsq.search = none) :
    s.windOffEnd.view.Ok ∧ s.windOffEnd.ope.asking = false := by
  unfold State.windOffEnd
  have hv : ((((s.onTsv (fun v => v.zeroReels.present)).enterDeck .unloaded).setTimer none).latchTest).view
      = s.view.at .unloaded none := by
    rw [view_latchTest, view_setTimer, view_enterDeck, view_onTsv]
    exact congrArg (s.view.at .unloaded) hx
  have := View.Held.finishDeck (s := (((s.onTsv (fun v => v.zeroReels.present)).enterDeck .unloaded).setTimer none).latchTest)
    (by rw [hv]; exact h.at _ _) (by
    intro x hx
    rw [show ((((s.onTsv (fun v => v.zeroReels.present)).enterDeck .unloaded).setTimer none).latchTest).dsq.search = none from
      congrArg View.search hv] at hx
    cases hx) unloadedCode
  exact ⟨this.1, this.2.2⟩

/-! ## The fault stop and the clears -/

theorem view_freeJob (j : Option Job) (s : State) : (s.freeJob j).view = s.view := by
  cases j
  · rfl
  · exact view_onBbf _ _

theorem view_orphanRollback (j : Option Job) (s : State) : (s.orphanRollback j).view = s.view := by
  unfold State.orphanRollback
  split
  · split
    · exact view_rollbackOrphan _ _
    · rfl
  · rfl

theorem view_faultRollback (p : PortId) (l : List Op) (s : State) : (s.faultRollback p l).view = s.view := by
  unfold State.faultRollback
  split
  · rw [view_deferOpt, view_rollbackTo]
  · rfl

/-- Operations removed with their records: none owes more than before. -/
theorem view_removeMotion (p : PortId) (s : State) :
    (s.removeMotion p).view =
      { s.view with queue := fun q => if q = p then (s.view.queue q).filter (fun o => !o.cmd.isMotion) else s.view.queue q } := by
  unfold State.removeMotion
  dsimp only
  have hv := view_freeSlots ((s.port p).queue.filter (fun o => o.cmd.isMotion)) s
  generalize s.freeSlots ((s.port p).queue.filter (fun o => o.cmd.isMotion)) = t at hv
  have hq : ∀ q, (t.port q).queue = (s.port q).queue := fun q => congrFun (congrArg View.queue hv) q
  rw [← hv]
  simp only [State.view]
  congr 1
  any_goals (cases p <;> rfl)
  · funext q
    have := hq p
    cases p <;> cases q <;> first | rfl | (simp only [State.onPort, State.port, if_true] at this ⊢; rw [this])
  · funext q
    have key : ∀ x : Port, x = t.port p →
        ({ x with queue := (s.port p).queue.filter (fun o => !o.cmd.isMotion)
                  status := x.status ++ owedRecs .faultAborted (fun _ => 0) ((s.port p).queue.filter (fun o => o.cmd.isMotion)) } :
          Port).recordCount = x.recordCount := by
      intro x hx
      have := hq p
      rw [← hx] at this
      have hc : (s.port p).queue.countP Op.owed
          = ((s.port p).queue.filter (fun o => o.cmd.isMotion)).countP Op.owed
            + ((s.port p).queue.filter (fun o => !o.cmd.isMotion)).countP Op.owed := by
        simpa using List.countP_eq_countP_filter_add (s.port p).queue Op.owed (fun o => o.cmd.isMotion)
      simp only [Port.recordCount, owedRecs, this, List.length_append, List.length_map, ← List.countP_eq_length_filter]
      omega
    cases p <;> cases q <;> first | rfl | exact key _ rfl

theorem EngineOk.faultStop {s : State} (h : EngineOk s) (k : FaultKind) :
    (s.beginFaultStop k).view.Ok ∧ (s.beginFaultStop k).ope.asking = false := by
  have hv : (s.beginFaultStop k).view =
      { s.view with job := none, waiting := none, phase := .idle, asking := false, deck := .faultStop, search := none,
                    queue := fun q => (s.view.queue q).filter (fun o => !o.cmd.isMotion) } := by
    unfold State.beginFaultStop
    dsimp only
    rw [view_addEvents, view_faultRollback, view_faultRollback, view_orphanRollback, view_orphanRollback, view_removeMotion,
      view_removeMotion, view_freeJob, view_freeJob]
    have hn : (State.engineNotice ((s.onDsq (fun q => { q.enter .faultStop with faultKind := some k, escKind := none, resume := some q.deck, timer := none, search := none })).onTsv Tsv.orderFaultRamp)).view
        = { s.view with job := none, waiting := none, phase := .idle, asking := false, deck := .faultStop, search := none } := by
      unfold State.engineNotice
      rw [view_onArb, view_engine, view_onTsv, view_at]
      rfl
    rw [hn]
    simp only [View.mk.injEq, true_and, and_true]
    funext q
    cases q <;> simp
  refine ⟨?_, (congrArg View.asking hv)⟩
  rw [hv]
  exact { asking := fun ha => (by cases ha), idle := fun _ => rfl, waiting := fun hw => (by cases hw)
          search := fun x hx => (by cases hx), deckJob := fun j hj => (by cases hj), tapeJob := fun j hj => (by cases hj)
          head := fun j hj => (by rcases hj with hj | hj <;> cases hj)
          owed := fun p o ho => h.owed p o (List.mem_filter.1 ho).1
          records := h.records }

/-- A FAULTED or stopping deck: nothing executes, nothing waits, no search runs. -/
theorem EngineOk.still {s : State} (h : EngineOk s)
    (hd : s.dsq.deck = .unloaded ∨ s.dsq.deck = .faultStop ∨ s.dsq.deck = .faultedSoft ∨ s.dsq.deck = .faultedHard) :
    s.view.Held ∧ s.ope.job = none ∧ s.dsq.search = none := by
  have hn : s.dsq.deck ≠ .ready := by rintro hr; rw [hr] at hd; simp at hd
  have hh := h.held hn
  refine ⟨hh, ?_, ?_⟩
  · by_contra hj
    obtain ⟨j, hj⟩ := Option.ne_none_iff_exists'.1 hj
    have := (h.deckJob j hj (hh.job j hj).1).2
    rcases hd with hd | hd | hd | hd <;> rw [hd] at this <;> simp at this
  · by_contra hx
    obtain ⟨x, hx⟩ := Option.ne_none_iff_exists'.1 hx
    have := h.search x hx
    rcases hd with hd | hd | hd | hd <;> rw [hd] at this <;> split at this <;> cases this

theorem View.Held.escalate {s : State} (h : s.view.Held) (hj : s.ope.job = none) (hx : s.dsq.search = none) (k : FaultKind) :
    (s.escalate k).view.Ok ∧ (s.escalate k).ope.asking = false := by
  have hv : (s.escalate k).view = s.view.at .faultedHard none := by
    unfold State.escalate
    rw [view_onTsv, view_enterDeck]
    rw [show (s.onDsq (fun q => { q with escKind := some k })).view = s.view from view_onDsq rfl rfl]
    exact congrArg (s.view.at .faultedHard) hx
  rw [hv]
  exact ⟨h.to (.inl hj) (fun y hy => by cases hy), (congrArg View.asking hv).trans h.asking⟩

theorem View.Held.resumeAt {s : State} (h : s.view.Held) (hj : s.ope.job = none) (d : Deck) :
    (s.resumeAt d).view.Ok ∧ (s.resumeAt d).ope.asking = false := by
  have key : ∀ (t : State) (d' : Deck) (x : Option Search), t.view = s.view.at d' x →
      (∀ y, x = some y → d' = (if y.pass = .load then .loadPointSearch else .rezero)) → t.view.Ok ∧ t.ope.asking = false := by
    intro t d' x hv hx
    exact ⟨by rw [hv]; exact h.to (.inl hj) hx, (congrArg View.asking hv).trans h.asking⟩
  unfold State.resumeAt
  split
  · exact key _ _ _ (view_enterLoadPointSearch s) (fun y hy => by obtain rfl := Option.some.inj hy; rfl)
  · exact key _ _ _ (view_enterRezero s) (fun y hy => by obtain rfl := Option.some.inj hy; rfl)
  · exact key _ _ _ (view_enterRewindOut s) (fun y hy => by cases hy)
  · exact key _ _ _ (view_enterWindOff s) (fun y hy => by cases hy)
  · exact key _ _ _ (view_enterReady s) (fun y hy => by cases hy)

theorem View.Held.of_view {s t : State} (h : s.view.Held) (hv : t.view = s.view) : t.view.Held := by rw [hv]; exact h

theorem View.Held.acceptedClear {s : State} (h : s.view.Held) (hj : s.ope.job = none) :
    s.acceptedClear.view.Ok ∧ s.acceptedClear.ope.asking = false := by
  unfold State.acceptedClear
  dsimp only
  have hv : (((s.onDsq Dsq.noFault).onTsv Tsv.clearCounts).onOpe (fun e => { e with failCount := 0 })).view = s.view := by
    rw [view_onOpe rfl rfl rfl rfl, view_onTsv, view_onDsq rfl rfl]
  have := (h.of_view hv).resumeAt ((congrArg View.job hv).trans hj) (clearTarget s.dsq.resume s.dsq.faultKind)
  refine ⟨by rw [view_addEvents]; exact this.1, ?_⟩
  exact (congrArg View.asking (view_addEvents _ _)).trans this.2

theorem View.Held.hardClear {s : State} (h : s.view.Held) (hj : s.ope.job = none) (hx : s.dsq.search = none) :
    s.hardClear.view.Ok ∧ s.hardClear.ope.asking = false := by
  have hv₀ : ((s.onDsq Dsq.noFault).onTsv Tsv.clearCounts).view = s.view := by rw [view_onTsv, view_onDsq rfl rfl]
  have hu := (h.of_view hv₀).unloadEffects
  have hv : s.hardClear.view = (((s.onDsq Dsq.noFault).onTsv Tsv.clearCounts).unloadEffects).view.at .unloaded none := by
    unfold State.hardClear
    dsimp only
    have he : ∀ t : State, t.dsq.search = none → (((t.enterDeck .unloaded).setTimer none).latchTest).view = t.view.at .unloaded none := by
      intro t ht
      rw [view_latchTest, view_setTimer, view_enterDeck, ht]
    have := he _ (hu.2.2.2.trans ((congrArg View.search hv₀).trans hx))
    split
    · rw [view_addEvents, view_addEvents, this]
    · rw [view_addEvents, this]
  rw [hv]
  exact ⟨hu.1.to (.inl (hu.2.1.trans ((congrArg View.job hv₀).trans hj))) (fun y hy => by cases hy),
    (congrArg View.asking hv).trans hu.1.asking⟩

/-! ## The beginning and the landing of an operation -/

/-- A head granted to the engine, with the tape at rest or running. -/
structure Begins (s : State) (j : Job) (atRest : Bool) : Prop where
  ok : s.view.Ok
  head : s.view.headIs j
  job : s.ope.job = none
  waiting : s.ope.waiting = none
  asking : s.ope.asking = false
  tape : j.op.cmd ≠ .load → s.dsq.deck = .ready
  load : j.op.cmd = .load → s.dsq.deck = .unloaded ∨ s.dsq.deck = .ready
  rest : RestOr atRest s

theorem Begins.runs {s : State} {j : Job} {r : Bool} (h : Begins s j r) (hc : j.op.cmd ≠ .load) : Runs s j :=
  ⟨h.ok, h.head, h.waiting, h.asking, h.tape hc⟩

theorem Begins.held {s : State} {j : Job} {r : Bool} (h : Begins s j r) (hc : j.op.cmd = .load ∨ j.op.cmd = .unload) :
    ((s.onOpe (fun e => { e with job := some { j with stage := .deck }, phase := .move })).view).Held := by
  rw [view_engine]
  exact { asking := h.asking, waiting := h.waiting, idle := fun hp => (by cases hp)
          job := fun k hk => (by
            obtain rfl := Option.some.inj hk
            exact ⟨rfl, hc, h.head⟩)
          owed := h.ok.owed, records := h.ok.records }

theorem Begins.noSearch {s : State} {j : Job} {r : Bool} (h : Begins s j r) : s.dsq.search = none := by
  by_contra hx
  obtain ⟨x, hx⟩ := Option.ne_none_iff_exists'.1 hx
  have := h.ok.search x hx
  change s.dsq.deck = _ at this
  by_cases hc : j.op.cmd = .load
  · rcases h.load hc with hd | hd <;> rw [hd] at this <;> split at this <;> cases this
  · rw [h.tape hc] at this; split at this <;> cases this

theorem Begins.beginOp {s : State} {j : Job} {r : Bool} (h : Begins s j r) : (s.beginOp j r).view.Ok := by
  have hx := h.noSearch
  unfold State.beginOp
  split
  · rename_i hc
    have hh := h.held (.inl hc)
    dsimp only
    split
    · exact (View.Held.finishDeck hh (fun x hx' => by rw [show (s.onOpe _).dsq.search = none from hx] at hx'; cases hx') _).1
    · split
      · exact hh.loadStart hx
      · exact hh.loadFail.1
  · rename_i hc
    exact ((h.held (.inr hc)).unloadStart true).1
  · rename_i hc
    exact (h.runs (by rw [hc]; decide)).moveTo (by simp) _ _
  · rename_i hc
    split
    · exact (h.runs (by rw [hc]; decide)).endOfData h.rest
    · exact (h.runs (by rw [hc]; decide)).positionTo h.rest
  · rename_i hc; exact (h.runs (by rw [hc]; decide)).positionTo h.rest
  · rename_i hc; exact (h.runs (by rw [hc]; decide)).positionTo h.rest
  · rename_i hc
    have hr := h.runs (by rw [hc]; decide)
    repeat' split
    all_goals first
      | exact hr.endOp _ _ h.rest
      | exact hr.endOfData h.rest
      | exact hr.positionTo h.rest
  · rename_i hc; exact (h.runs (by rw [hc]; decide)).positionTo h.rest
  · exact h.ok

theorem view_ope_same {f : Ope → Ope} (s : State) (h : ∀ e, (f e).job = e.job ∧ (f e).waiting = e.waiting ∧ (f e).phase = e.phase
    ∧ (f e).asking = e.asking) : (s.onOpe f).view = s.view :=
  view_onOpe (h _).1 (h _).2.1 (h _).2.2.1 (h _).2.2.2

theorem Runs.landed {s : State} {j : Job} (h : Runs s j) : (s.landed j).view.Ok := by
  unfold State.landed
  split
  · rename_i w _
    have hv : (s.onOpe (Ope.landed w j.goal)).view = s.view := view_ope_same s fun e => by
      unfold Ope.landed; split <;> exact ⟨rfl, rfl, rfl, rfl⟩
    have hr := h.of_view hv
    dsimp only
    repeat' split
    all_goals first
      | exact hr.positioned RestOr.rest
      | exact hr.runScan (by simp)
  · split
    · exact h.runWrite _
    · exact h.runRead _
  · have hv : (s.onOpe (fun e => { e with posValid := true })).view = s.view := view_onOpe rfl rfl rfl rfl
    have hr := h.of_view hv
    dsimp only
    split
    · split
      · rw [view_jobNext]; exact hr.endFailed _ _ RestOr.rest
      · exact (hr.of_view (view_jobNext _ _ _)).endFailed _ _ RestOr.rest
    · exact (hr.of_view (view_onOpe rfl rfl rfl rfl)).endFailed _ _ RestOr.rest
  · exact (h.of_view (by rw [view_jobNext]; exact view_onOpe rfl rfl rfl rfl)).endOp _ _ RestOr.rest
  · exact h.ok

theorem Runs.moveDone {s : State} {j : Job} (h : Runs s j) (hj : s.ope.job = some j) (e : Int) : (s.moveDone e).view.Ok := by
  unfold State.moveDone
  rw [hj]
  dsimp only
  split
  · exact h.landed
  · split
    · rw [view_engineOrder, view_onOpe rfl rfl rfl rfl]; exact h.ok
    · unfold State.positioningFailed
      exact (h.of_view (view_onOpe rfl rfl rfl rfl)).endFailed _ _ RestOr.rest

/-- What the engine executes on the tape. -/
theorem EngineOk.runs {s : State} (h : EngineOk s) {j : Job} (hj : s.ope.job = some j) (hs : j.stage ≠ .deck) : Runs s j :=
  { ok := h.view, head := h.head j (.inl hj)
    waiting := (by
      by_contra hw
      have := (h.waiting (Option.isSome_iff_ne_none.2 hw)).1
      rw [hj] at this; cases this)
    asking := h.asking, deck := h.tapeJob j hj hs }

/-- A LOAD or UNLOAD that the engine holds ends by itself (R9, R11). -/
theorem EngineOk.endHeld {s : State} (h : EngineOk s) {j : Job} (hj : s.ope.job = some j) (hs : j.stage = .deck) (c : Code)
    (detail : Nat) {t : State} (ht : t.view = s.view) : (t.endFailed j c detail true).view.Ok := by
  have hh := h.held (by
    intro hr
    have := (h.deckJob j hj hs).2
    rw [hr] at this; simp at this)
  have hw : j.op.cmd.isWrite = false := by rcases (h.deckJob j hj hs).1 with hc | hc <;> rw [hc] <;> rfl
  unfold State.endFailed
  rw [hw]
  have hv : (t.freeOwn j).view = s.view := (view_freeOwn _ _).trans ht
  have he : Ended (t.freeOwn j) ((t.freeOwn j).finishJob j c detail) :=
    Ended.finishJob c detail (by rw [hv]; exact h.view.base) ((congrArg View.waiting hv).trans hh.waiting)
      (by rw [hv]; exact h.head j (.inl hj))
  exact (he.after true (fun hh => by cases hh)).1

theorem EngineOk.moveDone {s : State} (h : EngineOk s) (e : Int) : (s.moveDone e).view.Ok := by
  cases hj : s.ope.job with
  | none => unfold State.moveDone; rw [hj]; exact h.view
  | some j =>
    by_cases hs : j.stage = .deck
    · unfold State.moveDone
      rw [hj]
      dsimp only
      split
      · unfold State.landed; rw [hs]; exact h.view
      · split
        · rw [view_engineOrder, view_onOpe rfl rfl rfl rfl]; exact h.view
        · unfold State.positioningFailed
          exact h.endHeld hj hs _ _ (view_onOpe rfl rfl rfl rfl)
    · exact (h.runs hj hs).moveDone hj e

theorem view_lowerErase (s : State) : (s.onOpe (fun e => { e with wrErase := false })).view = s.view := view_onOpe rfl rfl rfl rfl

/-! ## What ends an event -/

/-- A port's head that is not granted stands at the front of its queue. -/
theorem head_cons {s : State} {p : PortId} {o : Op} (h : s.head p = some o) :
    ∃ rest, (s.port p).queue = o :: rest ∧ o.granted = false := by
  unfold State.head at h
  split at h
  · split at h
    · split at h
      · cases h
      · rename_i hg
        obtain rfl := Option.some.inj h
        exact ⟨_, ‹_›, Bool.eq_false_of_not_eq_true hg⟩
    · cases h
  · cases h

/-- A head that is not granted and owes a record leaves its queue with the record. -/
theorem View.Ok.completeHead {s t : State} (h : s.view.Ok) {p : PortId} {o : Op} (ho : s.head p = some o) (hw : o.owed = true)
    (r : Rec) (ht : t.view = s.view) : (t.completeHead p r).view.Ok := by
  obtain ⟨rest, hq, hg⟩ := head_cons ho
  have hq' : (t.port p).queue = o :: rest := (congrFun (congrArg View.queue ht) p).trans hq
  have hv : (t.completeHead p r).view = { s.view with queue := fun q => if q = p then rest else s.view.queue q } := by
    rw [← ht]
    simp only [State.view]
    congr 1
    any_goals (cases p <;> rfl)
    · funext q
      cases p <;> cases q <;> first
        | rfl
        | (simp only [State.completeHead, State.onPort, State.port, if_true] at hq' ⊢; rw [hq']; rfl)
    · funext q
      have key : ∀ x : Port, x = t.port p →
          ({ x with queue := x.queue.tail, status := x.status ++ [r] } : Port).recordCount = x.recordCount := by
        intro x hx
        rw [← hx] at hq'
        simp [Port.recordCount, hq', hw]
        omega
      cases p <;> cases q <;> first | rfl | exact key _ rfl
  rw [hv]
  refine { h with head := fun j hj q hq'' => ?_, owed := fun q o' ho' => ?_ }
  · obtain ⟨h₁, h₂⟩ := h.head j hj q hq''
    refine ⟨?_, h₂⟩
    dsimp only
    split
    · rename_i hqp
      subst hqp
      rw [show s.view.queue q = o :: rest from hq] at h₁
      obtain rfl := Option.some.inj h₁
      rw [h₂] at hg; cases hg
    · exact h₁
  · dsimp only at ho'
    split at ho'
    · rename_i hqp
      subst hqp
      exact h.owed q o' (by rw [show s.view.queue q = o :: rest from hq]; exact List.mem_cons_of_mem _ ho')
    · exact h.owed q o' ho'

theorem View.Ok.headOwes {s : State} (h : s.view.Ok) {p : PortId} {o : Op} (ho : s.head p = some o)
    (hc : o.cmd ≠ .writeBlock) : o.owed = true := by
  obtain ⟨rest, hq, -⟩ := head_cons ho
  exact h.owed p o (by rw [show s.view.queue p = o :: rest from hq]; simp) hc

theorem View.Ok.portOp {s : State} (h : s.view.Ok) {p : PortId} {o : Op} (ho : s.portOpAt p = some o) :
    (s.portOp p o).view.Ok := by
  obtain ⟨hh, hc⟩ : s.head p = some o ∧ (o.cmd = .pushMark ∨ o.cmd = .returnToMark) := by
    unfold State.portOpAt at ho
    split at ho
    · split at ho
      · obtain rfl := Option.some.inj ho; exact ⟨‹_›, ‹_›⟩
      · cases ho
    · cases ho
  have hw := h.headOwes hh (by rcases hc with hc | hc <;> rw [hc] <;> decide)
  unfold State.portOp
  dsimp only
  split
  · exact h.completeHead hh hw _ (view_onPort (by unfold Port.pushed; split <;> rfl) (by unfold Port.pushed; split <;> rfl))
  · split
    · exact h.completeHead hh hw _ (view_onPort rfl rfl)
    · exact h.completeHead hh hw _ (view_onPort rfl rfl)

theorem View.Ok.serveHit {s : State} (h : s.view.Ok) {p : PortId} {i : Nat} (hi : s.hitSlot p = some i) :
    (s.serveHit p i).view.Ok := by
  obtain ⟨o, hh, hc⟩ : ∃ o, s.head p = some o ∧ o.cmd = .readBlock := by
    unfold State.hitSlot at hi
    split at hi
    · split at hi
      · rename_i hc; exact ⟨_, ‹_›, hc.1⟩
      · cases hi
    · cases hi
  unfold State.serveHit
  split
  · dsimp only
    rw [view_onPort rfl rfl, view_onBbf]
    exact h.completeHead hh (h.headOwes hh (by rw [hc]; decide)) _ rfl
  · exact h

theorem view_grantSlot (p : PortId) (o : Op) (s : State) : (s.grantSlot p o).2.view = s.view := by
  unfold State.grantSlot
  repeat' split
  all_goals rfl

/-- A grant to a port whose head is ready (R157, R159). -/
theorem View.Ok.grant {s : State} (h : s.view.Ok) {p : PortId} (byChain : Bool) (hp : s.isCandidate p = true)
    (hm : s.mayChoose = true) : (s.grant p byChain).view.Ok := by
  obtain ⟨o, hh, hr⟩ : ∃ o, s.head p = some o ∧ s.opReady p o = true := by
    unfold State.isCandidate at hp
    split at hp
    · exact ⟨_, ‹_›, hp⟩
    · cases hp
  obtain ⟨rest, hq, -⟩ := head_cons hh
  have hfree : s.ope.job = none ∧ s.ope.waiting = none ∧ (s.ope.asking = true → s.ope.phase ≠ .idle) := by
    by_cases ha : s.ope.asking = true
    · exact ⟨(h.asking ha).1, (h.asking ha).2.1, fun _ => (h.asking ha).2.2⟩
    · have hi : s.ope.phase = .idle ∧ s.ope.job = none := by
        simp only [State.mayChoose, Bool.or_eq_true, Bool.and_eq_true, decide_eq_true_eq] at hm
        rcases hm with hm | hm
        · exact absurd hm ha
        · exact ⟨hm.1, by simpa using hm.2⟩
      refine ⟨hi.2, ?_, fun h' => absurd h' ha⟩
      by_contra hw
      have := (h.waiting (Option.isSome_iff_ne_none.2 hw)).2.1
      rw [show s.view.phase = .idle from hi.1] at this; cases this
  have hload : o.cmd = .load → s.ope.asking = false ∧ (s.dsq.deck = .unloaded ∨ s.dsq.deck = .ready) := by
    intro hc
    simp only [State.opReady, hc, Bool.and_eq_true, Bool.or_eq_true, decide_eq_true_eq] at hr
    refine ⟨?_, hr.2⟩
    by_contra ha
    exact hfree.2.2 (by simpa using ha) hr.1.2
  have htape : o.cmd ≠ .load → s.dsq.deck = .ready := by
    intro hc
    cases ho : o.cmd <;> simp_all [State.opReady]
  unfold State.grant
  rw [hq]
  dsimp only
  have hg := view_grantSlot p o s
  generalize State.grantSlot p o s = x at hg
  obtain ⟨slot, u⟩ := x
  dsimp only at hg
  have huq : (u.port p).queue = o :: rest := (congrFun (congrArg View.queue hg) p).trans hq
  -- the head marked granted
  generalize ho' : ({ o with granted := true, slot := slot } : Op) = o'
  have hcmd : o'.cmd = o.cmd := by rw [← ho']
  have hgr : o'.granted = true := by rw [← ho']
  have howed : o'.owed = o.owed := by rw [← ho']
  have hv : ((u.onPort p (fun q => { q with queue := markGranted o' q.queue })).onArb (Arb.granted p byChain o')).view
      = { s.view with queue := fun q => if q = p then o' :: rest else s.view.queue q } := by
    rw [view_onArb, ← hg]
    simp only [State.view]
    congr 1
    any_goals (cases p <;> rfl)
    · funext q
      cases p <;> cases q <;> first
        | rfl
        | (simp only [State.onPort, State.port, if_true] at huq ⊢; rw [huq]; rfl)
    · funext q
      have key : ∀ x : Port, x = u.port p → ({ x with queue := markGranted o' x.queue } : Port).recordCount = x.recordCount := by
        intro x hx
        rw [← hx] at huq
        simp [Port.recordCount, huq, markGranted, List.countP_cons, howed]
      cases p <;> cases q <;> first | rfl | exact key _ rfl
  generalize hw : ((u.onPort p (fun q => { q with queue := markGranted o' q.queue })).onArb (Arb.granted p byChain o')) = w at hv
  have hok : w.view.Ok := by
    rw [hv]
    refine { h with head := fun j hj => ?_, owed := fun q o'' ho'' hc => ?_ }
    · rcases hj with hj | hj
      · rw [show s.view.job = none from hfree.1] at hj; cases hj
      · rw [show s.view.waiting = none from hfree.2.1] at hj; cases hj
    · dsimp only at ho''
      split at ho''
      · rename_i hqp
        subst hqp
        rcases List.mem_cons.1 ho'' with rfl | ho''
        · rw [howed]
          exact h.owed q o (by rw [show s.view.queue q = o :: rest from hq]; simp) (by rw [← hcmd]; exact hc)
        · exact h.owed q o'' (by rw [show s.view.queue q = o :: rest from hq]; exact List.mem_cons_of_mem _ ho'') hc
      · exact h.owed q o'' ho'' hc
  have hhead : ∀ (x : State), x.view.queue = w.view.queue → x.view.headIs (w.jobOf p o') := by
    intro x hx q hq'
    have : q = p := by
      have := (Job.port_eq.1 hq').1
      simp only [State.jobOf, Actor.port.injEq] at this
      exact this.symm
    subst this
    refine ⟨?_, hgr⟩
    rw [hx, hv]
    simp [State.jobOf]
  have hjc : (w.jobOf p o').op.cmd = o.cmd := hcmd
  have hwd : w.dsq.deck = s.dsq.deck := congrArg View.deck hv
  have hwj : w.ope.job = none := (congrArg View.job hv).trans hfree.1
  have hww : w.ope.waiting = none := (congrArg View.waiting hv).trans hfree.2.1
  have hwa : w.ope.asking = s.ope.asking := congrArg View.asking hv
  have hwp : w.ope.phase = s.ope.phase := congrArg View.phase hv
  split
  · rename_i ha
    rw [hwa] at ha
    have hnl : o.cmd ≠ .load := fun hc => by have := (hload hc).1; rw [this] at ha; cases ha
    have hph := hfree.2.2 ha
    have hv₁ : (w.onOpe (fun e => { e with asking := false })).view = w.view.engine w.view.job w.view.waiting w.view.phase false :=
      view_engine
    have hok₁ : (w.onOpe (fun e => { e with asking := false })).view.Ok := by
      rw [hv₁]; exact { hok with asking := fun h' => (by cases h') }
    split
    · exact Begins.beginOp
        { ok := hok₁, head := hhead _ (by rw [hv₁]; rfl), job := hwj, waiting := hww, asking := rfl
          tape := fun _ => hwd.trans (htape hnl), load := fun hc => absurd (hjc.symm.trans hc) hnl
          rest := fun _ => by
            rw [show (w.onOpe (fun e => { e with asking := false })).ope.phase = s.ope.phase from hwp]; exact hph }
    · rw [view_engineOrder, view_engine]
      refine { hok₁ with asking := fun h' => (by cases h'), idle := fun _ => hwj, waiting := fun _ => ⟨hwj, rfl, ?_⟩, head := fun j hj => ?_ }
      · exact hwd.trans (htape hnl)
      · rcases hj with hj | hj
        · exact absurd (hwj.symm.trans hj) (by simp)
        · obtain rfl := Option.some.inj hj
          exact hhead _ (by rw [hv₁]; rfl)
  · rename_i ha
    rw [hwa] at ha
    exact Begins.beginOp
      { ok := hok, head := hhead _ rfl, job := hwj, waiting := hww, asking := hwa.trans (by simpa using ha)
        tape := fun hc => hwd.trans (htape (fun h' => hc (hjc.trans h')))
        load := fun hc => by rw [hwd]; exact (hload (hjc.symm.trans hc)).2
        rest := RestOr.rest }

theorem view_placeEvent (p : PortId) (s : State) (h : s.view.Ok) : (s.eventTest p).view.Ok := by
  unfold State.eventTest
  split
  · rename_i hd
    simp only [Bool.and_eq_true, Port.eventDue, decide_eq_true_eq] at hd
    have hn := hd.2.2
    have hv : (s.onPort p Port.deliver).view
        = { s.view with owes := fun q => if q = p then s.view.owes q + 1 else s.view.owes q } := by
      simp only [State.view]
      congr 1
      any_goals (cases p <;> rfl)
      · funext q
        cases p <;> cases q <;> rfl
      · funext q
        cases p <;> cases q <;> first
          | rfl
          | (simp only [State.onPort, State.port, Port.deliver, Port.recordCount, if_true, List.length_append,
               List.length_singleton]; omega)
    rw [hv]
    refine { h with records := fun q => ?_ }
    dsimp only
    split
    · rename_i hq
      subst hq
      exact hn
    · exact h.records q
  · exact h

theorem View.Ok.stampPort (p : PortId) {s : State} (h : s.view.Ok) : (s.stampPort p).view.Ok :=
  h.same (view_onPort rfl (by simp))

theorem View.Ok.seal {s : State} (h : s.view.Ok) : s.seal.view.Ok := by
  unfold State.seal
  exact ((view_placeEvent _ _ (view_placeEvent _ _ h)).stampPort .a).stampPort .b

end Sys2Proof.Machine
end

