-- ==== Sys2Proof/Laws/EngineSteps.lean ====
section
/-! SUPPORT. That the end of an event, the takes and the steps keep `EngineOk`. -/

namespace Sys2Proof.Machine

/-! ## The end of an event -/

theorem mayChoose_drawn (n : Nat) (s : State) : (s.drawn n).mayChoose = s.mayChoose := rfl

/-- What the arbiter chooses is a candidate (R159). -/
theorem choose_cand {s : State} {cand : PortId → Bool} {c : PortId × Bool} (h : s.choose cand = some c) : cand c.1 = true := by
  unfold State.choose State.chainGoesOn at h
  have hl : cand .a = true → cand .b = true → cand s.arb.lastServed.other = true := fun ha hb => by
    cases s.arb.lastServed <;> assumption
  repeat' split at h
  all_goals first
    | (obtain rfl := Option.some.inj h; simp_all)
    | cases h

theorem View.Ok.grantNext {s t : State} (h : s.view.Ok) (fresh : Bool) (hm : s.mayChoose = true)
    (ht : s.grantNext fresh = some t) : t.view.Ok := by
  unfold State.grantNext at ht
  dsimp only at ht
  split at ht
  · rename_i hc
    simp only [Bool.and_eq_true] at hc
    simp only [State.draw, Option.map_eq_some_iff] at ht
    obtain ⟨c, hc', rfl⟩ := ht
    refine View.Ok.grant (s := s.drawn 1) (h.same (view_drawn _ _)) _ ?_ hm
    rw [isCandidate_drawn]
    cases hc₁ : c.1
    · exact hc.1.2
    · exact hc.2
  · simp only [Option.map_eq_some_iff] at ht
    obtain ⟨c, hc', rfl⟩ := ht
    exact h.grant _ (choose_cand hc') hm

theorem view_either {b : Bool} {x y : State} (hx : x.view.Ok) (hy : y.view.Ok) : (if b then x else y).view.Ok := by
  cases b <;> assumption

theorem some_either {α : Type} {b : Bool} {x y : Option α} {t : α} (h : (if b then x else y) = some t) :
    x = some t ∨ y = some t := by
  cases b
  · exact .inr h
  · exact .inl h

theorem View.Ok.hitNext {s t : State} (h : s.view.Ok) (ht : s.hitNext (s.hitSlot .a) (s.hitSlot .b) = some t) :
    t.view.Ok := by
  unfold State.hitNext at ht
  split at ht
  · rename_i i k ha hb
    simp only [State.draw, Option.some.injEq] at ht
    subst ht
    have hd : (s.drawn 1).view.Ok := h.same (view_drawn _ _)
    exact view_either (hd.serveHit ha) (hd.serveHit hb)
  · rename_i i ha hb
    obtain rfl := Option.some.inj ht
    exact h.serveHit ha
  · rename_i k ha hb
    obtain rfl := Option.some.inj ht
    exact h.serveHit hb
  · cases ht

theorem View.Ok.settleOne {s t : State} {fresh g : Bool} (h : s.view.Ok) (ht : s.settleOne fresh = some (t, g)) :
    t.view.Ok := by
  unfold State.settleOne at ht
  split at ht
  · rename_i o _ ho
    simp only [Option.some.injEq, Prod.mk.injEq] at ht
    obtain ⟨rfl, -⟩ := ht
    exact h.portOp ho
  · rename_i o _ ho
    simp only [Option.some.injEq, Prod.mk.injEq] at ht
    obtain ⟨rfl, -⟩ := ht
    exact h.portOp ho
  · dsimp only at ht
    split at ht
    · rename_i hc
      simp only [Bool.and_eq_true] at hc
      simp only [State.draw] at ht
      have hd : (s.drawn 1).view.Ok := h.same (view_drawn _ _)
      rcases some_either ht with ht | ht
      · simp only [Option.map_eq_some_iff, Prod.mk.injEq] at ht
        obtain ⟨c, hc', rfl, -⟩ := ht
        exact hd.hitNext hc'
      · simp only [Option.map_eq_some_iff, Prod.mk.injEq] at ht
        obtain ⟨c, hc', rfl, -⟩ := ht
        exact hd.grantNext fresh hc.2.1 hc'
    · split at ht
      · simp only [Option.map_eq_some_iff, Prod.mk.injEq] at ht
        obtain ⟨c, hc', rfl, -⟩ := ht
        exact h.hitNext hc'
      · split at ht
        · rename_i hc
          simp only [Bool.and_eq_true] at hc
          simp only [Option.map_eq_some_iff, Prod.mk.injEq] at ht
          obtain ⟨c, hc', rfl, -⟩ := ht
          exact h.grantNext fresh hc.1 hc'
        · cases ht

theorem View.Ok.settleLoop {s : State} (n : Nat) (fresh : Bool) (h : s.view.Ok) : (settleLoop n fresh s).view.Ok := by
  induction n generalizing fresh s with
  | zero => exact h
  | succ n ih =>
    unfold Sys2Proof.Machine.settleLoop
    split
    · rename_i t g ht
      exact ih g (h.settleOne ht)
    · exact h

theorem View.Ok.closeAsk {s : State} (h : s.view.Ok) : s.closeAsk.view.Ok ∧ s.closeAsk.ope.asking = false := by
  unfold State.closeAsk
  split
  · rename_i ha
    obtain ⟨hj, hw, hp⟩ := h.asking ha
    refine ⟨?_, rfl⟩
    rw [view_engineOrder, view_engine]
    refine { h with asking := fun h' => (by cases h'), idle := fun hp' => (by cases hp'), waiting := fun hw' => ?_ }
    rw [show (s.view.engine s.ope.job s.ope.waiting .stop false).waiting = none from hw] at hw'
    cases hw'
  · rename_i ha
    exact ⟨h, by simpa using ha⟩

theorem View.Ok.endSeal {s : State} (h : s.view.Ok) (ha : s.ope.asking = false) : EngineOk s.seal := by
  refine EngineOk.of_view h.seal ?_
  have he : ∀ p (x : State), (x.eventTest p).ope = x.ope := fun p x => by
    unfold State.eventTest; split <;> cases p <;> rfl
  have hs : s.seal.ope = s.ope := by
    unfold State.seal
    exact (he .b _).trans (he .a _)
  rw [hs, ha]

theorem View.Ok.settle {s : State} (h : s.view.Ok) (before : State) : EngineOk (s.settle before) := by
  unfold State.settle
  have := (h.settleLoop (s.portA.queue.length + s.portB.queue.length) (before.ope.phase = .idle)).closeAsk
  exact this.1.endSeal this.2

theorem EngineOk.same {s t : State} (h : EngineOk s) (hv : t.view = s.view) : EngineOk t :=
  EngineOk.of_view (h.view.same hv) ((congrArg View.asking hv).trans h.asking)

/-! ## Takes -/

/-- A port changed with its queue kept or grown at its tail by operations that owe a record, unless they are writes, and at
most eight records owed. -/
theorem EngineOk.onPort {s : State} (h : EngineOk s) (p : PortId) (f : Port → Port) (l : List Op)
    (hq : (f (s.port p)).queue = (s.port p).queue ++ l) (hl : ∀ o ∈ l, o.cmd ≠ .writeBlock → o.owed = true)
    (hn : (f (s.port p)).recordCount ≤ Config.maxRecords) : EngineOk (s.onPort p f) := by
  have hv : (s.onPort p f).view = { s.view with
      queue := fun q => if q = p then s.view.queue q ++ l else s.view.queue q
      owes := fun q => if q = p then (f (s.port p)).recordCount else s.view.owes q } := by
    simp only [State.view]
    congr 1
    any_goals (cases p <;> rfl)
    · funext q
      cases p <;> cases q <;> first | rfl | exact hq
    · funext q
      cases p <;> cases q <;> rfl
  refine EngineOk.of_view ?_ ((congrArg View.asking hv).trans h.asking)
  rw [hv]
  refine { h.view with head := fun j hj q hq' => ?_, owed := fun q o ho => ?_, records := fun q => ?_ }
  · obtain ⟨h₁, h₂⟩ := h.head j hj q hq'
    refine ⟨?_, h₂⟩
    dsimp only
    split
    · change ((s.port q).queue ++ l).head? = _
      rw [List.head?_append, h₁]; rfl
    · exact h₁
  · dsimp only at ho
    split at ho
    · rcases List.mem_append.1 ho with ho | ho
      · exact h.owed q o ho
      · exact hl o ho
    · exact h.owed q o ho
  · dsimp only
    split
    · exact hn
    · exact h.records q

theorem room_of_holds {s : State} {p : PortId} (h : s.endedWithRoom p = true) : (s.port p).recordCount < Config.maxRecords := by
  simp only [State.endedWithRoom, Bool.and_eq_true, decide_eq_true_eq] at h
  exact h.2

theorem room_of_takes {s : State} {p : PortId} {c : Cmd} (h : s.takes p c = true) :
    (s.port p).recordCount < Config.maxRecords := by
  simp only [State.takes, State.holdsFrame, Bool.and_eq_true] at h
  exact room_of_holds h.1.1.1

/-- A state with the same view and room for a record at a port. -/
structure Room (s : State) (p : PortId) : Prop where
  ok : EngineOk s
  room : (s.port p).recordCount < Config.maxRecords

theorem Room.of_view {s t : State} {p : PortId} (h : Room s p) (hv : t.view = s.view) : Room t p :=
  ⟨h.ok.same hv, by rw [show (t.port p).recordCount = (s.port p).recordCount from congrFun (congrArg View.owes hv) p]; exact h.room⟩

theorem view_nextFrame (p : PortId) (s : State) : (s.onPort p Port.nextFrame).view = s.view := view_onPort rfl rfl

theorem Room.place {s : State} {p : PortId} (h : Room s p) (r : Rec) : EngineOk (s.place p r) :=
  h.ok.onPort p _ [] (by simp) (by simp) (by
    have := h.room
    simp only [Port.recordCount, List.length_append, List.length_singleton] at this ⊢
    omega)

theorem Room.answer {s : State} {p : PortId} (h : Room s p) (hd : Hdr) (c : Code) (detail : Nat) (data : List Byte) :
    EngineOk (s.answer p hd c detail data) := h.place _

theorem Room.refuse {s : State} {p : PortId} (h : Room s p) (hd : Hdr) (slot : Option Nat) (c : Code) (detail : Nat) :
    EngineOk (s.refuse p hd slot c detail) := by
  have := (h.of_view (view_onBbf (Bbf.freeOpt slot) s)).answer hd c detail []
  unfold State.refuse
  dsimp only
  split
  · exact this.same (view_onPort rfl rfl)
  · exact this

theorem Room.joinQueue {s : State} {p : PortId} (h : Room s p) (o : Op) (ho : o.owed = true) : EngineOk (s.joinQueue p o) :=
  h.ok.onPort p _ [o] rfl (by simp [ho]) (by
    have := h.room
    simp only [Port.recordCount, List.countP_append, List.countP_singleton, ho, if_true] at this ⊢
    omega)

theorem Room.nextFrame {s : State} {p : PortId} (h : Room s p) : Room (s.onPort p Port.nextFrame) p :=
  h.of_view (view_nextFrame p s)

theorem Room.queueFrame {s : State} {p : PortId} (h : Room s p) (c : Cmd) : EngineOk (s.queueFrame p c) := by
  unfold State.queueFrame
  dsimp only
  split
  · exact h.nextFrame.refuse _ _ _ _
  · exact h.nextFrame.joinQueue _ rfl

theorem EngineOk.takeQueued {s : State} (h : EngineOk s) (p : PortId) (c : Cmd) : EngineOk (State.takeQueued p c s) := by
  unfold State.takeQueued
  split
  · exact (Room.queueFrame ⟨h, room_of_takes ‹_›⟩ c).view.settle _
  · exact h

theorem Room.answerFrame {s : State} {p : PortId} (h : Room s p) (c : Code) : EngineOk (s.answerFrame p c) := h.nextFrame.place _

theorem view_truncateAt (n : Nat) (s : State) : (s.truncateAt n).view = s.view := by simp [State.truncateAt]

theorem view_makePending (slot : Option Nat) (n : Nat) (s : State) : (s.makePending slot n).view = s.view := by
  cases slot
  · rfl
  · exact view_onBbf _ _

theorem Room.acceptWrite {s : State} {p : PortId} (h : Room s p) (c : Cmd) (hd : Hdr) (slot : Option Nat) (n : Nat) :
    EngineOk (s.acceptWrite p c hd slot n) := by
  unfold State.acceptWrite
  dsimp only
  have hr := h.of_view (t := (s.truncateAt n).makePending slot n) ((view_makePending _ _ _).trans (view_truncateAt _ _))
  generalize (s.truncateAt n).makePending slot n = t at hr
  by_cases ha : (s.port p).answersAtTake c = true
  · rw [ha, if_pos rfl]
    have hc : c = .writeBlock := by
      simp only [Port.answersAtTake, Bool.and_eq_true, decide_eq_true_eq] at ha
      exact ha.2
    have hj : EngineOk (t.joinQueue p (writeOp c hd n slot true)) ∧
        ((t.joinQueue p (writeOp c hd n slot true)).port p).recordCount = (t.port p).recordCount := by
      have hn : ((fun q : Port => { q with queue := q.queue ++ [writeOp c hd n slot true] }) (t.port p)).recordCount
          = (t.port p).recordCount := by
        simp [Port.recordCount, writeOp]
      refine ⟨hr.ok.onPort p _ [writeOp c hd n slot true] rfl (fun o ho hne => ?_) (by rw [hn]; exact hr.room.le), ?_⟩
      · simp only [List.mem_singleton] at ho
        subst ho
        exact absurd hc hne
      · cases p <;> exact hn
    exact Room.answer ⟨hj.1, by rw [hj.2]; exact hr.room⟩ _ _ _ _
  · rw [Bool.eq_false_of_not_eq_true ha, if_neg (by decide)]
    exact hr.joinQueue _ rfl

theorem Room.writeFrame {s : State} {p : PortId} (h : Room s p) (c : Cmd) : EngineOk (s.writeFrame p c) := by
  unfold State.writeFrame
  dsimp only
  split
  · exact h.nextFrame.refuse _ _ _ _
  · exact h.nextFrame.acceptWrite _ _ _ _

theorem EngineOk.takeWrite {s : State} (h : EngineOk s) {p : PortId} {c : Cmd} (ht : s.takes p c = true) :
    EngineOk (s.takeWrite p c) := (Room.writeFrame ⟨h, room_of_takes ht⟩ c).view.settle _

theorem EngineOk.seal {s : State} (h : EngineOk s) : EngineOk s.seal := h.view.endSeal h.asking

theorem Room.immediateFrame {s : State} {p : PortId} (h : Room s p) {body : Hdr → State → State}
    (hb : ∀ hd t, t.view = s.view → Room t p → EngineOk (body hd t)) : EngineOk (s.immediateFrame p body) := by
  unfold State.immediateFrame
  dsimp only
  split
  · exact h.nextFrame.refuse _ _ _ _
  · exact hb _ _ (view_nextFrame p s) h.nextFrame

theorem EngineOk.takeImmediate {s : State} (h : EngineOk s) {p : PortId} {c : Cmd} {body : Hdr → State → State}
    (readies : State → State → Bool) (hb : ∀ hd t, t.view = s.view → Room t p → EngineOk (body hd t)) :
    EngineOk (s.takeImmediate p c body readies) := by
  unfold State.takeImmediate
  split
  · have ht := Room.immediateFrame ⟨h, room_of_takes ‹_›⟩ hb
    dsimp only
    split
    · exact ht.view.settle _
    · exact ht.seal
  · exact h

/-! ## ABORT -/

theorem Runs.abortJob {s : State} {j : Job} (h : EngineOk s) (hj : s.ope.job = some j) : EngineOk (s.abortJob j) := by
  have hm : ∀ t : State, t.view = s.view.engine (some { j with aborted := true }) s.view.waiting s.view.phase s.view.asking → EngineOk t := by
    intro t ht
    refine EngineOk.of_view ?_ ((congrArg View.asking ht).trans h.asking)
    rw [ht]
    exact { asking := fun ha => absurd (h.asking.symm.trans ha) (by decide)
            idle := fun hp => absurd (hj.symm.trans (h.idle hp)) (by simp)
            waiting := fun hw => absurd (hj.symm.trans (h.waiting hw).1) (by simp)
            search := h.search
            deckJob := fun k hk hs => (by obtain rfl := Option.some.inj hk; exact h.deckJob j hj hs)
            tapeJob := fun k hk hs => (by obtain rfl := Option.some.inj hk; exact h.tapeJob j hj hs)
            head := fun k hk => (by
              rcases hk with hk | hk
              · obtain rfl := Option.some.inj hk; exact h.head j (.inl hj)
              · exact h.head k (.inr hk))
            owed := h.owed, records := h.records }
  unfold State.abortJob
  dsimp only
  split
  · rename_i w hst
    exact EngineOk.of_view ((h.runs hj (by rw [hst]; simp)).stopAt (by simp)) h.asking
  · rename_i hst
    exact EngineOk.of_view ((h.runs hj (by rw [hst]; simp)).stopAt (by simp)) h.asking
  · split
    · exact hm _ view_engine
    · exact h
  · exact hm _ view_engine
  · exact h

theorem EngineOk.abortNotice {s : State} (h : EngineOk s) (p : PortId) : EngineOk (s.abortNotice p) := by
  unfold State.abortNotice
  split
  · rename_i j hj
    split
    · exact Runs.abortJob h hj
    · exact h
  · rename_i hj
    split
    · rename_i j hw
      split
      · have hv : (s.onOpe (fun e => { e with waiting := some { j with aborted := true } })).view
            = s.view.engine s.view.job (some { j with aborted := true }) s.view.phase s.view.asking := view_engine
        refine EngineOk.of_view ?_ h.asking
        rw [hv]
        exact { h.view with
                asking := fun ha => absurd (h.asking.symm.trans ha) (by decide)
                waiting := fun _ => h.waiting (by rw [hw]; rfl)
                head := fun k hk => (by
                  rcases hk with hk | hk
                  · exact h.head k (.inl hk)
                  · obtain rfl := Option.some.inj hk; exact h.head j (.inr hw)) }
      · exact h
    · exact h

/-- A queue cut by ABORT: the operations gone owe their records or none. -/
theorem EngineOk.cancelQueued {s : State} (h : EngineOk s) (p : PortId) :
    EngineOk (s.cancelQueued p) ∧ ((s.cancelQueued p).port p).recordCount ≤ (s.port p).recordCount := by
  unfold State.cancelQueued
  dsimp only
  generalize hf : lowestBlock (writesOf ((s.port p).queue.filter Op.aborts)) = f
  have hv := view_freeSlots ((s.port p).queue.filter Op.aborts ++ (s.port p).queue.filter (Op.lostBehind f)) s
  generalize s.freeSlots ((s.port p).queue.filter Op.aborts ++ (s.port p).queue.filter (Op.lostBehind f)) = u at hv
  generalize ht : (u.onPort p (fun q => { q with
      queue := (s.port p).queue.filter (fun o => !o.aborts && !o.lostBehind f)
      status := q.status ++ ((s.port p).queue.filter Op.aborts).map (fun o => opRec o .cancelled (abortDetail o)) })) = t
  have hq : ∀ q, (u.port q).queue = (s.port q).queue := fun q => congrFun (congrArg View.queue hv) q
  have hn : ∀ q, (u.port q).recordCount = (s.port q).recordCount := fun q => congrFun (congrArg View.owes hv) q
  have hc : (t.port p).recordCount = (s.port p).recordCount := by
    have h₁ : (s.port p).queue.countP Op.owed
        = ((s.port p).queue.filter Op.aborts).length
          + ((s.port p).queue.filter (fun o => !o.aborts && !o.lostBehind f)).countP Op.owed := by
      rw [List.countP_filter, ← List.countP_eq_length_filter]
      generalize (s.port p).queue = l
      induction l with
      | nil => rfl
      | cons o l ih =>
        simp only [List.countP_cons, ih]
        have : (if o.owed = true then 1 else 0)
            = (if o.aborts = true then 1 else 0) + (if (o.owed && (!o.aborts && !o.lostBehind f)) = true then 1 else 0) := by
          unfold Op.aborts Op.lostBehind
          cases f <;> cases o.owed <;> cases o.granted <;> simp
        omega
    have h₂ : (t.port p).status.length = (u.port p).status.length + ((s.port p).queue.filter Op.aborts).length := by
      rw [← ht]; cases p <;> simp [State.onPort, State.port]
    have h₃ : (t.port p).queue = (s.port p).queue.filter (fun o => !o.aborts && !o.lostBehind f) := by
      rw [← ht]; cases p <;> rfl
    have h₄ : (u.port p).recordCount = (u.port p).status.length + (s.port p).queue.countP Op.owed := by
      unfold Port.recordCount; rw [hq p]
    have h₅ := hn p
    unfold Port.recordCount at h₅ h₄ ⊢
    rw [h₂, h₃, ← h₅]
    rw [hq p]
    omega
  have hvt : t.view = { s.view with
      queue := fun q => if q = p then (s.view.queue q).filter (fun o => !o.aborts && !o.lostBehind f) else s.view.queue q } := by
    rw [← hv]
    subst ht
    simp only [State.view]
    congr 1
    any_goals (cases p <;> rfl)
    · funext q
      have := hq p
      cases p <;> cases q <;> first | rfl | (simp only [State.onPort, State.port, if_true] at this ⊢; rw [this])
    · funext q
      by_cases hqp : q = p
      · subst hqp
        rw [hc, ← hn q]
      · cases p <;> cases q <;> first | rfl | exact absurd rfl hqp
  have hok : EngineOk t := by
    refine EngineOk.of_view ?_ ((congrArg View.asking hvt).trans h.asking)
    rw [hvt]
    refine { h.view with head := fun j hj q hq' => ?_, owed := fun q o ho => ?_ }
    · obtain ⟨h₁, h₂⟩ := h.head j hj q hq'
      refine ⟨?_, h₂⟩
      dsimp only
      split
      · change ((s.port q).queue.filter _).head? = _
        cases hl : (s.port q).queue with
        | nil => rw [hl] at h₁; cases h₁
        | cons o l =>
          rw [hl] at h₁
          obtain rfl := Option.some.inj h₁
          have : (!j.op.aborts && !j.op.lostBehind f) = true := by
            unfold Op.aborts Op.lostBehind
            rw [h₂]
            cases f <;> rfl
          simp only [List.filter_cons, this, if_true, List.head?_cons]
      · exact h₁
    · dsimp only at ho
      split at ho
      · exact h.owed q o (List.mem_filter.1 ho).1
      · exact h.owed q o ho
  split
  · have hv' : ∀ x a n, ((t.rollbackTo p x a).deferOpt p n).view = t.view := fun x a n => by simp
    refine ⟨hok.same (hv' _ _ _), ?_⟩
    rw [show ∀ x a n, (((t.rollbackTo p x a).deferOpt p n).port p).recordCount = (t.port p).recordCount from
      fun x a n => congrFun (congrArg View.owes (hv' x a n)) p]
    exact hc.le
  · exact ⟨hok, hc.le⟩

theorem abortNotice_records (p : PortId) (s : State) : ((s.abortNotice p).port p).recordCount = (s.port p).recordCount := by
  unfold State.abortNotice State.abortJob
  dsimp only
  repeat' split
  all_goals cases p <;> rfl

/-! ## The reset of a port -/

/-- A port back in its power-on context owes nothing, and the engine's operation of it is orphaned (R165). -/
theorem EngineOk.resetPort {s : State} (h : EngineOk s) (p : PortId) :
    EngineOk (s.resetPort p) ∧ ((s.resetPort p).port p).recordCount = 0 := by
  have ho : ∀ k : Job, (k.orphanAt p).op = k.op ∧ (k.orphanAt p).stage = k.stage
      ∧ (∀ q, (k.orphanAt p).port = some q → k.port = some q ∧ q ≠ p) := by
    intro k
    unfold Job.orphanAt
    split
    · rename_i ha
      refine ⟨rfl, rfl, fun q hq => ?_⟩
      have := (Job.port_eq.1 hq).2
      cases this
    · rename_i ha
      refine ⟨rfl, rfl, fun q hq => ⟨hq, ?_⟩⟩
      rintro rfl
      exact ha (Job.port_eq.1 hq).1
  have hv₁ : ((s.giveBack p).orphanJobs p).view
      = s.view.engine (s.ope.job.map (Job.orphanAt p)) (s.ope.waiting.map (Job.orphanAt p)) s.ope.phase s.ope.asking := by
    unfold State.orphanJobs State.giveBack
    rw [view_engine]
    rfl
  have hv₂ : ∀ t : State, (t.dropQueued p).view = t.view := fun t => by
    unfold State.dropQueued; split
    · exact view_rollbackOrphan _ _
    · rfl
  have hv₃ : ∀ t : State, (t.releaseWriterAt p).view = t.view := fun t => by
    unfold State.releaseWriterAt; split
    · rw [view_addEvent, view_onArb]
    · rfl
  have hv : (s.resetPort p).view = { s.view with
      job := s.ope.job.map (Job.orphanAt p), waiting := s.ope.waiting.map (Job.orphanAt p)
      queue := fun q => if q = p then [] else s.view.queue q
      owes := fun q => if q = p then 0 else s.view.owes q } := by
    unfold State.resetPort
    dsimp only
    have hw : ((((s.giveBack p).orphanJobs p).dropQueued p).releaseWriterAt p).view
        = s.view.engine (s.ope.job.map (Job.orphanAt p)) (s.ope.waiting.map (Job.orphanAt p)) s.ope.phase s.ope.asking := by
      rw [hv₃, hv₂, hv₁]
    generalize ((((s.giveBack p).orphanJobs p).dropQueued p).releaseWriterAt p) = w at hw
    have hw' := (view_onArb (Arb.releasePermit p) w).trans hw
    generalize w.onArb (Arb.releasePermit p) = w' at hw'
    have hj : w'.ope.job = s.ope.job.map (Job.orphanAt p) := congrArg View.job hw'
    have hwt : w'.ope.waiting = s.ope.waiting.map (Job.orphanAt p) := congrArg View.waiting hw'
    have hph : w'.ope.phase = s.ope.phase := congrArg View.phase hw'
    have has : w'.ope.asking = s.ope.asking := congrArg View.asking hw'
    have hdk : w'.dsq.deck = s.dsq.deck := congrArg View.deck hw'
    have hsr : w'.dsq.search = s.dsq.search := congrArg View.search hw'
    have hqq : ∀ q, (w'.port q).queue = (s.port q).queue := fun q => congrFun (congrArg View.queue hw') q
    have hnn : ∀ q, (w'.port q).recordCount = (s.port q).recordCount := fun q => congrFun (congrArg View.owes hw') q
    have e₁ : (w'.onPort p Port.resetContext).ope = w'.ope := by cases p <;> rfl
    have e₂ : (w'.onPort p Port.resetContext).dsq = w'.dsq := by cases p <;> rfl
    simp only [State.view, e₁, e₂, hj, hwt, hph, has, hdk, hsr]
    congr 1
    · funext q
      have := hqq q
      cases p <;> cases q <;> first | rfl | exact this
    · funext q
      have := hnn q
      cases p <;> cases q <;> first | rfl | exact this
  refine ⟨EngineOk.of_view ?_ ((congrArg View.asking hv).trans h.asking), ?_⟩
  · rw [hv]
    exact { asking := fun ha => absurd (h.asking.symm.trans ha) (by decide)
            idle := fun hp => (by rw [show s.ope.job = none from h.idle hp]; rfl)
            waiting := fun hw => (by
              have := h.waiting (by simpa using hw)
              exact ⟨by rw [show s.ope.job = none from this.1]; rfl, this.2⟩)
            search := h.search
            deckJob := fun j hj hs => (by
              simp only [Option.map_eq_some_iff] at hj
              obtain ⟨k, hk, rfl⟩ := hj
              rw [(ho k).1]
              exact h.deckJob k hk ((ho k).2.1 ▸ hs))
            tapeJob := fun j hj hs => (by
              simp only [Option.map_eq_some_iff] at hj
              obtain ⟨k, hk, rfl⟩ := hj
              exact h.tapeJob k hk (fun hh => hs ((ho k).2.1.trans hh)))
            head := fun j hj q hq => (by
              have hk : ∃ k, (s.ope.job = some k ∨ s.ope.waiting = some k) ∧ k.orphanAt p = j := by
                rcases hj with hj | hj
                · simp only [Option.map_eq_some_iff] at hj
                  obtain ⟨k, hk, rfl⟩ := hj
                  exact ⟨k, .inl hk, rfl⟩
                · simp only [Option.map_eq_some_iff] at hj
                  obtain ⟨k, hk, rfl⟩ := hj
                  exact ⟨k, .inr hk, rfl⟩
              obtain ⟨k, hk, rfl⟩ := hk
              obtain ⟨hq₁, hq₂⟩ := (ho k).2.2 q hq
              have := h.head k hk q hq₁
              rw [(ho k).1]
              refine ⟨?_, this.2⟩
              dsimp only
              rw [if_neg hq₂]
              exact this.1)
            owed := fun q o ho' => (by
              dsimp only at ho'
              split at ho'
              · cases ho'
              · exact h.owed q o ho')
            records := fun q => (by
              dsimp only
              split
              · exact Nat.zero_le _
              · exact h.records q) }
  · exact (congrFun (congrArg View.owes hv) p).trans (if_pos rfl)

theorem EngineOk.takePortReset {s : State} (h : EngineOk s) (p : PortId) : EngineOk (s.takePortReset p) := by
  have := h.resetPort p
  unfold State.takePortReset
  dsimp only
  refine Room.place (Room.of_view ⟨this.1, ?_⟩ ?_) _
  · rw [this.2]; decide
  · exact view_onPort rfl rfl

/-! ## The engine's completions -/

theorem Ended.asks {s t : State} (h : Ended s t) (hp : s.ope.phase ≠ .idle) : t.askAtEnd.view.Ok :=
  (h.after false (fun _ => hp)).1

/-- After an operation the tape is stopped, with nothing executing (R123, R130). -/
theorem Ended.stops {s t : State} (h : Ended s t) (ha : s.ope.asking = false) :
    ((t.onOpe (fun e => { e with phase := .stop })).engineOrder (Tsv.orderStop .engine)).view.Ok := by
  have hv : (t.onOpe (fun e => { e with phase := .stop })).view = t.view.engine none none .stop false := by
    rw [view_engine]
    have hj := h.job
    have hw := h.waiting
    have has := h.asking.trans ha
    simp only [hj, hw, has]
  rw [view_engineOrder, hv]
  exact { asking := fun hh => (by cases hh), idle := fun hh => (by cases hh), waiting := fun hh => (by cases hh)
          search := h.ok.search, deckJob := fun _ hh => (by cases hh), tapeJob := fun _ hh => (by cases hh)
          head := fun _ hh => (by rcases hh with hh | hh <;> cases hh), owed := h.ok.owed, records := h.ok.records }

/-- The engine's operation dropped without leaving its queue. -/
theorem Runs.dropJob {s : State} {j : Job} (h : Runs s j) : Ended s s.dropJob := by
  have hv := view_dropJob s
  have := h.ok.base.finish (w := s.dropJob.view) (j := j) (by
    left; rw [hv, show s.view.waiting = none from h.waiting])
  obtain ⟨h₁, h₂, h₃, h₄, h₅, h₆⟩ := this
  exact ⟨h₁, h₂, h₃, h₄, h₅, h₆⟩

theorem Runs.phase {s t : State} (hp : s.ope.phase ≠ .idle) (hv : t.view = s.view) : t.ope.phase ≠ .idle := by
  rw [show t.ope.phase = s.ope.phase from congrArg View.phase hv]; exact hp

theorem Runs.deliver {s : State} {j : Job} (h : Runs s j) (hp : s.ope.phase ≠ .idle) (data : List Byte) :
    (s.deliver j data).view.Ok := by
  unfold State.deliver
  split
  · rename_i i _
    split
    · exact (h.of_view (view_freeOwn j s)).dropJob.asks (Runs.phase hp (view_freeOwn j s))
    · have hr : Runs (s.onBbf (Bbf.modify i (Slot.delivered data))) j := h.of_view (view_onBbf _ _)
      exact (Ended.drop hr.ok.base hr.waiting hr.head (view_dropJob _)).asks hp
  · exact h.dropJob.asks hp

theorem Runs.mediaHold {s : State} {j : Job} (h : Runs s j) : (s.mediaHold j).view.Ok := by
  unfold State.mediaHold
  rw [view_reportFault]
  exact h.stopAt (by simp)

theorem view_noFailures (s : State) : s.noFailures.view = s.view := view_onOpe rfl rfl rfl rfl

theorem view_raiseFailures (s : State) : s.raiseFailures.view = s.view := view_onOpe rfl rfl rfl rfl

theorem Runs.writePassed {s : State} {j : Job} (h : Runs s j) (hp : s.ope.phase ≠ .idle) : (s.writePassed j).view.Ok := by
  have hv : ((((s.noFailures.onBdr (Bdr.traverse (s.noFailures.writeReport j))).onBbf (Bbf.cacheOpt j.op.slot)).onOpe
      (Ope.passed j.n (s.ope.w + s.writeExtent j))).jobNext j (j.n + 1)).view = s.view := by
    rw [view_jobNext, view_onOpe rfl rfl rfl rfl, view_onBbf, view_onBdr, view_noFailures]
  exact (h.of_view hv).endOp _ _ (fun _ => Runs.phase hp hv)

theorem Runs.writeFailed {s : State} {j : Job} (h : Runs s j) (hp : s.ope.phase ≠ .idle) : (s.writeFailed j).view.Ok := by
  unfold State.writeFailed
  have hv : (s.onOpe (fun e => { e with posValid := false })).view = s.view := view_onOpe rfl rfl rfl rfl
  have he := (h.of_view hv).failWrite .writeCheckFailed j.n
  dsimp only
  split
  · exact he.asks (Runs.phase hp hv)
  · exact he.stops ((congrArg View.asking hv).trans h.asking)

theorem Runs.verifyFailed {s : State} {j : Job} (h : Runs s j) (hp : s.ope.phase ≠ .idle) : (s.verifyFailed j).view.Ok := by
  have hr := h.of_view (view_raiseFailures s)
  unfold State.verifyFailed
  dsimp only
  split
  · exact hr.mediaHold
  · split
    · exact hr.stopAt (by simp)
    · exact hr.writeFailed (Runs.phase hp (view_raiseFailures s))

theorem Runs.readGood {s : State} {j : Job} (h : Runs s j) (hp : s.ope.phase ≠ .idle) : (s.readGood j).view.Ok := by
  have hv : ((s.noFailures.passSeen j.n).jobNext j (j.n + 1)).view = s.view := by
    rw [view_jobNext, view_passSeen, view_noFailures]
  unfold State.readGood
  dsimp only
  split
  · exact (h.of_view ((view_freeOwn _ _).trans hv)).endOp _ _ (fun _ => Runs.phase hp ((view_freeOwn _ _).trans hv))
  · exact (h.of_view hv).deliver (Runs.phase hp hv) _

theorem Runs.readBad {s : State} {j : Job} (h : Runs s j) (hp : s.ope.phase ≠ .idle) : (s.readBad j).view.Ok := by
  have hr := h.of_view (view_raiseFailures s)
  unfold State.readBad
  dsimp only
  split
  · exact (hr.of_view (view_reportSeen _ _)).mediaHold
  · split
    · exact hr.stopAt (by simp)
    · have hv : (((s.raiseFailures.passSeen j.n).jobNext j (j.n + 1)).freeOwn j).view = s.view := by
        rw [view_freeOwn, view_jobNext, view_passSeen, view_raiseFailures]
      exact (h.of_view hv).endOp _ _ (fun _ => Runs.phase hp hv)

theorem Runs.scanOn {s : State} {j : Job} (h : Runs s j) (hs : j.stage ≠ .deck) (hp : s.ope.phase ≠ .idle) :
    (s.scanOn j).view.Ok :=
  h.put (k := j) rfl rfl hs hp (by
    unfold State.scanOn
    rw [view_engine]
    exact congrArg₂ (fun a b => s.view.engine _ a _ b) h.waiting h.asking)

theorem Runs.scanned {s : State} {j : Job} (h : Runs s j) (hs : j.stage ≠ .deck) (hp : s.ope.phase ≠ .idle) (k : Nat)
    (mark : Bool) : (s.scanned j k mark).view.Ok := by
  unfold State.scanned
  split
  · have hc : Runs s { j with crossed := j.crossed + 1 } := h.congr rfl rfl
    dsimp only
    split
    · have hv := view_jobNext { j with crossed := j.crossed + 1 } (k + 1) s
      exact (hc.of_view hv).endOp _ _ (fun _ => Runs.phase hp hv)
    · exact hc.scanOn hs hp
  · split
    · exact h.endFailed _ _ (fun _ => hp)
    · split
      · exact h.positioned (fun _ => hp)
      · exact h.scanOn hs hp

theorem Runs.scanEnd {s : State} {j : Job} (h : Runs s j) (hs : j.stage ≠ .deck) (hp : s.ope.phase ≠ .idle) :
    (s.scanEnd j).view.Ok := by
  unfold State.scanEnd
  have hv : ∀ b : Bool, ((if b then s.noFailures else s).passSeen s.ope.deckNext).view = s.view := by
    intro b
    rw [view_passSeen]
    cases b
    · rfl
    · exact view_noFailures s
  exact (h.of_view (hv _)).scanned hs (Runs.phase hp (hv _)) _ _

theorem view_blankReport (n : Nat) (s : State) : (s.blankReport n).view = s.view := by
  unfold State.blankReport
  split
  · rfl
  · rw [view_boundPorts, view_onBdr]

theorem view_lowered (s : State) : s.lowerErase.view = s.view := view_lowerErase s

theorem EngineOk.engineStopDone {s : State} (h : EngineOk s) : s.engineStopDone.view.Ok := by
  unfold State.engineStopDone
  split
  · rename_i j hj
    have hr : j.stage ≠ .deck → Runs s j := h.runs hj
    split
    · rename_i hst
      have hr := hr (by rw [hst]; simp)
      split
      · unfold State.endOrphan
        split
        · exact (hr.of_view ((view_onOpe rfl rfl rfl rfl).trans (view_lowered s))).endFailed _ _ RestOr.rest
        · exact (hr.of_view ((view_passSeen _ _).trans (view_lowered s))).endFailed _ _ RestOr.rest
      · exact (hr.of_view (view_lowered s)).moveTo (by simp) _ _
    · rename_i hst
      exact (hr (by rw [hst]; simp)).moveTo (by simp) _ _
    · rename_i hst
      exact ((hr (by rw [hst]; simp)).of_view (view_onOpe rfl rfl rfl rfl)).endFailed _ _ RestOr.rest
    · exact h.view
  · rename_i hj
    split
    · exact h.view
    · rename_i hph
      split
      · rename_i j hw
        have hwait := h.waiting (by rw [hw]; rfl)
        have hv : (s.lowerErase.onOpe (fun e => { e with waiting := none })).view
            = s.view.engine none none s.view.phase false := by
          rw [view_engine, view_lowered]
          exact congrArg₂ (fun a b => s.view.engine a none s.view.phase b) hj h.asking
        have hok : (s.lowerErase.onOpe (fun e => { e with waiting := none })).view.Ok := by
          rw [hv]
          exact { h.view with
                  asking := fun ha => (by cases ha), idle := fun _ => rfl, waiting := fun hh => (by cases hh)
                  deckJob := fun _ hh => (by cases hh), tapeJob := fun _ hh => (by cases hh)
                  head := fun _ hh => (by rcases hh with hh | hh <;> cases hh) }
        have hhead : (s.lowerErase.onOpe (fun e => { e with waiting := none })).view.headIs j := by
          rw [hv]; exact h.head j (.inr hw)
        have hdeck : (s.lowerErase.onOpe (fun e => { e with waiting := none })).dsq.deck = .ready := hwait.2.2
        dsimp only
        split
        · exact Runs.endFailed ⟨hok, hhead, rfl, h.asking, hdeck⟩ _ _ RestOr.rest
        · exact Begins.beginOp
            { ok := hok, head := hhead, job := hj, waiting := rfl, asking := h.asking, tape := fun _ => hdeck
              load := fun _ => .inr hdeck, rest := RestOr.rest }
      · rename_i hw
        have hv : s.lowerErase.goIdle.view = s.view.engine none none .idle false := by
          unfold State.goIdle
          rw [view_engine, view_lowered]
          exact congrArg₂ (fun a b => s.view.engine a b .idle false) hj hw
        rw [hv]
        exact { h.view with
                asking := fun ha => (by cases ha), idle := fun _ => rfl, waiting := fun hh => (by cases hh)
                deckJob := fun _ hh => (by cases hh), tapeJob := fun _ hh => (by cases hh)
                head := fun _ hh => (by rcases hh with hh | hh <;> cases hh) }

/-! ## The deck sequencer's completions -/

theorem EngineOk.ofOk {s t : State} (h : EngineOk s) (hk : t.view.Ok) (ha : t.ope.asking = s.ope.asking) : EngineOk t :=
  EngineOk.of_view hk (ha.trans h.asking)

/-- No operation executes in RE-ZERO. -/
theorem EngineOk.rezeroIdle {s : State} (h : EngineOk s) (hd : s.dsq.deck = .rezero) : s.ope.job = none := by
  by_contra hj
  obtain ⟨j, hj⟩ := Option.ne_none_iff_exists'.1 hj
  have := (h.deckJob j hj ((h.held (by rw [hd]; decide)).job j hj).1).2
  rw [hd] at this; simp at this

theorem EngineOk.deckStopDone {s : State} (h : EngineOk s) : EngineOk s.deckStopDone := by
  have hs := h.search
  unfold State.deckStopDone
  split
  · rename_i hx
    have hd := hs _ hx
    have := (h.held (by rw [hd]; decide)).readyFromLoad
    exact EngineOk.of_view this.1 this.2
  · rename_i hx
    have hd := hs _ hx
    have := (h.held (by rw [hd]; decide)).unloadStart false
    exact EngineOk.of_view this.1 this.2
  · rename_i hx
    have hd : s.dsq.deck = .rezero := hs _ hx
    have hv := view_rezeroForward s
    refine EngineOk.of_view ?_ ((congrArg View.asking hv).trans h.asking)
    rw [hv]
    exact (h.held (by rw [hd]; decide)).to (.inl (h.rezeroIdle hd)) (fun y hy => by obtain rfl := Option.some.inj hy; exact hd)
  · rename_i hx
    have hd : s.dsq.deck = .rezero := hs _ hx
    have hv := view_readyFromRezero s
    refine EngineOk.of_view ?_ ((congrArg View.asking hv).trans h.asking)
    rw [hv]
    exact (h.held (by rw [hd]; decide)).to (.inl (h.rezeroIdle hd)) (fun y hy => by cases hy)
  all_goals first
    | exact h
    | (rename_i hx
       have hd : s.dsq.deck = .rezero := hs _ hx
       have hu := (h.held (by rw [hd]; decide)).unloadEffects
       have hv : ((s.unloadEffects.enterWindOff).addEvents .deckNotReady).view = s.unloadEffects.view.at .windOff none := by
         rw [view_addEvents, view_enterWindOff]
       refine EngineOk.of_view ?_ ((congrArg View.asking hv).trans hu.1.asking)
       rw [hv]
       exact hu.1.to (.inr (by simp)) (fun y hy => by cases hy))

/-- The fault ramp's end, with the auto-clear (R66, R75). -/
theorem EngineOk.autoClear {s : State} (h : EngineOk s) (hd : s.dsq.deck = .faultStop) :
    EngineOk ((s.enterDeck .faultedSoft).autoClear) := by
  obtain ⟨hh, hj, hx⟩ := h.still (.inr (.inl hd))
  have hv := view_enterDeck .faultedSoft s
  have hk : (s.enterDeck .faultedSoft).view.Ok := by
    rw [hv]; exact hh.to (.inl hj) (fun y hy => by rw [hx] at hy; cases hy)
  have hh' : (s.enterDeck .faultedSoft).view.Held := by rw [hv]; exact hh.at _ _
  unfold State.autoClear
  dsimp only
  split
  · have ha : ((s.enterDeck .faultedSoft).onDsq (fun q => { q with autoCount := q.autoCount + 1 })).view
        = (s.enterDeck .faultedSoft).view := view_onDsq rfl rfl
    have := (hh'.of_view ha).acceptedClear hj
    exact EngineOk.of_view this.1 this.2
  · exact EngineOk.of_view hk h.asking

theorem EngineOk.takeFault {s : State} (h : EngineOk s) (k : FaultKind) : EngineOk (s.takeFault k) := by
  unfold State.takeFault
  split
  · exact EngineOk.of_view (h.faultStop k).1 (h.faultStop k).2
  · split
    · rename_i he
      have hd : s.dsq.deck = .faultStop ∨ s.dsq.deck = .faultedSoft := by
        simp only [Deck.escalatesOn, Bool.or_eq_true, Bool.and_eq_true, decide_eq_true_eq] at he
        exact he.imp (·.1) (·.1)
      obtain ⟨hh, hj, hx⟩ := h.still (by rcases hd with hd | hd <;> simp [hd])
      have := hh.escalate hj hx k
      exact EngineOk.of_view this.1 this.2
    · exact h

/-! ## The clears owe what was owed -/

theorem resumeAt_owes (d : Deck) (s : State) : (s.resumeAt d).view.owes = s.view.owes := by
  unfold State.resumeAt
  split
  · rw [view_enterLoadPointSearch]; rfl
  · rw [view_enterRezero]; rfl
  · rw [view_enterRewindOut]; rfl
  · rw [view_enterWindOff]; rfl
  · rw [view_enterReady]; rfl

theorem acceptedClear_owes (s : State) : s.acceptedClear.view.owes = s.view.owes := by
  unfold State.acceptedClear
  dsimp only
  rw [view_addEvents, resumeAt_owes, view_onOpe rfl rfl rfl rfl, view_onTsv, view_onDsq rfl rfl]

theorem unloadEffects_owes (s : State) : s.unloadEffects.view.owes = s.view.owes := by
  have h₁ : s.releaseForUnload.view.owes = s.view.owes := by
    unfold State.releaseForUnload
    split
    · rfl
    · rename_i p _
      dsimp only
      rw [view_addEvents, view_onArb, view_loseOps p (fun o => o.cmd.isWrite) s]
  unfold State.unloadEffects
  dsimp only
  rw [view_onBbf, view_onOpe rfl rfl rfl rfl, view_portsAtLoadPoint, view_onBdr, view_onDsq rfl rfl, h₁]

theorem hardClear_owes (s : State) : s.hardClear.view.owes = s.view.owes := by
  unfold State.hardClear
  dsimp only
  have h₁ : (((((s.onDsq Dsq.noFault).onTsv Tsv.clearCounts).unloadEffects.enterDeck .unloaded).setTimer none).latchTest).view.owes
      = s.view.owes := by
    rw [view_latchTest, view_setTimer, view_enterDeck]
    refine (unloadEffects_owes _).trans ?_
    rw [view_onTsv, view_onDsq rfl rfl]
  split
  · rw [view_addEvents, view_addEvents, h₁]
  · rw [view_addEvents, h₁]

/-- A clear leaves room for its own record. -/
theorem Room.acceptedClear {s : State} {p : PortId} (h : Room s p) (hd : s.dsq.deck = .faultedSoft) :
    Room s.acceptedClear p := by
  obtain ⟨hh, hj, -⟩ := h.ok.still (.inr (.inr (.inl hd)))
  have := hh.acceptedClear hj
  refine ⟨EngineOk.of_view this.1 this.2, ?_⟩
  rw [show (s.acceptedClear.port p).recordCount = (s.port p).recordCount from congrFun (acceptedClear_owes s) p]
  exact h.room

theorem Room.hardClear {s : State} {p : PortId} (h : Room s p) (hd : s.dsq.deck = .faultedHard) : Room s.hardClear p := by
  obtain ⟨hh, hj, hx⟩ := h.ok.still (.inr (.inr (.inr hd)))
  have := hh.hardClear hj hx
  refine ⟨EngineOk.of_view this.1 this.2, ?_⟩
  rw [show (s.hardClear.port p).recordCount = (s.port p).recordCount from congrFun (hardClear_owes s) p]
  exact h.room

end Sys2Proof.Machine
end

