-- ==== Sys2Proof/Laws/Servo.lean ====
section
/-! SUPPORT. Every operation of the servo keeps its ranges: one lemma for each. -/

namespace Sys2Proof.Machine

/-! ## A reel -/

theorem ReelOk.of_restart {r : ReelState} (c : Int) (h₁ : Config.packMin ≤ r.pack) (h₂ : r.pack ≤ Config.packMax)
    (h₃ : r.loop ≤ 1023) (h₄ : (r.cmd.natAbs : Int) ≤ Config.reelMax) (h₅ : r.satCount ≤ Config.satMax) :
    ReelOk (r.restart c) :=
  { packMin := h₁, packMax := h₂, acc := Nat.zero_le _, loop := h₃, cmd := h₄, satCount := h₅ }

theorem ReelOk.restart {r : ReelState} (h : ReelOk r) (c : Int) : ReelOk (r.restart c) :=
  ReelOk.of_restart c h.packMin h.packMax h.loop h.cmd h.satCount

theorem cmd_zero_ok : ((0 : Int).natAbs : Int) ≤ Config.reelMax := by decide

theorem natAbs_zero_ok : (0 : Int).natAbs ≤ 1280 := by decide

theorem ReelOk.count {r : ReelState} (h : ReelOk r) (f : Bool) (c : Int) : ReelOk (r.count f c) := by
  unfold ReelState.count
  split
  · exact h
  split
  · exact h.restart c
  · exact { h with acc := by have := @le_limit (-1024) 1024 (r.acc + signed f 1) (by decide); simp only; omega }

theorem ReelOk.revolve {r : ReelState} (h : ReelOk r) (w : Reel) (c : Int) : ReelOk (r.revolve w c) := by
  have := newPack_range ⟨h.packMin, h.packMax⟩ (measuredPack_range w (c - r.capSnap) ((r.loop : Int) - r.loopSnap))
  exact ReelOk.restart (r := { r with pack := _ }) { h with packMin := this.1, packMax := this.2 } c

theorem ReelOk.regulate {r : ReelState} (h : ReelOk r) (w : Reel) (d : Deck) (vc : Int) (g : Nat) :
    ReelOk (r.regulate w d vc g) := by
  unfold ReelState.regulate
  simp only
  split
  · rename_i h'
    exact { h with cmd := h' ▸ limitCommand_range _, satCount := Nat.zero_le _ }
  · exact { h with cmd := limitCommand_range _, satCount := Nat.min_le_left _ _ }

theorem ReelOk.setMode {r : ReelState} (h : ReelOk r) (m : ReelMode) : ReelOk (r.setMode m) := { h with }

theorem ReelOk.expire {r : ReelState} (h : ReelOk r) (w : Reel) (d : Deck) (vc c : Int) (g : Nat) {l : Nat}
    (hl : l ≤ 1023) : ReelOk (r.expire w d vc c g l) := by
  unfold ReelState.expire
  simp only
  split
  · exact ReelOk.of_restart c h.packMin h.packMax hl cmd_zero_ok (Nat.zero_le _)
  · exact ReelOk.of_restart c h.packMin h.packMax hl (by simp only; decide) (Nat.zero_le _)
  · exact ReelOk.of_restart c h.packMin h.packMax hl (by simp only; split <;> decide) (Nat.zero_le _)
  · have hs : ReelOk { r with loop := l, latchOut := !loopInRange l, mode := modeAt w d r.mode l } := { h with loop := hl }
    have hx := hs.regulate w d vc g
    have hx : ReelOk { ReelState.regulate w d vc g _ with measuring := true } := { hx with }
    split
    · exact hx
    · exact hx.restart c

theorem ReelOk.loadStart {r : ReelState} (h : ReelOk r) {seed : Int} (hs : Config.packMin ≤ seed ∧ seed ≤ Config.packMax)
    (c : Int) : ReelOk (r.loadStart seed c) :=
  ReelOk.of_restart
    (r := { r with pack := seed, latchOut := false, cmd := 0, mode := .zero, measuring := false, satFlag := false, satCount := 0 })
    c hs.1 hs.2 h.loop cmd_zero_ok (Nat.zero_le _)

theorem ReelOk.powerOn {seed : Int} (hs : Config.packMin ≤ seed ∧ seed ≤ Config.packMax) (p : Pair) {l : Nat}
    (hl : l ≤ 1023) : ReelOk (ReelState.powerOn seed p l) :=
  { packMin := hs.1, packMax := hs.2, acc := Nat.zero_le _, loop := hl, cmd := cmd_zero_ok, satCount := Nat.zero_le _ }

/-! ## The servo -/

theorem ServoOk.onReel {v : Tsv} (h : ServoOk v) (w : Reel) {f : ReelState → ReelState}
    (hf : ∀ r, ReelOk r → ReelOk (f r)) : ServoOk (v.onReel w f) := by
  cases w
  · exact { h with supply := hf _ h.supply }
  · exact { h with takeup := hf _ h.takeup }

theorem ServoOk.present {v : Tsv} (h : ServoOk v) : ServoOk v.present := { h with }

theorem ReelOk.zeroed {r : ReelState} (h : ReelOk r) : ReelOk { r.setMode .zero with cmd := 0 } :=
  { h with cmd := cmd_zero_ok }

theorem ServoOk.zeroReels {v : Tsv} (h : ServoOk v) : ServoOk v.zeroReels :=
  { h with supply := h.supply.zeroed, takeup := h.takeup.zeroed }

theorem ServoOk.orderMoveAt {v : Tsv} (h : ServoOk v) (x : Int) (f : Bool) (c : Speed) (i : Issuer) :
    ServoOk (v.orderMoveAt x f c i) := { h with }

theorem ServoOk.orderMove {v : Tsv} (h : ServoOk v) (x : Int) (f : Bool) (i : Issuer) : ServoOk (v.orderMove x f i) :=
  h.orderMoveAt _ _ _ _

theorem ServoOk.orderRun {v : Tsv} (h : ServoOk v) (c : Speed) (f : Bool) (i : Issuer) : ServoOk (v.orderRun c f i) :=
  { h with target := by rw [show (v.orderRun c f i).target = signed f c.value from rfl, signed_natAbs]; exact speed_value_le c }

theorem ServoOk.orderStop {v : Tsv} (h : ServoOk v) (i : Issuer) : ServoOk (v.orderStop i) := { h with target := natAbs_zero_ok }

theorem ServoOk.orderFaultRamp {v : Tsv} (h : ServoOk v) : ServoOk v.orderFaultRamp := { h with target := natAbs_zero_ok }

theorem ServoOk.hardStop {v : Tsv} (h : ServoOk v) : ServoOk v.hardStop :=
  ServoOk.present (ServoOk.zeroReels (v := { v with vc := 0, target := 0, order := .none, report := none })
    { h with vc := natAbs_zero_ok, target := natAbs_zero_ok })

theorem ServoOk.engineOrder {v : Tsv} (h : ServoOk v) {f : Tsv → Tsv} (hf : ∀ v, ServoOk v → ServoOk (f v)) :
    ServoOk (v.engineOrder f) := by
  unfold Tsv.engineOrder; split
  · exact h
  · exact hf _ h

theorem ServoOk.setCounter {v : Tsv} (h : ServoOk v) {x : Int} (hx : Config.counterMin ≤ x ∧ x ≤ Config.counterMax) :
    ServoOk (v.setCounter x) :=
  { h with counterMin := hx.1, counterMax := hx.2, supply := h.supply.restart _, takeup := h.takeup.restart _ }

theorem ServoOk.glitch {v : Tsv} (h : ServoOk v) (d : Deck) : ServoOk (v.glitch d) :=
  { h with glitches := by simp [Tsv.glitch] }

theorem ServoOk.clearMarkers {v : Tsv} (h : ServoOk v) : ServoOk v.clearMarkers := { h with }

theorem ServoOk.count {v : Tsv} (h : ServoOk v) (f : Bool) : ServoOk (v.count f) :=
  have := countOn_range f ⟨h.counterMin, h.counterMax⟩
  { h with counterMin := this.1, counterMax := this.2 }

theorem ServoOk.capstanArrival {v : Tsv} (h : ServoOk v) (d : Deck) (p : Pair) : ServoOk (v.capstanArrival d p) := by
  unfold Tsv.capstanArrival
  have : ∀ u : Tsv, ServoOk u → ServoOk { u with lastPair := p } := fun u hu => { hu with }
  simp only
  split
  · exact this _ (h.count true)
  · exact this _ (h.count false)
  · exact this _ h
  · exact this _ (h.glitch d)

theorem ServoOk.reelArrival {v : Tsv} (h : ServoOk v) (d : Deck) (w : Reel) (p : Pair) : ServoOk (v.reelArrival d w p) := by
  unfold Tsv.reelArrival
  simp only
  have : ∀ u : Tsv, ServoOk u → ServoOk (u.onReel w (fun r => { r with last := p })) :=
    fun u hu => hu.onReel w (fun r hr => { hr with })
  split
  · exact this _ (h.onReel w (fun r hr => hr.count _ _))
  · exact this _ (h.onReel w (fun r hr => hr.count _ _))
  · exact this _ h
  · exact this _ (h.glitch d)

theorem ServoOk.closeTally {v : Tsv} (h : ServoOk v) (d : Deck) : ServoOk (v.closeTally d) :=

  have : (v.closeTally d).stall ≤ Config.stallMax := by
    simp only [Tsv.closeTally]
    split
    · exact Nat.min_le_left _ _
    · exact Nat.zero_le _
  { h with stall := this }

theorem ServoOk.brake {v : Tsv} (h : ServoOk v) : ServoOk v.brake := by
  unfold Tsv.brake
  split
  · split
    · exact { h with target := natAbs_zero_ok }
    · split
      · exact { h with target := natAbs_zero_ok }
      · exact { h with target := by rw [signed_natAbs]; exact speed_value_le _ }
  · exact h

theorem ServoOk.stepCapstan {v : Tsv} (h : ServoOk v) : ServoOk v.stepCapstan :=
  { h with vc := stepVc_bound _ (stepFor_nonneg _ _ _) h.vc h.target }

theorem ServoOk.complete {v : Tsv} (h : ServoOk v) : ServoOk v.complete := by
  unfold Tsv.complete
  split
  · exact h
  · split
    · split
      · exact { h with }
      · exact h
    · exact { h with }
    · exact { h with }
    · exact h
    · exact h

theorem ServoOk.expire {v : Tsv} (h : ServoOk v) (d : Deck) (g : Nat) {ls lt : Nat} (hs : ls ≤ 1023) (ht : lt ≤ 1023) :
    ServoOk (v.expire d g ls lt) := by
  unfold Tsv.expire
  have hu := (h.closeTally d).brake.stepCapstan
  exact ServoOk.complete (ServoOk.present
    { hu with supply := hu.supply.expire _ _ _ _ _ hs, takeup := hu.takeup.expire _ _ _ _ _ ht })

theorem ServoOk.loadStart {v : Tsv} (h : ServoOk v) : ServoOk v.loadStart :=
  ServoOk.clearMarkers
    { vc := natAbs_zero_ok, target := natAbs_zero_ok, counterMin := h.counterMin, counterMax := h.counterMax, glitches := Nat.zero_le _,
      stall := Nat.zero_le _, supply := h.supply.loadStart (by decide) _, takeup := h.takeup.loadStart (by decide) _ }

theorem ServoOk.clearCounts {v : Tsv} (h : ServoOk v) : ServoOk v.clearCounts :=
  { h with glitches := by simp [Tsv.clearCounts], stall := by simp [Tsv.clearCounts],
           supply := { h.supply with satCount := by simp [Tsv.clearCounts, ReelState.clearSat] },
           takeup := { h.takeup with satCount := by simp [Tsv.clearCounts, ReelState.clearSat] } }

theorem ServoOk.latchesIn {v : Tsv} (h : ServoOk v) : ServoOk v.latchesIn :=
  { h with supply := { h.supply with }, takeup := { h.takeup with } }

theorem ServoOk.setModes {v : Tsv} (h : ServoOk v) (a b : ReelMode) : ServoOk (v.setModes a b) :=
  { h with supply := { h.supply with }, takeup := { h.takeup with } }

theorem ServoOk.markerArrival {v : Tsv} (h : ServoOk v) (m : Marker) (l : Bool) : ServoOk (v.markerArrival m l) := by
  unfold Tsv.markerArrival; cases m <;> simp only <;> split <;> first | exact h | exact { h with }

theorem ServoOk.powerOn (lv : Levels) : ServoOk (State.powerOn lv).tsv :=
  { vc := natAbs_zero_ok, target := natAbs_zero_ok, counterMin := by simp [State.powerOn], counterMax := by simp [State.powerOn],
    glitches := by simp [State.powerOn], stall := by simp [State.powerOn],
    supply := ReelOk.powerOn (by decide) _ (by omega), takeup := ReelOk.powerOn (by decide) _ (by omega) }

end Sys2Proof.Machine
end

