-- ==== Sys2Proof/Laws/Kept.lean ====
section
/-! SUPPORT. Every shared operation keeps every closed predicate: one lemma for each, in the order of the files of
Machine, and the induction over what ends an event packaged once (`Closed.settle`). -/

namespace Sys2Proof.Machine

variable {P : State → Prop}

theorem Closed.engineOrder (hc : Closed P) {f : Tsv → Tsv} (hf : ∀ v, ServoOk v → ServoOk (f v)) {s : State}
    (h : P s) : P (s.engineOrder f) := hc.tsv _ _ (fun _ hv => hv.engineOrder hf) h

theorem Closed.addEvent (hc : Closed P) (k : EventKind) (p : PortId) {s : State} (h : P s) : P (s.addEvent k p) := by
  unfold State.addEvent
  try dsimp only
  repeat' first
    | with_reducible exact h | with_reducible apply hc.port | split

theorem Closed.addEvents (hc : Closed P) (k : EventKind) {s : State} (h : P s) : P (s.addEvents k) := by
  unfold State.addEvents
  repeat' first
    | with_reducible exact h | with_reducible apply hc.addEvent

theorem Closed.place (hc : Closed P) (p : PortId) (r : Rec) {s : State} (h : P s) : P (s.place p r) := by
  unfold State.place
  try dsimp only
  repeat' first
    | with_reducible exact h | with_reducible apply hc.port

theorem Closed.boundPort (hc : Closed P) (p : PortId) {s : State} (h : P s) : P (s.boundPort p) := by
  unfold State.boundPort
  try dsimp only
  repeat' first
    | with_reducible exact h | with_reducible apply hc.port | with_reducible apply hc.addEvent | split

theorem Closed.boundPorts (hc : Closed P) {s : State} (h : P s) : P (s.boundPorts) := by
  unfold State.boundPorts
  repeat' first
    | with_reducible exact h | with_reducible apply hc.boundPort

theorem Closed.setNext (hc : Closed P) (p : PortId) (n : Nat) {s : State} (h : P s) : P (s.setNext p n) := by
  unfold State.setNext
  try dsimp only
  repeat' first
    | with_reducible exact h | with_reducible apply hc.port

theorem Closed.defer (hc : Closed P) (p : PortId) (n : Nat) {s : State} (h : P s) : P (s.defer p n) := by
  unfold State.defer
  try dsimp only
  repeat' first
    | with_reducible exact h | with_reducible apply hc.port | with_reducible apply hc.addEvent

theorem Closed.deferOpt (hc : Closed P) (p : PortId) (n : Option Nat) {s : State} (h : P s) : P (s.deferOpt p n) := by
  unfold State.deferOpt
  repeat' first
    | with_reducible exact h | with_reducible apply hc.defer | split

theorem Closed.rollbackTo (hc : Closed P) (p : PortId) (f ahead : Nat) {s : State} (h : P s) :
    P (s.rollbackTo p f ahead) := by
  unfold State.rollbackTo
  try dsimp only
  repeat' first
    | with_reducible exact h | with_reducible apply hc.boundPorts | with_reducible apply hc.setNext
    | with_reducible refine hc.bdr _ _ (fun d hd => hd.lowerEod _) ?_

theorem Closed.rollbackOrphan (hc : Closed P) (f : Nat) {s : State} (h : P s) : P (s.rollbackOrphan f) := by
  unfold State.rollbackOrphan
  repeat' first
    | with_reducible exact h | with_reducible apply hc.boundPorts
    | with_reducible refine hc.bdr _ _ (fun d hd => hd.lowerEod _) ?_

theorem Closed.freeSlots (hc : Closed P) (l : List Op) {s : State} (h : P s) : P (s.freeSlots l) := by
  unfold State.freeSlots
  induction l generalizing s with
  | nil => exact h
  | cons o l ih => exact ih (hc.bbf _ _ h)

theorem Closed.loseOps (hc : Closed P) (p : PortId) (kept lost : List Op) {s : State} (h : P s) :
    P (s.loseOps p kept lost) := by
  unfold State.loseOps
  try dsimp only
  repeat' first
    | with_reducible exact h | with_reducible apply hc.port | with_reducible apply hc.freeSlots

theorem Closed.latchTest (hc : Closed P) {s : State} (h : P s) : P (s.latchTest) := by
  unfold State.latchTest
  try dsimp only
  repeat' first
    | with_reducible exact h | with_reducible apply hc.ope | split

theorem Closed.leaveQueue (hc : Closed P) (j : Job) (recs : List Rec) {s : State} (h : P s) :
    P (s.leaveQueue j recs) := by
  unfold State.leaveQueue
  try dsimp only
  repeat' first
    | with_reducible exact h | with_reducible apply hc.port | split

theorem Closed.dropJob (hc : Closed P) {s : State} (h : P s) : P (s.dropJob) := by
  unfold State.dropJob
  try dsimp only
  repeat' first
    | with_reducible exact h | with_reducible apply hc.ope | with_reducible apply hc.latchTest

theorem Closed.finishJob (hc : Closed P) (j : Job) (c : Code) (detail : Nat) {s : State} (h : P s) :
    P (s.finishJob j c detail) := by
  unfold State.finishJob
  repeat' first
    | with_reducible exact h | with_reducible apply hc.leaveQueue | with_reducible apply hc.dropJob

theorem Closed.goIdle (hc : Closed P) {s : State} (h : P s) : P (s.goIdle) := by
  unfold State.goIdle
  try dsimp only
  repeat' first
    | with_reducible exact h | with_reducible apply hc.ope

theorem Closed.askAtEnd (hc : Closed P) {s : State} (h : P s) : P (s.askAtEnd) := by
  unfold State.askAtEnd
  try dsimp only
  repeat' first
    | with_reducible exact h | with_reducible apply hc.ope

theorem Closed.after (hc : Closed P) (atRest : Bool) {s : State} (h : P s) : P (s.after atRest) := by
  unfold State.after
  repeat' first
    | with_reducible exact h | with_reducible apply hc.goIdle | with_reducible apply hc.askAtEnd | split

theorem Closed.finishDeckJob (hc : Closed P) (c : Cmd → Code) {s : State} (h : P s) : P (s.finishDeckJob c) := by
  unfold State.finishDeckJob
  repeat' first
    | with_reducible exact h | with_reducible apply hc.finishJob | with_reducible apply hc.goIdle | split

theorem Closed.jobNext (hc : Closed P) (j : Job) (n : Nat) {s : State} (h : P s) : P (s.jobNext j n) := by
  unfold State.jobNext
  repeat' first
    | with_reducible exact h | with_reducible apply hc.setNext | split

theorem Closed.enterDeck (hc : Closed P) (d : Deck) {s : State} (h : P s) : P (s.enterDeck d) := by
  unfold State.enterDeck
  repeat' first
    | with_reducible exact h | with_reducible apply hc.dsq

theorem Closed.setTimer (hc : Closed P) (t : Option SeqTimer) {s : State} (h : P s) : P (s.setTimer t) := by
  unfold State.setTimer
  try dsimp only
  repeat' first
    | with_reducible exact h | with_reducible apply hc.dsq

theorem Closed.setSearch (hc : Closed P) (x : Option Search) {s : State} (h : P s) : P (s.setSearch x) := by
  unfold State.setSearch
  try dsimp only
  repeat' first
    | with_reducible exact h | with_reducible apply hc.dsq

theorem Closed.reportFault (hc : Closed P) (x : FaultReport) {s : State} (h : P s) : P (s.reportFault x) := by
  unfold State.reportFault
  try dsimp only
  repeat' first
    | with_reducible exact h | with_reducible apply hc.dsq

theorem Closed.reportWhen (hc : Closed P) (b : Bool) (x : FaultReport) {s : State} (h : P s) :
    P (s.reportWhen b x) := by
  unfold State.reportWhen
  repeat' first
    | with_reducible exact h | with_reducible apply hc.reportFault | split

theorem Closed.enterLoopForm (hc : Closed P) {s : State} (h : P s) : P (s.enterLoopForm) := by
  unfold State.enterLoopForm
  try dsimp only
  repeat' first
    | with_reducible exact h | with_reducible apply hc.enterDeck | with_reducible apply hc.setTimer
    | refine hc.tsv _ _ (fun v hv => { hv.setModes _ _ with }) ?_

theorem Closed.loadStart (hc : Closed P) {s : State} (h : P s) : P (s.loadStart) := by
  unfold State.loadStart
  try dsimp only
  repeat' first
    | with_reducible exact h | with_reducible apply hc.enterDeck | with_reducible apply hc.setTimer
    | with_reducible apply hc.enterLoopForm | refine hc.tsv _ _ (fun v hv => hv.loadStart) ?_ | split

theorem Closed.loadFail (hc : Closed P) {s : State} (h : P s) : P (s.loadFail) := by
  unfold State.loadFail
  repeat' first
    | with_reducible exact h | with_reducible apply hc.latchTest | with_reducible apply hc.finishDeckJob
    | with_reducible apply hc.enterDeck | with_reducible apply hc.setTimer | with_reducible apply hc.setSearch
    | refine hc.tsv _ _ (fun v hv => hv.hardStop) ?_

theorem Closed.beginSearch (hc : Closed P) (p : SearchPass) {s : State} (h : P s) : P (s.beginSearch p) := by
  unfold State.beginSearch
  try dsimp only
  repeat' first
    | with_reducible exact h | with_reducible apply hc.dsq

theorem Closed.enterLoadPointSearch (hc : Closed P) {s : State} (h : P s) : P (s.enterLoadPointSearch) := by
  unfold State.enterLoadPointSearch
  try dsimp only
  repeat' first
    | with_reducible exact h | with_reducible apply hc.enterDeck | with_reducible apply hc.setTimer
    | with_reducible apply hc.beginSearch
    | refine hc.tsv _ _ (fun v hv => ((hv.setCounter (by decide)).setModes _ _).orderRun _ _ _) ?_

theorem Closed.enterRezero (hc : Closed P) {s : State} (h : P s) : P (s.enterRezero) := by
  unfold State.enterRezero
  try dsimp only
  repeat' first
    | with_reducible exact h | with_reducible apply hc.enterDeck | with_reducible apply hc.setTimer
    | with_reducible apply hc.beginSearch | refine hc.tsv _ _ (fun v hv => hv.clearMarkers.orderRun _ _ _) ?_
    | with_reducible refine hc.bdr _ _ (fun d hd => wf_cleared) ?_

theorem Closed.rezeroForward (hc : Closed P) {s : State} (h : P s) : P (s.rezeroForward) := by
  unfold State.rezeroForward
  repeat' first
    | with_reducible exact h | with_reducible apply hc.beginSearch
    | refine hc.tsv _ _ (fun v hv => hv.orderRun _ _ _) ?_

theorem Closed.portsAtLoadPoint (hc : Closed P) {s : State} (h : P s) : P (s.portsAtLoadPoint) := by
  unfold State.portsAtLoadPoint
  repeat' first
    | with_reducible exact h | with_reducible apply hc.port

theorem Closed.enterReady (hc : Closed P) {s : State} (h : P s) : P (s.enterReady) := by
  unfold State.enterReady
  repeat' first
    | with_reducible exact h | with_reducible apply hc.latchTest | with_reducible apply hc.enterDeck
    | with_reducible apply hc.setTimer | with_reducible apply hc.setSearch
    | refine hc.tsv _ _ (fun v hv => hv.latchesIn) ?_

theorem Closed.readyFromLoad (hc : Closed P) {s : State} (h : P s) : P (s.readyFromLoad) := by
  unfold State.readyFromLoad
  try dsimp only
  repeat' first
    | with_reducible exact h | with_reducible apply hc.dsq | with_reducible apply hc.ope
    | with_reducible apply hc.addEvents | with_reducible apply hc.finishDeckJob
    | with_reducible apply hc.portsAtLoadPoint | with_reducible apply hc.enterReady
    | refine hc.tsv _ _ (fun v hv => { hv with glitches := Nat.zero_le _ }) ?_
    | with_reducible refine hc.bdr _ _ (fun d hd => wf_cleared) ?_

theorem Closed.readyFromRezero (hc : Closed P) {s : State} (h : P s) : P (s.readyFromRezero) := by
  unfold State.readyFromRezero
  repeat' first
    | with_reducible exact h | with_reducible apply hc.ope | with_reducible apply hc.addEvents
    | with_reducible apply hc.enterReady

theorem Closed.releaseForUnload (hc : Closed P) {s : State} (h : P s) : P (s.releaseForUnload) := by
  unfold State.releaseForUnload
  try dsimp only
  repeat' first
    | with_reducible exact h | with_reducible apply hc.arb | with_reducible apply hc.addEvents
    | with_reducible apply hc.loseOps | split

theorem Closed.unloadEffects (hc : Closed P) {s : State} (h : P s) : P (s.unloadEffects) := by
  unfold State.unloadEffects
  try dsimp only
  repeat' first
    | with_reducible exact h | with_reducible apply hc.dsq | with_reducible apply hc.ope
    | with_reducible apply hc.bbf | with_reducible apply hc.portsAtLoadPoint
    | with_reducible apply hc.releaseForUnload | with_reducible refine hc.bdr _ _ (fun d hd => wf_cleared) ?_

theorem Closed.enterRewindOut (hc : Closed P) {s : State} (h : P s) : P (s.enterRewindOut) := by
  unfold State.enterRewindOut
  repeat' first
    | with_reducible exact h | with_reducible apply hc.enterDeck | with_reducible apply hc.setTimer
    | with_reducible apply hc.setSearch | refine hc.tsv _ _ (fun v hv => hv.orderMove _ _ _) ?_

theorem Closed.enterWindOff (hc : Closed P) {s : State} (h : P s) : P (s.enterWindOff) := by
  unfold State.enterWindOff
  try dsimp only
  repeat' first
    | with_reducible exact h | with_reducible apply hc.enterDeck | with_reducible apply hc.setTimer
    | with_reducible apply hc.setSearch | refine hc.tsv _ _ (fun v hv => { hv.setModes _ _ with }) ?_

theorem Closed.unloadStart (hc : Closed P) (notReady : Bool) {s : State} (h : P s) : P (s.unloadStart notReady) := by
  unfold State.unloadStart
  try dsimp only
  repeat' first
    | with_reducible exact h | with_reducible apply hc.addEvents | with_reducible apply hc.unloadEffects
    | with_reducible apply hc.enterRewindOut | split

theorem Closed.windOffEnd (hc : Closed P) {s : State} (h : P s) : P (s.windOffEnd) := by
  unfold State.windOffEnd
  try dsimp only
  repeat' first
    | with_reducible exact h | with_reducible apply hc.latchTest | with_reducible apply hc.finishDeckJob
    | with_reducible apply hc.enterDeck | with_reducible apply hc.setTimer
    | refine hc.tsv _ _ (fun v hv => hv.zeroReels.present) ?_

theorem Closed.engineNotice (hc : Closed P) {s : State} (h : P s) : P (s.engineNotice) := by
  unfold State.engineNotice
  repeat' first
    | with_reducible exact h | with_reducible apply hc.ope | with_reducible apply hc.arb

theorem Closed.freeJob (hc : Closed P) (j : Option Job) {s : State} (h : P s) : P (s.freeJob j) := by
  unfold State.freeJob
  repeat' first
    | with_reducible exact h | with_reducible apply hc.bbf | split

theorem Closed.removeMotion (hc : Closed P) (p : PortId) {s : State} (h : P s) : P (s.removeMotion p) := by
  unfold State.removeMotion
  try dsimp only
  repeat' first
    | with_reducible exact h | with_reducible apply hc.port | with_reducible apply hc.freeSlots

theorem Closed.faultRollback (hc : Closed P) (p : PortId) (lost : List Op) {s : State} (h : P s) :
    P (s.faultRollback p lost) := by
  unfold State.faultRollback
  repeat' first
    | with_reducible exact h | with_reducible apply hc.deferOpt | with_reducible apply hc.rollbackTo | split

theorem Closed.orphanRollback (hc : Closed P) (j : Option Job) {s : State} (h : P s) : P (s.orphanRollback j) := by
  unfold State.orphanRollback
  repeat' first
    | with_reducible exact h | with_reducible apply hc.rollbackOrphan | split

theorem Closed.beginFaultStop (hc : Closed P) (k : FaultKind) {s : State} (h : P s) : P (s.beginFaultStop k) := by
  unfold State.beginFaultStop
  try dsimp only
  repeat' first
    | with_reducible exact h | with_reducible apply hc.dsq | with_reducible apply hc.addEvents
    | with_reducible apply hc.engineNotice | with_reducible apply hc.freeJob | with_reducible apply hc.removeMotion
    | with_reducible apply hc.faultRollback | with_reducible apply hc.orphanRollback
    | refine hc.tsv _ _ (fun v hv => hv.orderFaultRamp) ?_

theorem Closed.escalate (hc : Closed P) (k : FaultKind) {s : State} (h : P s) : P (s.escalate k) := by
  unfold State.escalate
  try dsimp only
  repeat' first
    | with_reducible exact h | with_reducible apply hc.dsq | with_reducible apply hc.enterDeck
    | refine hc.tsv _ _ (fun v hv => hv.hardStop) ?_

theorem Closed.takeFault (hc : Closed P) (k : FaultKind) {s : State} (h : P s) : P (s.takeFault k) := by
  unfold State.takeFault
  try dsimp only
  repeat' first
    | with_reducible exact h | with_reducible apply hc.beginFaultStop | with_reducible apply hc.escalate | split

theorem Closed.resumeAt (hc : Closed P) (d : Deck) {s : State} (h : P s) : P (s.resumeAt d) := by
  unfold State.resumeAt
  repeat' first
    | with_reducible exact h | with_reducible apply hc.enterLoadPointSearch | with_reducible apply hc.enterRezero
    | with_reducible apply hc.enterReady | with_reducible apply hc.enterRewindOut
    | with_reducible apply hc.enterWindOff | split

theorem Closed.acceptedClear (hc : Closed P) {s : State} (h : P s) : P (s.acceptedClear) := by
  unfold State.acceptedClear
  try dsimp only
  repeat' first
    | with_reducible exact h | with_reducible apply hc.dsq | with_reducible apply hc.ope
    | with_reducible apply hc.addEvents | with_reducible apply hc.resumeAt
    | refine hc.tsv _ _ (fun v hv => hv.clearCounts) ?_

theorem Closed.hardClear (hc : Closed P) {s : State} (h : P s) : P (s.hardClear) := by
  unfold State.hardClear
  try dsimp only
  repeat' first
    | with_reducible exact h | with_reducible apply hc.dsq | with_reducible apply hc.addEvents
    | with_reducible apply hc.latchTest | with_reducible apply hc.enterDeck | with_reducible apply hc.setTimer
    | with_reducible apply hc.unloadEffects | refine hc.tsv _ _ (fun v hv => hv.clearCounts) ?_ | split

theorem Closed.moveTo (hc : Closed P) (j : Job) (st : Stage) (x : Int) (forward : Bool) {s : State} (h : P s) :
    P (s.moveTo j st x forward) := by
  unfold State.moveTo
  try dsimp only
  repeat' first
    | with_reducible exact h | with_reducible apply hc.ope
    | with_reducible refine hc.engineOrder (fun v hv => hv.orderMove _ _ _) ?_

theorem Closed.runNormal (hc : Closed P) {s : State} (h : P s) : P (s.runNormal) := by
  unfold State.runNormal
  repeat' first
    | with_reducible exact h | with_reducible refine hc.engineOrder (fun v hv => hv.orderRun _ _ _) ?_

theorem Closed.stopAt (hc : Closed P) (j : Job) (st : Stage) {s : State} (h : P s) : P (s.stopAt j st) := by
  unfold State.stopAt
  try dsimp only
  repeat' first
    | with_reducible exact h | with_reducible apply hc.ope
    | with_reducible refine hc.engineOrder (fun v hv => hv.orderStop _) ?_

theorem Closed.runWrite (hc : Closed P) (j : Job) (a : Nat) {s : State} (h : P s) : P (s.runWrite j a) := by
  unfold State.runWrite
  try dsimp only
  repeat' first
    | with_reducible exact h | with_reducible apply hc.ope | with_reducible apply hc.runNormal

theorem Closed.runRead (hc : Closed P) (j : Job) (a : Nat) {s : State} (h : P s) : P (s.runRead j a) := by
  unfold State.runRead
  try dsimp only
  repeat' first
    | with_reducible exact h | with_reducible apply hc.ope | with_reducible apply hc.bbf
    | with_reducible apply hc.runNormal | split

theorem Closed.runScan (hc : Closed P) (j : Job) (st : Stage) {s : State} (h : P s) : P (s.runScan j st) := by
  unfold State.runScan
  try dsimp only
  repeat' first
    | with_reducible exact h | with_reducible apply hc.ope | with_reducible apply hc.runNormal

theorem Closed.runCrossing (hc : Closed P) (j : Job) (atRest : Bool) {s : State} (h : P s) : P (s.runCrossing j atRest) :=
  hc.runScan _ _ (hc.ope _ _ h)

theorem Closed.endOp (hc : Closed P) (j : Job) (c : Code) (detail : Nat) (atRest : Bool) {s : State} (h : P s) :
    P (s.endOp j c detail atRest) := by
  unfold State.endOp
  repeat' first
    | with_reducible exact h | with_reducible apply hc.finishJob | with_reducible apply hc.after

theorem Closed.freeOwn (hc : Closed P) (j : Job) {s : State} (h : P s) : P (s.freeOwn j) := by
  unfold State.freeOwn
  repeat' first
    | with_reducible exact h | with_reducible apply hc.bbf

theorem Closed.failWrite (hc : Closed P) (j : Job) (c : Code) (detail : Nat) {s : State} (h : P s) :
    P (s.failWrite j c detail) := by
  unfold State.failWrite
  try dsimp only
  repeat' first
    | with_reducible exact h | with_reducible apply hc.deferOpt | with_reducible apply hc.rollbackTo
    | with_reducible apply hc.rollbackOrphan | with_reducible apply hc.loseOps | with_reducible apply hc.finishJob
    | with_reducible apply hc.freeOwn | split

theorem Closed.endFailed (hc : Closed P) (j : Job) (c : Code) (detail : Nat) (atRest : Bool) {s : State} (h : P s) :
    P (s.endFailed j c detail atRest) := by
  unfold State.endFailed
  repeat' first
    | with_reducible exact h | with_reducible apply hc.finishJob | with_reducible apply hc.after
    | with_reducible apply hc.freeOwn | with_reducible apply hc.failWrite | split

theorem Closed.endOfData (hc : Closed P) (j : Job) (atRest : Bool) {s : State} (h : P s) :
    P (s.endOfData j atRest) := by
  unfold State.endOfData
  repeat' first
    | with_reducible exact h | with_reducible apply hc.endOp | with_reducible apply hc.freeOwn | split

theorem Closed.positioned (hc : Closed P) (j : Job) (atRest : Bool) {s : State} (h : P s) :
    P (s.positioned j atRest) := by
  unfold State.positioned
  repeat' first
    | with_reducible exact h | with_reducible apply hc.jobNext | with_reducible apply hc.runWrite
    | with_reducible apply hc.runRead | with_reducible apply hc.runCrossing | with_reducible apply hc.endOp
    | with_reducible apply hc.endOfData | split

theorem Closed.positionMove (hc : Closed P) (j : Job) (w : Way) (x : Int) {s : State} (h : P s) :
    P (s.positionMove j w x) := by
  unfold State.positionMove
  repeat' first
    | with_reducible exact h | with_reducible apply hc.moveTo

theorem Closed.positionTo (hc : Closed P) (j : Job) (atRest : Bool) {s : State} (h : P s) :
    P (s.positionTo j atRest) := by
  unfold State.positionTo
  try dsimp only
  repeat' first
    | with_reducible exact h | with_reducible apply hc.runScan | with_reducible apply hc.positioned
    | with_reducible apply hc.positionMove | split

theorem Closed.beginOp (hc : Closed P) (j : Job) (atRest : Bool) {s : State} (h : P s) : P (s.beginOp j atRest) := by
  unfold State.beginOp
  try dsimp only
  repeat' first
    | with_reducible exact h | with_reducible apply hc.ope | with_reducible apply hc.finishDeckJob
    | with_reducible apply hc.loadStart | with_reducible apply hc.loadFail | with_reducible apply hc.unloadStart
    | with_reducible apply hc.moveTo | with_reducible apply hc.endOp | with_reducible apply hc.endOfData
    | with_reducible apply hc.positionTo | split

theorem Closed.landed (hc : Closed P) (j : Job) {s : State} (h : P s) : P (s.landed j) := by
  unfold State.landed
  try dsimp only
  repeat' first
    | with_reducible exact h | with_reducible apply hc.ope | with_reducible apply hc.jobNext
    | with_reducible apply hc.runWrite | with_reducible apply hc.runRead | with_reducible apply hc.runScan
    | with_reducible apply hc.endOp | with_reducible apply hc.endFailed | with_reducible apply hc.endOfData
    | with_reducible apply hc.positioned | split

theorem Closed.positioningFailed (hc : Closed P) (j : Job) {s : State} (h : P s) : P (s.positioningFailed j) := by
  unfold State.positioningFailed
  try dsimp only
  repeat' first
    | with_reducible exact h | with_reducible apply hc.ope | with_reducible apply hc.endFailed

theorem Closed.moveDone (hc : Closed P) (e : Int) {s : State} (h : P s) : P (s.moveDone e) := by
  unfold State.moveDone
  try dsimp only
  repeat' first
    | with_reducible exact h | with_reducible apply hc.ope | with_reducible apply hc.landed
    | with_reducible apply hc.positioningFailed
    | with_reducible refine hc.engineOrder (fun v hv => hv.orderMoveAt _ _ _ _) ?_ | split

theorem Closed.raiseFailures (hc : Closed P) {s : State} (h : P s) : P (s.raiseFailures) := by
  unfold State.raiseFailures
  try dsimp only
  repeat' first
    | with_reducible exact h | with_reducible apply hc.ope

theorem Closed.mediaHold (hc : Closed P) (j : Job) {s : State} (h : P s) : P (s.mediaHold j) := by
  unfold State.mediaHold
  repeat' first
    | with_reducible exact h | with_reducible apply hc.reportFault | with_reducible apply hc.stopAt

theorem Closed.completeHead (hc : Closed P) (p : PortId) (r : Rec) {s : State} (h : P s) :
    P (s.completeHead p r) := by
  unfold State.completeHead
  try dsimp only
  repeat' first
    | with_reducible exact h | with_reducible apply hc.port

theorem Closed.portOp (hc : Closed P) (p : PortId) (o : Op) {s : State} (h : P s) : P (s.portOp p o) := by
  unfold State.portOp
  try dsimp only
  repeat' first
    | with_reducible exact h | with_reducible apply hc.port | with_reducible apply hc.completeHead | split

theorem Closed.serveHit (hc : Closed P) (p : PortId) (i : Nat) {s : State} (h : P s) : P (s.serveHit p i) := by
  unfold State.serveHit
  try dsimp only
  repeat' first
    | with_reducible exact h | with_reducible apply hc.port | with_reducible apply hc.bbf
    | with_reducible apply hc.completeHead | split

theorem Closed.grantSlot (hc : Closed P) (p : PortId) (o : Op) {s : State} (h : P s) : P (s.grantSlot p o).2 := by
  unfold State.grantSlot
  repeat' first | with_reducible exact h | with_reducible apply hc.bbf | split

theorem Closed.grant (hc : Closed P) (p : PortId) (byChain : Bool) {s : State} (h : P s) : P (s.grant p byChain) := by
  unfold State.grant
  split
  · exact h
  · have hg := hc.grantSlot p ‹Op› h
    revert hg
    dsimp only
    generalize State.grantSlot p _ s = x
    intro hg
    obtain ⟨slot, u⟩ := x
    dsimp only at hg
    repeat' first | with_reducible exact hg | with_reducible apply hc.port | with_reducible apply hc.arb | with_reducible apply hc.ope | with_reducible apply hc.beginOp | (with_reducible refine hc.engineOrder (fun v hv => hv.orderStop _) ?_) | split

theorem Closed.closeAsk (hc : Closed P) {s : State} (h : P s) : P (s.closeAsk) := by
  unfold State.closeAsk
  try dsimp only
  repeat' first
    | with_reducible exact h | with_reducible apply hc.ope
    | with_reducible refine hc.engineOrder (fun v hv => hv.orderStop _) ?_ | split

theorem Closed.eventTest (hc : Closed P) (p : PortId) {s : State} (h : P s) : P (s.eventTest p) := by
  unfold State.eventTest
  repeat' first
    | with_reducible exact h | with_reducible apply hc.port | split

theorem Closed.stampPort (hc : Closed P) (p : PortId) {s : State} (h : P s) : P (s.stampPort p) := by
  unfold State.stampPort
  try dsimp only
  repeat' first
    | with_reducible exact h | with_reducible apply hc.port

theorem Closed.seal (hc : Closed P) {s : State} (h : P s) : P (s.seal) := by
  unfold State.seal
  repeat' first
    | with_reducible exact h | with_reducible apply hc.eventTest | with_reducible apply hc.stampPort

theorem Closed.grantNext (hc : Closed P) {fresh : Bool} {s t : State} (h : P s)
    (ht : s.grantNext fresh = some t) : P t := by
  unfold State.grantNext State.draw at ht
  dsimp only at ht
  split at ht
  all_goals
    obtain ⟨c, -, rfl⟩ := Option.map_eq_some_iff.1 ht
    exact hc.grant _ _ (by first | exact h | exact hc.drawn _ _ h)

theorem Closed.hitNext (hc : Closed P) {a b : Option Nat} {s t : State} (h : P s) (ht : s.hitNext a b = some t) : P t := by
  unfold State.hitNext State.draw at ht
  dsimp only at ht
  split at ht
  · obtain rfl := Option.some.inj ht
    split <;> exact hc.serveHit _ _ (hc.drawn _ _ h)
  · obtain rfl := Option.some.inj ht; exact hc.serveHit _ _ h
  · obtain rfl := Option.some.inj ht; exact hc.serveHit _ _ h
  · cases ht

theorem Closed.settleOne (hc : Closed P) {fresh : Bool} {s : State} {x : State × Bool} (h : P s)
    (hx : s.settleOne fresh = some x) : P x.1 := by
  unfold State.settleOne State.draw at hx
  dsimp only at hx
  split at hx
  · obtain rfl := Option.some.inj hx; exact hc.portOp _ _ h
  · obtain rfl := Option.some.inj hx; exact hc.portOp _ _ h
  · repeat' split at hx
    · obtain ⟨u, hu, rfl⟩ := Option.map_eq_some_iff.1 hx; exact hc.hitNext (hc.drawn _ _ h) hu
    · obtain ⟨u, hu, rfl⟩ := Option.map_eq_some_iff.1 hx; exact hc.grantNext (hc.drawn _ _ h) hu
    · obtain ⟨u, hu, rfl⟩ := Option.map_eq_some_iff.1 hx; exact hc.hitNext h hu
    · obtain ⟨u, hu, rfl⟩ := Option.map_eq_some_iff.1 hx; exact hc.grantNext h hu
    · cases hx

theorem Closed.settleLoop (hc : Closed P) (n : Nat) : ∀ (fresh : Bool) {s : State}, P s → P (settleLoop n fresh s) := by
  induction n with
  | zero => intro fresh s h; exact h
  | succ n ih =>
    intro fresh s h
    unfold Machine.settleLoop
    split
    · rename_i ht; exact ih _ (hc.settleOne h ht)
    · exact h

/-- The end of an event keeps every closed predicate. -/
theorem Closed.settle (hc : Closed P) (before : State) {s : State} (h : P s) : P (s.settle before) :=
  hc.seal (hc.closeAsk (hc.settleLoop _ _ h))

end Sys2Proof.Machine
end

