-- ==== Sys2Proof/Laws/PerInstr.lean ====
section
/-! SUPPORT. One fact about each command as syntax: the rows of the table give no bits, so no word of the table spells it. -/

namespace Sys2Proof.Laws.NoWord

/-- No word of the table spells the command. -/
def Statement (i : Instr) : Prop := ∀ nbits w : Nat, decodeTableWord nbits w ≠ some i

theorem powerUp : Statement (.powerUp) := by simp [Statement, decodeTableWord]
theorem resetRise : Statement (.resetRise) := by simp [Statement, decodeTableWord]
theorem resetFall (lv : Levels) : Statement (.resetFall lv) := by simp [Statement, decodeTableWord]
theorem regulationPeriodExpiry (loopS loopT : Nat) : Statement (.regulationPeriodExpiry loopS loopT) := by simp [Statement, decodeTableWord]
theorem stallLimit : Statement (.stallLimit) := by simp [Statement, decodeTableWord]
theorem reelSaturationLimit (r : Reel) : Statement (.reelSaturationLimit r) := by simp [Statement, decodeTableWord]
theorem loopFormComplete : Statement (.loopFormComplete) := by simp [Statement, decodeTableWord]
theorem windOffComplete : Statement (.windOffComplete) := by simp [Statement, decodeTableWord]
theorem vacuumUpTimeout : Statement (.vacuumUpTimeout) := by simp [Statement, decodeTableWord]
theorem loopFormTimeout : Statement (.loopFormTimeout) := by simp [Statement, decodeTableWord]
theorem windOffTimeout : Statement (.windOffTimeout) := by simp [Statement, decodeTableWord]
theorem loadPointSearchLimit : Statement (.loadPointSearchLimit) := by simp [Statement, decodeTableWord]
theorem rezeroTravelLimit : Statement (.rezeroTravelLimit) := by simp [Statement, decodeTableWord]
theorem lampFlashExpiry : Statement (.lampFlashExpiry) := by simp [Statement, decodeTableWord]
theorem capstanTachArrival (p : Pair) : Statement (.capstanTachArrival p) := by simp [Statement, decodeTableWord]
theorem reelTachArrival (r : Reel) (p : Pair) : Statement (.reelTachArrival r p) := by simp [Statement, decodeTableWord]
theorem tachGlitchLimit : Statement (.tachGlitchLimit) := by simp [Statement, decodeTableWord]
theorem revolutionComplete (r : Reel) : Statement (.revolutionComplete r) := by simp [Statement, decodeTableWord]
theorem markerLineArrival (m : Marker) (level : Bool) : Statement (.markerLineArrival m level) := by simp [Statement, decodeTableWord]
theorem loadPointMarkerAccepted : Statement (.loadPointMarkerAccepted) := by simp [Statement, decodeTableWord]
theorem eotMarkerAccepted : Statement (.eotMarkerAccepted) := by simp [Statement, decodeTableWord]
theorem moveCompletion : Statement (.moveCompletion) := by simp [Statement, decodeTableWord]
theorem stopCompletion : Statement (.stopCompletion) := by simp [Statement, decodeTableWord]
theorem faultRampZero : Statement (.faultRampZero) := by simp [Statement, decodeTableWord]
theorem faultReport (x : FaultReport) : Statement (.faultReport x) := by simp [Statement, decodeTableWord]
theorem vacuumArrival (r : Reel) (level : Bool) : Statement (.vacuumArrival r level) := by simp [Statement, decodeTableWord]
theorem driveArrival (l : DriveLine) (level : Bool) : Statement (.driveArrival l level) := by simp [Statement, decodeTableWord]
theorem ringArrival (level : Bool) : Statement (.ringArrival level) := by simp [Statement, decodeTableWord]
theorem onlineSwitchArrival (level : Bool) : Statement (.onlineSwitchArrival level) := by simp [Statement, decodeTableWord]
theorem loadButton : Statement (.loadButton) := by simp [Statement, decodeTableWord]
theorem unloadButton : Statement (.unloadButton) := by simp [Statement, decodeTableWord]
theorem rewindButton : Statement (.rewindButton) := by simp [Statement, decodeTableWord]
theorem resetButton : Statement (.resetButton) := by simp [Statement, decodeTableWord]
theorem writeGateOpen : Statement (.writeGateOpen) := by simp [Statement, decodeTableWord]
theorem writeGateClose : Statement (.writeGateClose) := by simp [Statement, decodeTableWord]
theorem writeByteRequest : Statement (.writeByteRequest) := by simp [Statement, decodeTableWord]
theorem verifyEndPoint : Statement (.verifyEndPoint) := by simp [Statement, decodeTableWord]
theorem rdSigRise : Statement (.rdSigRise) := by simp [Statement, decodeTableWord]
theorem readByteStrobe (v : Byte) : Statement (.readByteStrobe v) := by simp [Statement, decodeTableWord]
theorem rdSigFall : Statement (.rdSigFall) := by simp [Statement, decodeTableWord]
theorem readBlockLengthLimit : Statement (.readBlockLengthLimit) := by simp [Statement, decodeTableWord]
theorem readEndPoint : Statement (.readEndPoint) := by simp [Statement, decodeTableWord]
theorem readBlankTape : Statement (.readBlankTape) := by simp [Statement, decodeTableWord]
theorem scanEndPoint : Statement (.scanEndPoint) := by simp [Statement, decodeTableWord]
theorem scanBlankTape : Statement (.scanBlankTape) := by simp [Statement, decodeTableWord]
theorem frameHeaderComplete (p : PortId) : Statement (.frameHeaderComplete p) := by simp [Statement, decodeTableWord]
theorem inboundByte (p : PortId) (v : Byte) (parity : Bool) : Statement (.inboundByte p v parity) := by simp [Statement, decodeTableWord]
theorem frameEnd (p : PortId) : Statement (.frameEnd p) := by simp [Statement, decodeTableWord]
theorem writeDataAdmitted (p : PortId) : Statement (.writeDataAdmitted p) := by simp [Statement, decodeTableWord]
theorem frameError (p : PortId) : Statement (.frameError p) := by simp [Statement, decodeTableWord]
theorem badCommand (p : PortId) : Statement (.badCommand p) := by simp [Statement, decodeTableWord]
theorem load (p : PortId) : Statement (.load p) := by simp [Statement, decodeTableWord]
theorem readBlock (p : PortId) : Statement (.readBlock p) := by simp [Statement, decodeTableWord]
theorem writeBlock (p : PortId) : Statement (.writeBlock p) := by simp [Statement, decodeTableWord]
theorem writeMark (p : PortId) : Statement (.writeMark p) := by simp [Statement, decodeTableWord]
theorem space (p : PortId) : Statement (.space p) := by simp [Statement, decodeTableWord]
theorem locate (p : PortId) : Statement (.locate p) := by simp [Statement, decodeTableWord]
theorem rewind (p : PortId) : Statement (.rewind p) := by simp [Statement, decodeTableWord]
theorem unload (p : PortId) : Statement (.unload p) := by simp [Statement, decodeTableWord]
theorem pushMark (p : PortId) : Statement (.pushMark p) := by simp [Statement, decodeTableWord]
theorem returnToMark (p : PortId) : Statement (.returnToMark p) := by simp [Statement, decodeTableWord]
theorem sense (p : PortId) : Statement (.sense p) := by simp [Statement, decodeTableWord]
theorem queryDirectory (p : PortId) : Statement (.queryDirectory p) := by simp [Statement, decodeTableWord]
theorem assignWriter (p : PortId) : Statement (.assignWriter p) := by simp [Statement, decodeTableWord]
theorem releaseWriter (p : PortId) : Statement (.releaseWriter p) := by simp [Statement, decodeTableWord]
theorem setPortOptions (p : PortId) : Statement (.setPortOptions p) := by simp [Statement, decodeTableWord]
theorem setDeckParameters (p : PortId) : Statement (.setDeckParameters p) := by simp [Statement, decodeTableWord]
theorem acknowledgeEvents (p : PortId) : Statement (.acknowledgeEvents p) := by simp [Statement, decodeTableWord]
theorem clearFault (p : PortId) : Statement (.clearFault p) := by simp [Statement, decodeTableWord]
theorem abort (p : PortId) : Statement (.abort p) := by simp [Statement, decodeTableWord]
theorem portReset (p : PortId) : Statement (.portReset p) := by simp [Statement, decodeTableWord]
theorem linkLoss (p : PortId) : Statement (.linkLoss p) := by simp [Statement, decodeTableWord]
theorem linkRestored (p : PortId) : Statement (.linkRestored p) := by simp [Statement, decodeTableWord]
theorem recordSent (p : PortId) : Statement (.recordSent p) := by simp [Statement, decodeTableWord]
theorem ciFrmRises (p : PortId) : Statement (.ciFrmRises p) := by simp [Statement, decodeTableWord]
theorem rdMarkArrival (level : Bool) : Statement (.rdMarkArrival level) := by simp [Statement, decodeTableWord]
theorem statusByteSent (p : PortId) (soRdy : Bool) : Statement (.statusByteSent p soRdy) := by simp [Statement, decodeTableWord]

end Sys2Proof.Laws.NoWord
end

