-- ==== Sys2Proof/Laws/Takes.lean ====
section
/-! SUPPORT. What the take of a frame of every command keeps, and the take of a frame that waits (R152 to R154, R172, R175):
of `SharedOk`, of `EngineOk`, and of every closed predicate. -/

namespace Sys2Proof.Machine

/-! ## What the ports, the buffer and the arbiter share -/

theorem SharedOk.assignWriter (p : PortId) (h : Hdr) {s : State} (hs : SharedOk s) : SharedOk (s.assignWriter p h) := by
  unfold State.assignWriter
  dsimp only
  split
  · exact SharedOk.answer _ _ _ _ _ (SharedOk.addEvents _ (hs.setWriter _))
  · exact SharedOk.answer _ _ _ _ _ hs

theorem SharedOk.releaseWriter (p : PortId) (h : Hdr) {s : State} (hs : SharedOk s) : SharedOk (s.releaseWriter p h) := by
  unfold State.releaseWriter
  split
  · exact SharedOk.answer _ _ _ _ _ hs
  · split
    · exact SharedOk.answer _ _ _ _ _ (SharedOk.addEvents _ (hs.setWriter _))
    · exact SharedOk.answer _ _ _ _ _ hs

theorem SharedOk.setPortOptions (p : PortId) (h : Hdr) {s : State} (hs : SharedOk s) : SharedOk (s.setPortOptions p h) :=
  SharedOk.answer _ _ _ _ _ (hs.onPort p fun _ => ⟨Nat.le_refl _, rfl, rfl, Nat.le_refl _⟩)

theorem SharedOk.setDeckParameters (p : PortId) (h : Hdr) {s : State} (hs : SharedOk s) :
    SharedOk (s.setDeckParameters p h) := by
  unfold State.setDeckParameters
  split
  · exact SharedOk.answer _ _ _ _ _ hs
  · split
    · exact SharedOk.answer _ _ _ _ _ hs
    · exact SharedOk.answer _ _ _ _ _ (hs.onDsq _)

theorem SharedOk.acknowledgeEvents (p : PortId) (h : Hdr) {s : State} (hs : SharedOk s) :
    SharedOk (s.acknowledgeEvents p h) :=
  SharedOk.answer _ _ _ _ _ (hs.onPort p fun _ => ⟨Nat.le_refl _, rfl, rfl, Nat.le_refl _⟩)

theorem SharedOk.clearFault (p : PortId) (h : Hdr) {s : State} (hs : SharedOk s) : SharedOk (s.clearFault p h) := by
  unfold State.clearFault
  split
  · split
    · exact SharedOk.answer _ _ _ _ _ (SharedOk.acceptedClear hs)
    · exact SharedOk.answer _ _ _ _ _ hs
  · exact SharedOk.answer _ _ _ _ _ (SharedOk.hardClear hs)
  · exact SharedOk.answer _ _ _ _ _ hs

theorem SharedOk.abort (p : PortId) (h : Hdr) {s : State} (hs : SharedOk s) : SharedOk (s.abort p h) :=
  SharedOk.answer _ _ _ _ _ (SharedOk.abortNotice p (SharedOk.cancelQueued p hs))

theorem SharedOk.senseFrame (p : PortId) {s : State} (h : SharedOk s) : SharedOk (s.senseFrame p) :=
  (SharedOk.answer _ _ _ _ _ (SharedOk.nextFrame p h)).drawn _

theorem queueRoom_of_takes {s : State} {p : PortId} {c : Cmd} (hw : c.isWrite = true)
    (ht : s.takes p c = true) (hn : c = .writeBlock → (s.port p).rx.header.dataLen ≠ 0) : (s.port p).queueRoom = true := by
  unfold State.takes at ht
  cases c <;> simp_all [Cmd.isWrite]

/-- The take of a frame keeps what the ports, the buffer and the arbiter share. -/
theorem SharedOk.takeFrame (p : PortId) (c : Cmd) {s : State} (h : SharedOk s) (ht : s.takes p c = true) :
    SharedOk (s.takeFrame p c) := by
  cases c
  case writeBlock =>
    unfold State.takeFrame
    dsimp only
    split
    · exact h.answerFrame p _
    · exact h.writeFrame p _ (queueRoom_of_takes rfl ht fun _ => ‹_›)
  case writeMark => exact h.writeFrame p _ (queueRoom_of_takes rfl ht (by simp))
  case sense => exact h.senseFrame p
  case queryDirectory => exact h.immediateFrame p fun _ _ hs => SharedOk.answer _ _ _ _ _ hs
  case assignWriter => exact h.immediateFrame p fun hd _ hs => hs.assignWriter p hd
  case releaseWriter => exact h.immediateFrame p fun hd _ hs => hs.releaseWriter p hd
  case setPortOptions => exact h.immediateFrame p fun hd _ hs => hs.setPortOptions p hd
  case setDeckParameters => exact h.immediateFrame p fun hd _ hs => hs.setDeckParameters p hd
  case acknowledgeEvents => exact h.immediateFrame p fun hd _ hs => hs.acknowledgeEvents p hd
  case clearFault => exact h.immediateFrame p fun hd _ hs => hs.clearFault p hd
  case abort => exact h.immediateFrame p fun hd _ hs => hs.abort p hd
  case portReset => exact h
  all_goals exact h.queueFrame p rfl rfl ht

theorem SharedOk.admitData (p : PortId) {s : State} (h : SharedOk s) (hm : s.mayAdmit p = true) : SharedOk (s.admitData p) := by
  unfold State.admitData
  split
  · refine h.allotSlot p _ ?_
    simp only [State.mayAdmit, Bool.and_eq_true, decide_eq_true_eq] at hm
    exact hm.2
  · exact h

/-- The take of a waiting frame keeps what the ports, the buffer and the arbiter share. -/
theorem SharedOk.takeWaiting (p : PortId) {s : State} (h : SharedOk s) : SharedOk (s.takeWaiting p) := by
  unfold State.takeWaiting
  split
  · exact h.admitData p ‹_›
  · split
    · exact h.answerFrame p _
    · split
      · exact h.answerFrame p _
      · split
        · split
          · exact h.takeFrame p _ ‹_›
          · exact h
        · exact h

/-! ## What the engine keeps with the deck and the queues -/

theorem Room.setWriter {s : State} {p : PortId} (h : Room s p) (w : Option PortId) : Room (s.setWriter w) p :=
  h.of_view (by unfold State.setWriter; rw [view_addEvents, view_onArb])

theorem Room.assignWriter {s : State} {p : PortId} (h : Room s p) (hd : Hdr) : EngineOk (s.assignWriter p hd) := by
  unfold State.assignWriter
  dsimp only
  split
  · exact (h.setWriter _).answer _ _ _ _
  · exact h.answer _ _ _ _

theorem Room.releaseWriter {s : State} {p : PortId} (h : Room s p) (hd : Hdr) : EngineOk (s.releaseWriter p hd) := by
  unfold State.releaseWriter
  split
  · exact h.answer _ _ _ _
  · split
    · exact (h.setWriter _).answer _ _ _ _
    · exact h.answer _ _ _ _

theorem Room.setPortOptions {s : State} {p : PortId} (h : Room s p) (hd : Hdr) : EngineOk (s.setPortOptions p hd) :=
  (h.of_view (view_onPort rfl rfl)).answer _ _ _ _

theorem Room.setDeckParameters {s : State} {p : PortId} (h : Room s p) (hd : Hdr) : EngineOk (s.setDeckParameters p hd) := by
  unfold State.setDeckParameters
  split
  · exact h.answer _ _ _ _
  · split
    · exact h.answer _ _ _ _
    · exact (h.of_view (view_onDsq rfl rfl)).answer _ _ _ _

theorem Room.acknowledgeEvents {s : State} {p : PortId} (h : Room s p) (hd : Hdr) : EngineOk (s.acknowledgeEvents p hd) :=
  (h.of_view (view_onPort rfl rfl)).answer _ _ _ _

theorem Room.clearFault {s : State} {p : PortId} (h : Room s p) (hd : Hdr) : EngineOk (s.clearFault p hd) := by
  unfold State.clearFault
  split
  · split
    · exact (h.acceptedClear ‹_›).answer _ _ _ _
    · exact h.answer _ _ _ _
  · exact (h.hardClear ‹_›).answer _ _ _ _
  · exact h.answer _ _ _ _

theorem Room.abort {s : State} {p : PortId} (h : Room s p) (hd : Hdr) : EngineOk (s.abort p hd) := by
  have hc := h.ok.cancelQueued p
  exact Room.answer ⟨hc.1.abortNotice p, by rw [abortNotice_records]; exact lt_of_le_of_lt hc.2 h.room⟩ _ _ _ _

theorem Room.senseFrame {s : State} {p : PortId} (h : Room s p) : EngineOk (s.senseFrame p) :=
  (h.nextFrame.answer _ _ _ _).same (view_drawn _ _)

/-- The take of a frame, with room for its record, keeps what the engine keeps. -/
theorem Room.takeFrame {s : State} {p : PortId} (h : Room s p) (c : Cmd) : EngineOk (s.takeFrame p c) := by
  cases c
  case writeBlock =>
    unfold State.takeFrame
    dsimp only
    split
    · exact h.answerFrame _
    · exact h.writeFrame _
  case writeMark => exact h.writeFrame _
  case sense => exact h.senseFrame
  case queryDirectory => exact h.immediateFrame fun _ _ _ hr => hr.answer _ _ _ _
  case assignWriter => exact h.immediateFrame fun hd _ _ hr => hr.assignWriter hd
  case releaseWriter => exact h.immediateFrame fun hd _ _ hr => hr.releaseWriter hd
  case setPortOptions => exact h.immediateFrame fun hd _ _ hr => hr.setPortOptions hd
  case setDeckParameters => exact h.immediateFrame fun hd _ _ hr => hr.setDeckParameters hd
  case acknowledgeEvents => exact h.immediateFrame fun hd _ _ hr => hr.acknowledgeEvents hd
  case clearFault => exact h.immediateFrame fun hd _ _ hr => hr.clearFault hd
  case abort => exact h.immediateFrame fun hd _ _ hr => hr.abort hd
  case portReset => exact h.ok
  all_goals exact h.queueFrame _

theorem EngineOk.admitData {s : State} (h : EngineOk s) (p : PortId) : EngineOk (s.admitData p) := by
  unfold State.admitData
  split
  · exact (h.same (view_onBbf _ _)).same (view_onPort rfl rfl)
  · exact h

/-- The take of a waiting frame keeps what the engine keeps. -/
theorem EngineOk.takeWaiting {s : State} (h : EngineOk s) (p : PortId) : EngineOk (s.takeWaiting p) := by
  unfold State.takeWaiting
  split
  · exact h.admitData p
  · split
    · rename_i hd
      simp only [State.errorFrameDue, Bool.and_eq_true] at hd
      exact Room.answerFrame ⟨h, room_of_holds hd.1⟩ _
    · split
      · rename_i hd
        simp only [State.unknownFrameDue, Bool.and_eq_true] at hd
        exact Room.answerFrame ⟨h, room_of_holds hd.1.1⟩ _
      · split
        · split
          · exact Room.takeFrame ⟨h, room_of_takes ‹_›⟩ _
          · exact h
        · exact h

/-- A record sent leaves no more records owed. -/
theorem EngineOk.recordLeaves {s : State} (h : EngineOk s) (p : PortId) (r : Rec) : EngineOk (s.recordLeaves p r) := by
  unfold State.recordLeaves
  refine EngineOk.same ?_ (view_onBbf _ _)
  refine h.onPort p _ [] (by simp) (by simp) ?_
  have := h.records p
  simp only [Port.recordCount, List.length_tail] at this ⊢
  omega

/-! ## Every closed predicate -/

variable {P : State → Prop}

theorem Closed.answer (hc : Closed P) (p : PortId) (h : Hdr) (c : Code) (detail : Nat) (data : List Byte) {s : State}
    (hP : P s) : P (s.answer p h c detail data) := hc.place p _ hP

theorem Closed.refuse (hc : Closed P) (p : PortId) (h : Hdr) (slot : Option Nat) (c : Code) (detail : Nat) {s : State}
    (hP : P s) : P (s.refuse p h slot c detail) := by
  unfold State.refuse
  try dsimp only
  repeat' first
    | with_reducible exact hP | with_reducible apply hc.port | with_reducible apply hc.bbf
    | with_reducible apply hc.answer | split

theorem Closed.queueFrame (hc : Closed P) (p : PortId) (c : Cmd) {s : State} (hP : P s) : P (s.queueFrame p c) := by
  unfold State.queueFrame State.joinQueue
  try dsimp only
  repeat' first
    | with_reducible exact hP | with_reducible apply hc.port | with_reducible apply hc.refuse | split

theorem Closed.acceptWrite (hc : Closed P) (p : PortId) (c : Cmd) (h : Hdr) (slot : Option Nat) (n : Nat) {s : State}
    (hP : P s) : P (s.acceptWrite p c h slot n) := by
  unfold State.acceptWrite State.truncateAt State.makePending State.joinQueue State.answerBuffered
  try dsimp only
  repeat' first
    | with_reducible exact hP | with_reducible apply hc.port | with_reducible apply hc.bbf
    | with_reducible apply hc.boundPorts | with_reducible apply hc.answer
    | with_reducible refine hc.bdr _ _ (fun d hd => hd.truncate _) ?_ | split

theorem Closed.writeFrame (hc : Closed P) (p : PortId) (c : Cmd) {s : State} (hP : P s) : P (s.writeFrame p c) := by
  unfold State.writeFrame
  try dsimp only
  repeat' first
    | with_reducible exact hP | with_reducible apply hc.port | with_reducible apply hc.refuse
    | with_reducible apply hc.acceptWrite | split

theorem Closed.answerFrame (hc : Closed P) (p : PortId) (c : Code) {s : State} (hP : P s) : P (s.answerFrame p c) :=
  hc.place p _ (hc.port p _ _ hP)

theorem Closed.immediateFrame (hc : Closed P) (p : PortId) {body : Hdr → State → State}
    (hb : ∀ h {t : State}, P t → P (body h t)) {s : State} (hP : P s) : P (s.immediateFrame p body) := by
  unfold State.immediateFrame
  dsimp only
  split
  · exact hc.refuse _ _ _ _ _ (hc.port _ _ _ hP)
  · exact hb _ (hc.port _ _ _ hP)

theorem Closed.setWriter (hc : Closed P) (w : Option PortId) {s : State} (hP : P s) : P (s.setWriter w) :=
  hc.addEvents _ (hc.arb _ _ hP)

theorem Closed.cancelQueued (hc : Closed P) (p : PortId) {s : State} (hP : P s) : P (s.cancelQueued p) := by
  unfold State.cancelQueued
  try dsimp only
  repeat' first
    | with_reducible exact hP | with_reducible apply hc.port | with_reducible apply hc.deferOpt
    | with_reducible apply hc.rollbackTo | with_reducible apply hc.freeSlots | split

theorem Closed.abortNotice (hc : Closed P) (p : PortId) {s : State} (hP : P s) : P (s.abortNotice p) := by
  unfold State.abortNotice State.abortJob
  try dsimp only
  repeat' first
    | with_reducible exact hP | with_reducible apply hc.ope | with_reducible apply hc.stopAt | split

/-- The take of a frame keeps every closed predicate. -/
theorem Closed.takeFrame (hc : Closed P) (p : PortId) (c : Cmd) {s : State} (hP : P s) : P (s.takeFrame p c) := by
  cases c
  case writeBlock =>
    unfold State.takeFrame
    dsimp only
    split
    · exact hc.answerFrame p _ hP
    · exact hc.writeFrame p _ hP
  case writeMark => exact hc.writeFrame p _ hP
  case sense => exact hc.drawn _ _ (hc.answer _ _ _ _ _ (hc.port _ _ _ hP))
  case portReset => exact hP
  case queryDirectory | assignWriter | releaseWriter | setPortOptions | setDeckParameters | acknowledgeEvents | clearFault
      | abort =>
    refine hc.immediateFrame p (fun h t ht => ?_) hP
    simp only [State.answerQuery, State.assignWriter, State.releaseWriter, State.setPortOptions, State.setDeckParameters,
      State.acknowledgeEvents, State.clearFault, State.abort]
    repeat' first
      | with_reducible exact ht | with_reducible apply hc.answer | with_reducible apply hc.setWriter
      | with_reducible apply hc.port | with_reducible apply hc.dsq | with_reducible apply hc.acceptedClear
      | with_reducible apply hc.hardClear | with_reducible apply hc.abortNotice | with_reducible apply hc.cancelQueued | split
  all_goals exact hc.queueFrame p _ hP

theorem Closed.admitData (hc : Closed P) (p : PortId) {s : State} (hP : P s) : P (s.admitData p) := by
  unfold State.admitData State.allotSlot State.onRx
  try dsimp only
  repeat' first
    | with_reducible exact hP | with_reducible apply hc.port | with_reducible apply hc.bbf | split

/-- The take of a waiting frame keeps every closed predicate. -/
theorem Closed.takeWaiting (hc : Closed P) (p : PortId) {s : State} (hP : P s) : P (s.takeWaiting p) := by
  unfold State.takeWaiting
  repeat' first
    | with_reducible exact hP | with_reducible apply hc.admitData | with_reducible apply hc.answerFrame
    | with_reducible apply hc.takeFrame | split

theorem Closed.recordLeaves (hc : Closed P) (p : PortId) (r : Rec) {s : State} (hP : P s) : P (s.recordLeaves p r) :=
  hc.bbf _ _ (hc.port _ _ _ hP)

end Sys2Proof.Machine
end

