-- ==== Sys2Proof/WellFormed.lean ====
section
/-! DEFINITION. Which commands can come from the outside: the buses a command carries hold a value their lines can
spell. Everything else a command carries is a level, a byte or a name, and cannot be ill-formed. The meanings are
total: on a value no bus can spell they read the bus's own lines only (`Machine.loopSample`, `Machine.State.powerOn`). -/

namespace Sys2Proof

/-- A loop bus has ten lines (R186). -/
def loopBusOk (n : Nat) : Bool := n ≤ 1023

/-- DECK-NUM has four lines (R189). -/
def deckNumOk (n : Nat) : Bool := n ≤ 15

/-- A report names a reel exactly when its kind does (R44, R55). -/
def faultReportOk (x : FaultReport) : Bool := x.reel.isSome = x.kind.namesReel

/-- A command the outside can send. -/
def Instr.wellFormed : Instr → Bool
  | .regulationPeriodExpiry ls lt => loopBusOk ls && loopBusOk lt
  | .resetFall lv => loopBusOk lv.loopS && loopBusOk lv.loopT && deckNumOk lv.deckNum
  | .faultReport x => faultReportOk x
  | _ => true

end Sys2Proof
end

