-- ==== Sys2Proof/Tests/Slice0.lean ====
section
/-! SUPPORT. Tests of the model against the manual's worked examples and tables, the smoke tests of well-formedness, and
for each obligation with hypotheses concrete values that meet them (`witness_<obligation>`), at the boundary of each
clause's range where it has one. Expected values come from the manual, never from the model. -/

namespace Sys2Proof.Tests

open Sys2Proof.Machine

/- One theorem after another: kernel evaluations that wait for each other would each hold a thread. -/
set_option Elab.async false

/-! ## Well-formedness -/

theorem test_loop_bus_of_ten_lines : Instr.wellFormed (.regulationPeriodExpiry 1023 0) = true := by decide
theorem test_loop_s_beyond_its_bus_is_refused : Instr.wellFormed (.regulationPeriodExpiry 1024 0) = false := by decide
theorem test_loop_t_beyond_its_bus_is_refused : Instr.wellFormed (.regulationPeriodExpiry 0 1024) = false := by decide
theorem test_reset_loop_s_beyond_its_bus_is_refused :
    Instr.wellFormed (.resetFall { Levels.low with loopS := 1024 }) = false := by decide
theorem test_reset_loop_t_beyond_its_bus_is_refused :
    Instr.wellFormed (.resetFall { Levels.low with loopT := 1024 }) = false := by decide
theorem test_deck_num_beyond_its_lines_is_refused :
    Instr.wellFormed (.resetFall { Levels.low with deckNum := 16 }) = false := by decide
theorem test_loop_out_without_its_column_is_refused : Instr.wellFormed (.faultReport FaultKind.loopOut.report) = false := by
  decide
theorem test_media_with_a_reel_is_refused : Instr.wellFormed (.faultReport (FaultKind.media.reportAt .supply)) = false := by
  decide
theorem test_loop_out_with_its_column : Instr.wellFormed (.faultReport (FaultKind.loopOut.reportAt .takeup)) = true := by
  decide

/-! ## Small states -/

/-- The levels of a deck that is mounted, powered and linked at both ports. -/
def levels : Levels :=
  { Levels.low with online := true, portbEn := true, vacS := true, vacT := true, ampRdy := true, ring := true,
                    loopS := 512, loopT := 512, linkA := true, linkB := true }

/-- The deck READY and online at the load point, the volume write-enabled. -/
def live : State :=
  let s := State.powerOn levels
  { s with dsq := { s.dsq with deck := .ready, writeEnable := true }, ope := { s.ope with posValid := true } }

/-- The deck in another state. -/
def inDeck (d : Deck) : State := { live with dsq := { live.dsq with deck := d } }

/-- The deck in a state with the panel in charge. -/
def offline (d : Deck) : State := { live with dsq := { live.dsq with deck := d, online := false } }

/-- The deck FAULTED in a substate after a fault in READY. -/
def faulted (d : Deck) (k : FaultKind) : State :=
  { live with dsq := { live.dsq with deck := d, faultKind := some k, resume := some .ready } }

/-- A frame that has ended at a port. -/
def ended (p : PortId) (code : Byte) (param : BitVec 32) (s : State) : State :=
  s.onPort p (fun q =>
    { q with rx := { state := .ended, bytes := Hdr.encode { code := code, tag := 7, flags := 0, param := param, len := 0 },
                     isRead := true, bad := false, slot := none } })

/-- A frame whose nine header bytes are in, CI-FRM true. -/
def header (p : PortId) (code : Byte) (len : BitVec 16) (s : State) : State :=
  s.onPort p (fun q =>
    { q with ciFrm := true,
             rx := { Rx.none with state := .header,
                                  bytes := Hdr.encode { code := code, tag := 7, flags := 0, param := 0, len := len } } })

/-- An operation owing its record. -/
def op (c : Cmd) (param : Int) (block slot : Option Nat) : Op :=
  { cmd := c, tag := 9, param := param, chain := false, owed := true, block := block, slot := slot, granted := true }

/-- A job of port A. -/
def job (c : Cmd) (st : Stage) (param : Int) (n goal : Nat) (slot : Option Nat) : Job :=
  { actor := .port .a, op := op c param (if c.isWrite then some n else none) slot, n := n, orphan := false,
    aborted := false, stage := st, goal := goal, moveTarget := 22750, crossed := 0, toEod := false }

/-- A job being executed in a phase, at the head of port A's queue. -/
def working (ph : Phase) (j : Job) (s : State) : State :=
  let t := s.onPort .a (fun q => { q with queue := [j.op] })
  { t with ope := { t.ope with phase := ph, job := some j } }

/-- A completion waiting to be taken. -/
def reported (c : Completion) (s : State) : State := { s with tsv := { s.tsv with report := some c } }

/-- The counter at a position. -/
def at' (x : Int) (s : State) : State := { s with tsv := { s.tsv with counter := x } }

/-- The nine bytes of the manual's check-field example (R115). -/
def nine : List Byte := [0x31, 0x32, 0x33, 0x34, 0x35, 0x36, 0x37, 0x38, 0x39]

/-- A slot in a state for port A, block `n`, with the nine bytes. -/
def slotOf (st : SlotState) (n : Nat) : Slot :=
  { Slot.freed with state := st, owner := (if st = .cached then none else some .a), block := some n, len := 9, data := nine }

/-- Slot 0 holds it. -/
def slot0 (st : SlotState) (n : Nat) (s : State) : State :=
  { s with bbf := { slots := s.bbf.slots.set 0 (slotOf st n), cache := if st = .cached then [0] else [] } }

/-- A marker search running with a travel. -/
def searching (p : SearchPass) (x : Int) : State :=
  { live with dsq := { live.dsq with search := some ⟨p, .running⟩, searchTravel := x } }

/-- The state a command leaves. -/
def after (i : Instr) (s : State) : State :=
  match exec i s with
  | .next t => t
  | _ => s

/-! ## The manual's worked examples -/

/-- R115: the check values of the nine bytes 31h to 39h, as recorded. -/
theorem test_check_field_kind_16 : checkField .k16 nine = [0x29, 0xB1] := by decide +kernel
theorem test_check_field_kind_32 : checkField .k32 nine = [0x26, 0x39, 0xF4, 0xCB] := by decide +kernel

/-- R96, R113: extents of blocks of 1, 8,000 and 16,384 bytes. -/
theorem test_extents : dataExtent 1 = 121 ∧ dataExtent 8000 = 1400 ∧ dataExtent 16384 = 2742 := by decide

/-- R28: the class at 20,000, 19,999, 400 and 399 counts, and behind the tape. -/
theorem test_speed_classes :
    classOf 20000 = .fast ∧ classOf 19999 = .normal ∧ classOf 400 = .normal ∧ classOf 399 = .creep ∧ classOf (-1) = .creep := by
  decide

/-- R53: the table of corrections at gains 1, 6, 12 and 15. -/
theorem test_corrections :
    [1, 6, 12, 15].map (fun g => correction g 540) = [0, -3, -5, -7] ∧
    [1, 6, 12, 15].map (fun g => correction g 612) = [-2, -9, -19, -23] ∧
    [1, 6, 12, 15].map (fun g => correction g 500) = [0, 1, 2, 3] ∧
    [1, 6, 12, 15].map (fun g => correction g 64) = [7, 42, 84, 105] := by decide

/-- Worked regulation cases 1 to 3. -/
theorem test_regulation_cases :
    commandSum .supply 400 29835 6 540 = 11 ∧ commandSum .takeup 400 16000 6 500 = -25 ∧
    commandSum .takeup (-1280) 12000 15 32 = 222 ∧ limitCommand 222 = 160 := by decide

/-- Worked saturation during a FAST ramp: expiries 2, 4 and 6. -/
theorem test_saturation_rows :
    commandSum .takeup 1136 12400 12 760 = -141 ∧ commandSum .takeup 1168 12400 12 870 = -163 ∧
    commandSum .takeup 1168 12400 12 855 = -160 := by decide

/-- Worked saturation, expiry 5: under the hold Vc stays at 1,168. -/
theorem test_hold_stops_the_ramp : stepVc 1168 1280 16 true = 1168 ∧ stepVc 1168 1280 16 false = 1184 := by decide

/-- A reverse NORMAL move to 22,750. -/
def reverseMove (x vc : Int) (latch : Bool) : State :=
  { live with tsv := { live.tsv with counter := x, vc := vc, target := -400,
                                     order := .move { target := 22750, forward := false, speed := .normal, latch := latch } .engine } }

/-- Worked NORMAL move, expiry 80: at 22,800 the latch is set and Vc becomes −320. -/
theorem test_normal_move_brakes :
    (after (.regulationPeriodExpiry 512 512) (reverseMove 22800 (-400) false)).tsv.vc = -320 ∧
    (after (.regulationPeriodExpiry 512 512) (reverseMove 22825 (-400) false)).tsv.vc = -400 := by decide +kernel

/-- Worked NORMAL move, expiry 84: Vc reaches 0 and the completion is reported with e = 0. -/
theorem test_normal_move_completes :
    (after (.regulationPeriodExpiry 512 512) (reverseMove 22750 (-80) true)).tsv.report = some (.moveDone .engine 0) := by
  decide +kernel

/-- Worked revolution measurement. -/
def turning : State :=
  { live with tsv := { live.tsv with
      counter := 1233700
      supply := { live.tsv.supply with pack := 30000, acc := 1024, capSnap := 1204600, loopSnap := 498, loop := 510 } } }

theorem test_revolution : (after (.revolutionComplete .supply) turning).tsv.supply.pack = 29835 := by decide +kernel

/-- R34: 11 to 01 is a count forward; 00 to 11 a glitch. -/
theorem test_capstan_count :
    (after (.capstanTachArrival ⟨false, true⟩) { live with tsv := { live.tsv with lastPair := ⟨true, true⟩ } }).tsv.counter = 1
    ∧ (after (.capstanTachArrival ⟨true, true⟩) live).tsv.glitches = 1 := by decide +kernel

/-- R47: a reel count enters its accumulator while the measurement runs. -/
theorem test_reel_count :
    (after (.reelTachArrival .takeup ⟨false, true⟩)
      { live with tsv := { live.tsv with takeup := { live.tsv.takeup with measuring := true } } }).tsv.takeup.acc = -1
    ∧ (after (.reelTachArrival .takeup ⟨false, true⟩) live).tsv.takeup.acc = 0 := by decide +kernel

/-- R40: EOT first sighted at 28,400,000. -/
theorem test_eot_marker :
    (after .eotMarkerAccepted { live with tsv := { live.tsv with eotDue := some (true, 28400000) } }).tsv.eotPos = some 28400000 := by
  decide +kernel

/-- R41: the overrun line at 28,520,000. -/
theorem test_overrun_line :
    overrunAt true (some 28400000) true 28520001 = true ∧ overrunAt true (some 28400000) true 28520000 = false := by decide

/-- Worked load: the marker accepted forward sets the counter to 16. -/
theorem test_load_point_marker :
    (after .loadPointMarkerAccepted
      { inDeck .loadPointSearch with
        tsv := { live.tsv with counter := 7412, lpDue := some true }
        dsq := { live.dsq with deck := .loadPointSearch, search := some ⟨.load, .running⟩ } }).tsv.counter = 16 := by
  decide +kernel

/-- Worked load: VAC-T true after VAC-S ends VACUUM_UP. -/
theorem test_vacuum_up_ends :
    (after (.vacuumArrival .takeup true)
      { live with dsq := { live.dsq with deck := .vacuumUp, vacT := false } }).dsq.deck = .loopForm := by decide +kernel

/-- Worked fault: Vc 400 under the fault ramp becomes 240. -/
theorem test_fault_ramp :
    (after (.regulationPeriodExpiry 905 520)
      { inDeck .faultStop with tsv := { live.tsv with vc := 400, order := .faultRamp } }).tsv.vc = 240 := by decide +kernel

/-- Worked escalation: LOOP_OUT taken in FAULT_STOP is a hard stop. -/
theorem test_escalation :
    (after (.faultReport (FaultKind.loopOut.reportAt .supply))
      { live with dsq := { live.dsq with deck := .faultStop, faults := [FaultKind.loopOut.reportAt .supply] } }).dsq.deck
      = .faultedHard := by decide +kernel

/-- Worked write with one verify failure, row 6: W of attempt 1 from expected start 243,000. -/
theorem test_retry_write_start :
    (after .moveCompletion
      (reported (.moveDone .engine 0)
        (working .move (job .writeMark .retryMove 0 120 120 none)
          { at' 242750 live with ope := { live.ope with deckNext := 120, expStart := 243000 } }))).ope.w = 244200 := by
  decide +kernel

/-- Worked write, row 9: the expected start after a verified mark is W + 900. -/
def markVerified : State :=
  let s := working .verify (job .writeMark .writing 0 120 120 none) (at' 244800 live)
  { s with ope := { s.ope with w := 244200, seen := { Seen.nothing with rises := 1, mark := true, endAt := some 244480 } } }

theorem test_mark_verified :
    (after .verifyEndPoint markVerified).ope.expStart = 245100 ∧ (after .verifyEndPoint markVerified).portA.next = 121 := by
  decide +kernel

/-- Worked locate: from 2,402,750 to 14,002,750, FAST, at the entry of block 7,000. -/
def decimated : State :=
  let s := at' 2402750 live
  { s with
    bdr := { entries := [{ num := 7000, start := 14003000, extent := 1400, len := 8000, mark := false, failed := false }],
             stride := 4, known := 9001, eod := none }
    ope := { s.ope with deckNext := 1200, expStart := 2403000 }
    portA := { s.portA with next := 1200 } }

theorem test_locate_moves_to_the_entry_below :
    (after (.locate .a) (ended .a 0x06 7003 decimated)).tsv.order
      = .move { target := 14002750, forward := true, speed := .fast, latch := false } .engine := by decide +kernel

/-- R144: REWIND moves to position 0, in reverse from above it. -/
theorem test_rewind :
    (after (.rewind .a) (ended .a 0x07 0 (at' 24750 live))).tsv.order
      = .move { target := 0, forward := false, speed := .fast, latch := false } .engine := by decide +kernel

/-- R142: a backward SPACE at block 0 completes OK at once with its whole count. -/
theorem test_backward_space_at_block_0 :
    firstAdded (ended .a 0x05 (-3) live) (after (.space .a) (ended .a 0x05 (-3) live)) .a
      = some (.complete, 7, 0x05, .ok, 3, .bytes []) := by decide +kernel

/-- Worked marks: the fifth push discards the oldest mark and sets the flag. -/
theorem test_mark_overflow :
    let s := live.onPort .a (fun q => { q with marks := [60, 61, 62, 63], next := 64 })
    let t := after (.pushMark .a) (ended .a 0x09 0 s)
    t.portA.marks = [61, 62, 63, 64] ∧ t.portA.overflow = true := by decide +kernel

/-- Worked truncation: a write taken as block 3,001 sets EOD 3,002 and clamps port B to it. -/
theorem test_write_take :
    let s := { live with arb := { live.arb with writer := some .a }, portA := { live.portA with next := 3001 }
                         portB := { live.portB with next := 5000 } }
    let t := after (.writeMark .a) (ended .a 0x04 0 s)
    t.bdr.eod = some 3002 ∧ t.portB.next = 3002 := by decide +kernel

/-- Table 10-2: a record is fifteen header bytes; the first of a COMPLETE is 1. -/
theorem test_first_byte_of_a_record :
    let s := live.seal
    let t := after (.statusByteSent .a true) (s.onPort .a (fun q =>
      { q with status := [{ completeRec 5 0x01 .ok 0 [] with stamp := some { deckByte := 0x20, flags := 2, next := 0 } }] }))
    t.portA.soData = 1 ∧ t.portA.soPar = false ∧ t.portA.sent = 1 := by decide +kernel

/-- R168: a byte with bad parity makes an error frame. -/
theorem test_bad_parity :
    (after (.inboundByte .a 0x10 true) (after (.ciFrmRises .a) live)).portA.rx.bad = true
    ∧ (after (.inboundByte .a 0x10 false) (after (.ciFrmRises .a) live)).portA.rx.bytes = [0x10] := by decide +kernel

/-- R180: SENSE carries 215 bytes; byte 6 is DECK-NUM and byte 5 the flags of a live deck. -/
theorem test_sense_flags :
    (live.sense .a).length = 215 ∧ (live.sense .a)[5]? = some 0xEF ∧ (live.sense .a)[6]? = some 0 := by decide +kernel

/-- R155: no port becomes writer of a write-protected volume. -/
theorem test_assign_writer :
    (after (.assignWriter .b) (ended .b 0x12 0 live)).arb.writer = some .b
    ∧ (after (.assignWriter .b) (ended .b 0x12 0 { live with dsq := { live.dsq with writeEnable := false } })).arb.writer
        = none := by decide +kernel

/-- R16, R17: the outputs of a deck stopped hard. -/
theorem test_hard_stop_outputs : Deck.faultedHard.pump = true ∧ Deck.faultedHard.brake = true := by decide

/-! ## States that meet the hypotheses of the obligations -/

theorem witness_StepRunsTheFrontCommand : live.pending = [] := by decide

theorem witness_ResetLine :
    (after .powerUp live).inReset = true ∧ live.inReset = false
    ∧ Instr.loadButton ≠ .powerUp ∧ Instr.loadButton ≠ .resetRise ∧ ∀ v, Instr.loadButton ≠ .resetFall v := by
  refine ⟨by decide, by decide, by decide, by decide, fun v => by simp⟩

/-- A live servo in range, with Vc at its greatest. -/
def fast : State := { live with tsv := { live.tsv with vc := 1280, target := -1280 }, pending := [.regulationPeriodExpiry 0 1023] }

theorem witness_EveryStepKeepsTheServoInRange : ServoOk fast.tsv ∧ ∃ t, step fast = .next t := by
  refine ⟨⟨by decide, by decide, by decide, by decide, by decide, by decide, ?_, ?_⟩, _, rfl⟩ <;>
    exact ⟨by decide, by decide, by decide, by decide, by decide, by decide⟩

theorem portOk_decimated (p : PortId) : PortOk decimated.bdr (decimated.port p) := by
  cases p <;> exact ⟨by decide, by decide, by decide, by decide⟩

/-- The engine of a deck at rest with no operation. -/
theorem engineOk_resting {s : State} (h : s.ope.asking = false ∧ s.ope.job = none ∧ s.ope.waiting = none ∧ s.dsq.search = none
    ∧ s.portA.queue = [] ∧ s.portB.queue = [] ∧ ∀ p, (s.port p).recordCount ≤ Config.maxRecords) : EngineOk s := by
  obtain ⟨ha, hj, hw, hs, hA, hB, hr⟩ := h
  refine ⟨ha, fun _ => hj, fun h => ?_, fun x h => ?_, fun j h => ?_, fun j h => ?_, fun j h => ?_, fun p o ho => ?_, hr⟩
  · rw [hw] at h; cases h
  · rw [hs] at h; cases h
  · rw [hj] at h; cases h
  · rw [hj] at h; cases h
  · rw [hj, hw] at h; rcases h with h | h <;> cases h
  · cases p
    · exact absurd (show o ∈ s.portA.queue from ho) (by rw [hA]; exact List.not_mem_nil)
    · exact absurd (show o ∈ s.portB.queue from ho) (by rw [hB]; exact List.not_mem_nil)

theorem witness_EveryStepKeepsTheDirectoryInOrder :
    decimated.bdr.wf ∧ SharedOk decimated ∧ EngineOk decimated ∧ ∃ t, step decimated = .next t := by
  refine ⟨by decide, ⟨portOk_decimated, by decide, by decide, by decide, fun p => by cases p <;> decide, by decide⟩,
    engineOk_resting ⟨by decide, by decide, by decide, by decide, by decide, by decide, fun p => by cases p <;> decide⟩, _, rfl⟩

theorem witness_RoundingIsToNearestTiesAway : 0 < 8 ∧ 2 * (rna 5 2 * (2 : Nat) - 5).natAbs = 2 := by decide

theorem witness_StopDistance : (0 < 80) ∧ (16 ∣ 1280) ∧ (80 ∣ 400) ∧ (160 ∣ 1280) := by decide

/-- At the boundary of each clause: a step that just reaches the target, ones that do not, one through 0, and ones away
from 0 and toward it. -/
theorem witness_CapstanStepAndHold :
    ((400 : Int) - 320).natAbs ≤ (80 : Int).natAbs ∧ (80 : Int) < 400 - 319 ∧ (80 : Int) < 319 - (-400 + 638)
    ∧ (0 < (40 : Int) ∧ rawStep 40 (-400) 80 < 0)
    ∧ (¬ ((0 < (80 : Int) ∧ stepVc 80 400 80 false < 0) ∨ ((80 : Int) < 0 ∧ 0 < stepVc 80 400 80 false))
        ∧ (80 : Int).natAbs < (stepVc 80 400 80 false).natAbs)
    ∧ (¬ ((0 < (80 : Int) ∧ stepVc 80 0 80 false < 0) ∨ ((80 : Int) < 0 ∧ 0 < stepVc 80 0 80 false))
        ∧ (stepVc 80 0 80 false).natAbs ≤ (80 : Int).natAbs) := by decide

/-- A load forming loops, the supply reel still outside its window. -/
def forming : State :=
  { inDeck .loopForm with
    tsv := { live.tsv with supply := { live.tsv.supply with mode := .forming }
                           takeup := { live.tsv.takeup with mode := .regulated } } }

/-- Every deck state; a reel forming, inside and outside the window at its edges; readings at the limits of R44; a sum at the
limit of R54 and a count past it; a measurement that runs and one that does not; both senses of a search and none. -/
theorem witness_PeriodExpiryRegulatesTheReels :
    (live.inReset = false ∧ 1023 ≤ 1023)
    ∧ (∀ d ∈ [Deck.unloaded, .vacuumUp, .loopForm, .loadPointSearch, .rezero, .ready, .rewindOut, .windOff, .faultStop,
              .faultedSoft, .faultedHard], (inDeck d).dsq.deck = d)
    ∧ (forming.dsq.deck = .loopForm ∧ (forming.tsv.reel .supply).mode = .forming ∧ (forming.tsv.reel .takeup).mode ≠ .forming)
    ∧ ((448 ≤ 448 ∧ 448 ≤ 576) ∧ (448 ≤ 576 ∧ 576 ≤ 576) ∧ ¬ (448 ≤ 447 ∧ 447 ≤ 576) ∧ ¬ (448 ≤ 577 ∧ 577 ≤ 576))
    ∧ (live.tsv.supply.latchOut = false ∧ live.tsv.takeup.latchOut = false ∧ (63 < 64 ∨ 960 < 63) ∧ (961 < 64 ∨ 960 < 961)
        ∧ ¬ (64 < 64 ∨ 960 < 64) ∧ ¬ (960 < 64 ∨ 960 < 960))
    ∧ (rna (-1280 * 1024) 12000 - rna (15 * (730 - 512)) 64 = -160 ∧ rna (-1280 * 1024) 12000 - rna (15 * (735 - 512)) 64 < -160)
    ∧ (({ live.tsv.supply with measuring := true } : ReelState).measuring = true ∧ (live.tsv.reel .supply).measuring = false)
    ∧ ((searching .load 0).dsq.search = some ⟨.load, .running⟩
        ∧ (searching .rezeroReverse 0).dsq.search = some ⟨.rezeroReverse, .running⟩ ∧ live.dsq.search = none) := by decide

/-- R51, R58: below the window the reel feeds in at +32, above it −32, inside it regulates. -/
theorem test_forming_reel :
    (after (.regulationPeriodExpiry 447 512) forming).tsv.supply.cmd = 32
    ∧ (after (.regulationPeriodExpiry 577 512) forming).tsv.supply.cmd = -32
    ∧ (after (.regulationPeriodExpiry 448 512) forming).tsv.supply.mode = .regulated := by decide +kernel

/-- R25, R32, R33: a stop and the fault ramp stand while Vc is not 0; from 400 a stop steps by 80. -/
theorem test_stop_stands_while_the_tape_runs :
    (∀ o ∈ [Order.stop false .engine, .faultRamp],
      let s := { live with tsv := { live.tsv with order := o, vc := 400, target := 0 } }
      (after (.regulationPeriodExpiry 512 512) s).tsv.order = o)
    ∧ (after (.regulationPeriodExpiry 512 512)
        { live with tsv := { live.tsv with order := .stop false .engine, vc := 400, target := 0 } }).tsv.vc = 320 := by
  decide +kernel

/-- The braking test at the stop distance and one count beyond it; each order, with Vc at 0 after the step and not; a stalled
period at the limit of the stall count and one with a count; a hold; the windows of LOOP_FORM and WIND_OFF at their
edges. -/
theorem witness_PeriodExpiryStepsTheCapstan :
    ((reverseMove 22800 (-400) false).inReset = false ∧ (reverseMove 22800 (-400) false).tsv.distance 22750 false ≤ 50
      ∧ dstop 400 (stepFor (reverseMove 22800 (-400) false).tsv.order (-400) (-400)).toNat = 50)
    ∧ 50 < (reverseMove 22801 (-400) false).tsv.distance 22750 false
    ∧ (∃ m i, (reverseMove 22750 (-80) true).tsv.order = .move m i ∧ m.latch = true)
    ∧ (after (.regulationPeriodExpiry 512 512) (reverseMove 22750 (-80) true)).tsv.vc = 0
    ∧ (after (.regulationPeriodExpiry 512 512) (reverseMove 22800 (-400) true)).tsv.vc ≠ 0
    ∧ (let s := { live with tsv := { live.tsv with order := .stop false .engine } }
       (after (.regulationPeriodExpiry 512 512) s).tsv.vc = 0)
    ∧ (let s := { live with tsv := { live.tsv with order := .faultRamp, vc := 160 } }
       (after (.regulationPeriodExpiry 512 512) s).tsv.vc = 0)
    ∧ ({ live with tsv := { live.tsv with order := .none } } : State).tsv.order = .none
    ∧ (∃ c f i, ({ live with tsv := { live.tsv with order := .run .normal true .engine } } : State).tsv.order = .run c f i)
    ∧ (let v := { live.tsv with vcPeriod := -64, counted := false, stall := 49 }
       64 ≤ v.vcPeriod.natAbs ∧ v.counted = false ∧ v.stall + 1 = 50)
    ∧ ¬ (64 ≤ ({ live.tsv with vcPeriod := 63 } : Tsv).vcPeriod.natAbs)
    ∧ ((inDeck .loopForm).dsq.deck = .loopForm ∧ 448 ≤ 448 % 1024 ∧ 576 % 1024 ≤ 576)
    ∧ ((inDeck .windOff).dsq.deck = .windOff ∧ 63 % 1024 < 64 ∧ ¬ 64 % 1024 < 64) :=
  ⟨by decide, by decide, ⟨_, _, rfl, by decide⟩, by decide +kernel, by decide +kernel, by decide +kernel, by decide +kernel,
   by decide, ⟨_, _, _, rfl⟩, by decide, by decide, by decide, by decide⟩

/-- Every report due at once. -/
def allDue : State :=
  { live with tsv := { live.tsv with stallDue := true, glitchDue := true, supply := { live.tsv.supply with satDue := true }
                                     takeup := { live.tsv.takeup with satDue := true } } }

theorem witness_DueReportsAreMadeOnce :
    allDue.inReset = false ∧ allDue.tsv.stallDue = true ∧ allDue.tsv.glitchDue = true
    ∧ (allDue.tsv.reel .supply).satDue = true ∧ (allDue.tsv.reel .takeup).satDue = true
    ∧ live.tsv.stallDue = false ∧ live.tsv.glitchDue = false ∧ (live.tsv.reel .supply).satDue = false := by decide

/-- At the limits of the counter; the last pair is 00: 10 is forward, 01 reverse, 00 no change, 11 a glitch; a sighting with 14
and with 15 counts of travel, accepted, and none; a count forward that leaves the counter at the overrun line and one
beyond it, in a state of R41 and in FAULT_STOP; a count reverse to the EOT position and below it; the eighth glitch and
the seventh. -/
theorem witness_CapstanDecoder :
    live.inReset = false ∧ live.tsv.lastPair = ⟨false, false⟩ ∧ (at' 33554431 live).tsv.counter = 33554431
    ∧ (at' (-32768) live).tsv.counter = -32768
    ∧ ((⟨true, true⟩ : Pair).lineA ≠ live.tsv.lastPair.lineA ∧ (⟨true, true⟩ : Pair).lineB ≠ live.tsv.lastPair.lineB)
    ∧ (∀ m ∈ [Sighting.clear, .accepted, .seeing (-3) 14, .seeing (-3) 15],
        let v := { live.tsv with lp := m, eot := m }
        v.lp = m ∧ v.eot = m)
    ∧ (let v := { live.tsv with eotPassed := true, eotPos := some 1000, counter := 120999 }
       v.eotPassed = true ∧ v.eotPos = some 1000 ∧ ¬ (1000 + 120000 < v.counter + 1) ∧ 1000 + 120000 < v.counter + 1 + 1)
    ∧ (live.dsq.deck = .ready ∧ (inDeck .faultStop).dsq.deck = .faultStop)
    ∧ (let v := { live.tsv with eotPassed := true, eotPos := some 1000, counter := 1001 }
       1000 ≤ v.counter - 1 ∧ v.counter - 1 - 1 < 1000)
    ∧ ({ live.tsv with glitches := 7 } : Tsv).glitches = 7 ∧ ({ live.tsv with glitches := 6 } : Tsv).glitches ≠ 7
    ∧ (inDeck .unloaded).dsq.deck = .unloaded := by
  decide

/-- R38: the sixteenth count of travel accepts a marker. R41: a count beyond the overrun line is reported. R36: the eighth
glitch makes the report due. R40: a count back across the EOT position clears the flag. -/
theorem test_capstan_due :
    (let t := after (.capstanTachArrival ⟨true, false⟩)
       { live with tsv := { live.tsv with eot := .seeing (-3) 15, eotPassed := true, eotPos := some 1000, counter := 121000 } }
     t.tsv.eotDue = some (true, -3) ∧ t.tsv.eot = .accepted ∧ t.dsq.faults = [FaultKind.eotOverrun.report])
    ∧ (after (.capstanTachArrival ⟨true, true⟩) { live with tsv := { live.tsv with glitches := 7 } }).tsv.glitchDue = true
    ∧ (after (.capstanTachArrival ⟨false, true⟩)
        { live with tsv := { live.tsv with eotPassed := true, eotPos := some 1000, counter := 1000 } }).tsv.eotPassed = false := by
  decide +kernel

/-- A reel whose measurement runs, with its accumulator at a value. -/
def reelAt (a : Int) : State :=
  { live with tsv := { live.tsv with supply := { live.tsv.supply with acc := a, measuring := true } } }

/-- The last pair is 00: 10 is forward and 01 reverse; measuring, at the accumulator's boundaries, and not measuring; the
eighth glitch and the seventh. -/
theorem witness_ReelDecoder :
    (reelAt (-1)).inReset = false ∧ Reel.takeup ≠ .supply ∧ ((reelAt 0).tsv.reel .supply).measuring = true
    ∧ ((reelAt 0).tsv.reel .supply).last = ⟨false, false⟩ ∧ (live.tsv.reel .supply).measuring = false
    ∧ ((reelAt (-1)).tsv.reel .supply).acc < 0
    ∧ (0 ≤ ((reelAt 0).tsv.reel .supply).acc ∧ ((reelAt 1023).tsv.reel .supply).acc < 1024)
    ∧ 0 < ((reelAt 1).tsv.reel .supply).acc
    ∧ (((reelAt 0).tsv.reel .supply).acc ≤ 0 ∧ -1024 < ((reelAt (-1023)).tsv.reel .supply).acc)
    ∧ ({ live.tsv with glitches := 7 } : Tsv).glitches = 7 ∧ ({ live.tsv with glitches := 6 } : Tsv).glitches ≠ 7
    ∧ (inDeck .faultedSoft).dsq.deck = .faultedSoft := by decide

theorem witness_RevolutionUpdatesThePack :
    turning.inReset = false ∧ (turning.tsv.reel .supply).acc.natAbs = 1024
    ∧ ((reelAt (-1024)).tsv.reel .supply).acc.natAbs = 1024 ∧ ((reelAt 1023).tsv.reel .supply).acc.natAbs ≠ 1024 := by decide

/-- Both marker lines true. -/
def sighted : State := { live with tsv := { live.tsv with lpLine := true, eotLine := true, lp := .accepted, eot := .accepted } }

theorem witness_MarkerLines :
    live.inReset = false ∧ live.tsv.lpLine = false ∧ live.tsv.lp = .clear ∧ live.tsv.eotLine = false ∧ live.tsv.eot = .clear
    ∧ sighted.inReset = false ∧ sighted.tsv.lpLine = true ∧ sighted.tsv.eotLine = true := by decide

/-- A marker accepted, its step due. -/
def markerDue (lp : Option Bool) (eot : Option (Bool × Int)) (x : Option Search) (passed : Bool) : State :=
  { live with tsv := { live.tsv with lpDue := lp, eotDue := eot, eotPassed := passed }, dsq := { live.dsq with search := x } }

theorem witness_MarkerAcceptance :
    ((markerDue (some true) none (some ⟨.load, .running⟩) false).inReset = false
      ∧ (markerDue (some true) none (some ⟨.load, .running⟩) false).tsv.lpDue = some true
      ∧ (markerDue (some true) none (some ⟨.load, .running⟩) false).dsq.search = some ⟨.load, .running⟩)
    ∧ (markerDue (some false) none (some ⟨.rezeroReverse, .running⟩) false).tsv.lpDue = some false
    ∧ (∀ pass, (markerDue (some true) none none false).dsq.search ≠ some ⟨pass, .running⟩)
    ∧ ((markerDue none (some (true, 28400000)) none false).tsv.eotDue = some (true, 28400000)
      ∧ (markerDue none (some (true, 28400000)) none false).tsv.eotPassed = false)
    ∧ (markerDue none (some (true, 28400000)) none true).tsv.eotPassed = true
    ∧ (markerDue none (some (false, 28400000)) none true).tsv.eotDue = some (false, 28400000)
    ∧ live.tsv.lpDue = none ∧ live.tsv.eotDue = none := by
  refine ⟨by decide, by decide, fun pass => by cases pass <;> decide, by decide, by decide, by decide, by decide, by decide⟩

/-- A landing with final error `e`, `c` corrections made. -/
def landing (e : Int) (c : Nat) (j : Job) : State :=
  let s := reported (.moveDone .engine e) (working .move j live)
  { s with ope := { s.ope with corrections := c } }

/-- At 41 and 40 counts, with two and three corrections; every landing, a positioning's with its goal reached and not. -/
theorem witness_MoveCompletions :
    (let j := job .locate (.positioning (.exact 23000)) 10 0 10 none
     let s := landing 41 2 j
     s.inReset = false ∧ s.tsv.report = some (.moveDone .engine 41) ∧ s.ope.job = some j
      ∧ s.tsv.order ≠ .faultRamp ∧ 40 < (41 : Int).natAbs ∧ s.ope.corrections < 3)
    ∧ (let j := job .locate (.positioning (.exact 23000)) 10 0 10 none
       let s := landing (-41) 3 j
       s.ope.job = some j ∧ j.op.cmd.isWrite = false ∧ 40 < (-41 : Int).natAbs ∧ 3 ≤ s.ope.corrections ∧ j.actor = .port .a
        ∧ j.orphan = false)
    ∧ (let j := job .writeBlock .retryMove 0 120 120 (some 0)
       let s := landing 41 3 j
       s.ope.job = some j ∧ j.op.cmd.isWrite = true ∧ 3 ≤ s.ope.corrections ∧ j.op.slot = some 0 ∧ 0 < s.bbf.slots.length)
    ∧ (-40 : Int).natAbs ≤ 40
    ∧ (let j := job .locate (.positioning (.lower 7 21600)) 10 0 10 none
       (landing 40 0 j).ope.job = some j ∧ j.goal ≠ 7)
    ∧ (let j := job .locate (.positioning (.afterEod 22400)) 10 0 10 none
       (landing 40 0 j).ope.job = some j ∧ j.goal = 10)
    ∧ (let j := job .space (.positioning .loadPoint) (-3) 3 0 none
       (landing 40 0 j).ope.job = some j ∧ j.goal = 0)
    ∧ (let j := job .writeMark .retryMove 0 120 120 none
       (landing 40 0 j).ope.job = some j ∧ j.op.cmd.isWrite = true)
    ∧ (let j := job .readBlock .retryMove 0 60 60 (some 0)
       (landing 40 0 j).ope.job = some j ∧ j.op.cmd.isWrite = false ∧ j.op.slot = some 0)
    ∧ (∀ orphan ∈ [false, true],
       let j := { job .readBlock (.blankMove false) 0 60 60 (some 0) with orphan := orphan }
       (landing 40 0 j).ope.job = some j ∧ j.op.cmd.isWrite = false ∧ j.orphan = orphan)
    ∧ (let j := job .space (.blankMove true) 5 60 65 none
       (landing 40 0 j).ope.job = some j ∧ j.op.cmd = .space ∧ 0 < j.op.param)
    ∧ (let j := job .writeMark (.blankMove true) 0 120 120 none
       (landing 40 0 j).ope.job = some j ∧ j.op.cmd.isWrite = true)
    ∧ (let j := job .rewind .rewinding 0 5 0 none
       (landing (-40) 0 j).ope.job = some j ∧ j.actor = .port .a ∧ j.orphan = false ∧ j.op.owed = true)
    ∧ (∀ j ∈ [{ job .rewind .rewinding 0 5 0 none with actor := .panel }, { job .rewind .rewinding 0 5 0 none with orphan := true }],
       (landing 40 0 j).ope.job = some j ∧ j.stage = .rewinding ∧ (j.actor = .panel ∨ j.orphan = true))
    ∧ (let s := reported (.moveDone .deck 7) (inDeck .rewindOut)
       s.tsv.report = some (.moveDone .deck 7) ∧ s.dsq.deck = .rewindOut)
    ∧ live.tsv.report = none := by
  refine ⟨by decide, by decide, by decide, by decide, by decide⟩

/-- R139, R143: a LOCATE that comes to rest above an EOD lowered meanwhile leaves its port at EOD, with its own target as detail. -/
theorem test_locate_above_a_lowered_eod :
    let s := landing 40 0 (job .locate (.positioning (.exact 23000)) 10 0 10 none)
    let t := after .moveCompletion { s with bdr := { s.bdr with eod := some 7 } }
    t.portA.next = 7 ∧ t.portA.status.map (fun r => (r.code, r.detail)) = [(Code.endOfData, 10)] := by decide +kernel

/-- A stop of the engine's reported with an operation held. -/
def stoppedWith (j : Job) : State := reported (.stopDone .engine) (working .stop j live)

/-- A stop of the engine's reported with an operation waiting for it. -/
def stoppedFor (j : Job) : State :=
  let s := stoppedWith j
  { s with ope := { s.ope with job := none, waiting := some j } }

/-- A stop of the deck sequencer's reported in a search. -/
def searchStopped (p : SearchPass) (x : SearchStatus) : State :=
  let d : Deck := if p = .load then .loadPointSearch else .rezero
  reported (.stopDone .deck) { live with dsq := { live.dsq with deck := d, search := some ⟨p, x⟩ } }

/-- The stop without an operation, with one that waits, begun or aborted, and with each that ends in it or goes on; the deck
sequencer's stops; the fault ramp with auto-clear on and off, at its fourth time and after. -/
theorem witness_StopAndRampCompletions :
    (let s := reported (.stopDone .engine) { live with ope := { live.ope with phase := .stop } }
     s.inReset = false ∧ s.tsv.report = some (.stopDone .engine) ∧ s.ope.job = none ∧ s.ope.waiting = none ∧ s.ope.phase = .stop)
    ∧ (∀ j ∈ [job .space .deck 2 5 7 none, { job .space .deck 2 5 7 none with aborted := true },
              { job .writeMark .deck 0 120 120 none with aborted := true }],
        (stoppedFor j).ope.job = none ∧ (stoppedFor j).ope.waiting = some j ∧ (stoppedFor j).ope.phase = .stop
          ∧ j.actor = .port .a ∧ j.orphan = false)
    ∧ (∀ j ∈ [job .writeMark .retryStop 0 120 120 none, job .readBlock .retryStop 0 60 60 (some 0),
              job .readBlock (.blankStop false) 0 60 60 (some 0), job .locate (.blankStop true) 9 0 9 none,
              job .locate .abortStop 9 0 9 none, job .writeMark .abortStop 0 120 120 none,
              { job .writeMark .retryStop 0 120 120 none with orphan := true },
              { job .readBlock .retryStop 0 60 60 (some 0) with orphan := true }],
        (stoppedWith j).ope.job = some j ∧ (stoppedWith j).tsv.report = some (.stopDone .engine)
          ∧ (stoppedWith j).tsv.order ≠ .faultRamp)
    ∧ ((job .writeMark .abortStop 0 120 120 none).op.cmd.isWrite = true ∧ (job .locate .abortStop 9 0 9 none).op.cmd.isWrite = false)
    ∧ (∀ p ∈ [SearchPass.load, .rezeroReverse, .rezeroForward], ∀ x ∈ [SearchStatus.accepted, .failed],
        (searchStopped p x).dsq.search = some ⟨p, x⟩ ∧ (searchStopped p x).tsv.report = some (.stopDone .deck)
          ∧ (searchStopped p x).enabled .a = true)
    ∧ (let s := reported .rampZero (inDeck .faultStop)
       s.tsv.report = some .rampZero ∧ s.dsq.deck = .faultStop ∧ s.dsq.params.autoClear = false)
    ∧ (let t := faulted .faultStop .loopOut
       let s := reported .rampZero { t with
         dsq := { t.dsq with params := { t.dsq.params with autoClear := true }, autoCount := 3 }
         tsv := { t.tsv with supply := { t.tsv.supply with loop := 64 }, takeup := { t.tsv.takeup with loop := 960 } } }
       s.dsq.params.autoClear = true ∧ s.dsq.faultKind = some .loopOut ∧ s.dsq.autoCount < 4 ∧ s.dsq.vacS = true
        ∧ s.dsq.vacT = true ∧ 64 ≤ s.tsv.supply.loop ∧ s.tsv.supply.loop ≤ 960 ∧ 64 ≤ s.tsv.takeup.loop
        ∧ s.tsv.takeup.loop ≤ 960 ∧ s.dsq.ampRdy = true ∧ s.dsq.ampFlt = false ∧ s.dsq.resume = some .ready)
    ∧ live.tsv.report = none := by
  decide

/-- R133: an orphaned read met in its retry's stop makes no further attempt. R12: a re-zero's forward pass is a run at CREEP.
R75: auto-clear leaves the soft fault. -/
theorem test_stops :
    (after .stopCompletion (stoppedWith { job .readBlock .retryStop 0 60 60 (some 0) with orphan := true })).ope.job = none
    ∧ (after .stopCompletion (searchStopped .rezeroReverse .accepted)).tsv.order = .run .creep true .deck
    ∧ (after .stopCompletion (searchStopped .rezeroForward .failed)).dsq.deck = .windOff := by decide +kernel

/-- A load with a LOAD of port A held, its record owed, and a load from the panel. -/
theorem witness_LoadReachesReady :
    ∀ x ∈ [working .move (job .load .deck 0 0 0 none) live, live],
      let s := reported (.stopDone .deck)
        { x with dsq := { x.dsq with deck := .loadPointSearch, search := some ⟨.load, .accepted⟩ } }
      s.inReset = false ∧ s.tsv.report = some (.stopDone .deck) ∧ s.dsq.search = some ⟨.load, .accepted⟩
        ∧ s.enabled .b = true
        ∧ (s.ope.job = none ∨ (s.ope.job = some (job .load .deck 0 0 0 none)
            ∧ (job .load .deck 0 0 0 none).actor = .port .a ∧ (job .load .deck 0 0 0 none).orphan = false
            ∧ (job .load .deck 0 0 0 none).op.owed = true)) := by decide

theorem witness_OutputsFollowTheDeckState : live.inReset = false := by decide

/-- The panel's deck UNLOADED with the two senses at given levels. -/
def unloaded (vacS vacT : Bool) : State :=
  { offline .unloaded with dsq := { (offline .unloaded).dsq with vacS := vacS, vacT := vacT } }

/-- A deck in VACUUM_UP with one sense true. -/
def vacuumUp (vacS vacT : Bool) : State :=
  { live with dsq := { live.dsq with deck := .vacuumUp, vacS := vacS, vacT := vacT } }

theorem witness_LoadSequence :
    (let s := unloaded true false
     s.inReset = false ∧ s.dsq.online = false ∧ s.ope.phase = .idle ∧ s.dsq.deck = .unloaded ∧ s.dsq.ampRdy = true
      ∧ s.dsq.ampFlt = false ∧ ¬ (s.dsq.vacS = true ∧ s.dsq.vacT = true))
    ∧ ((unloaded true true).dsq.vacS = true ∧ (unloaded true true).dsq.vacT = true)
    ∧ (let s := { unloaded true true with dsq := { (unloaded true true).dsq with ampFlt := true } }
       ¬ (s.dsq.ampRdy = true ∧ s.dsq.ampFlt = false) ∧ s.ope.job = none)
    ∧ live.dsq.online = true
    ∧ ((vacuumUp true false).dsq.deck = .vacuumUp ∧ (vacuumUp true false).dsq.vacS = true
        ∧ (vacuumUp true false).dsq.vacT = false)
    ∧ ((vacuumUp false true).dsq.vacS = false ∧ (vacuumUp false true).dsq.vacT = true)
    ∧ (let s := { inDeck .loopForm with tsv := { live.tsv with windowReport := true } }
       s.dsq.deck = .loopForm ∧ s.tsv.windowReport = true)
    ∧ (inDeck .loopForm).tsv.windowReport = false := by decide

/-- A deck state with its sequence timer running, an operation of port A held. -/
def timed (d : Deck) (t : SeqTimer) (c : Cmd) : State :=
  let s := working .move (job c .deck 0 0 0 none) (inDeck d)
  { s with dsq := { s.dsq with timer := some t } }

theorem witness_FailedLoadsAndWindOffEndUnloaded :
    (let s := timed .vacuumUp .vacuumUp .load
     s.inReset = false ∧ s.dsq.deck = .vacuumUp ∧ s.dsq.timer = some .vacuumUp
      ∧ ∃ j, s.ope.job = some j ∧ j.stage = .deck ∧ j.actor = .port .a ∧ j.orphan = false ∧ j.op.owed = true
        ∧ j.op.cmd = .load)
    ∧ (let s := timed .loopForm .loopForm .load
       s.dsq.deck = .loopForm ∧ s.dsq.timer = some .loopForm)
    ∧ (let s := timed .windOff .windOff .unload
       s.dsq.deck = .windOff ∧ s.dsq.timer = some .windOff ∧ s.tsv.eotPassed = false
        ∧ ∃ j, s.ope.job = some j ∧ j.op.cmd = .unload)
    ∧ (let s := { inDeck .windOff with tsv := { live.tsv with windowReport := true } }
       s.dsq.deck = .windOff ∧ s.tsv.windowReport = true) := by
  refine ⟨⟨by decide, by decide, by decide, ⟨_, rfl, by decide⟩⟩, by decide,
    ⟨by decide, by decide, by decide, ⟨_, rfl, by decide⟩⟩, by decide⟩

/-- At each limit, a count below it, and with no search running. -/
theorem witness_TravelLimitsFailTheSearch :
    live.inReset = false ∧ (60000 ≤ (searching .load 60000).dsq.searchTravel)
    ∧ (searching .load 59999).dsq.searchTravel < 60000
    ∧ (34000000 ≤ (searching .rezeroReverse 34000000).dsq.searchTravel)
    ∧ (searching .rezeroReverse 33999999).dsq.searchTravel < 34000000
    ∧ (60000 ≤ (searching .rezeroForward 60000).dsq.searchTravel)
    ∧ (searching .rezeroForward 59999).dsq.searchTravel < 60000
    ∧ (∀ p ∈ [SearchPass.load, .rezeroReverse, .rezeroForward], (searching p 0).dsq.search = some ⟨p, .running⟩)
    ∧ live.dsq.search = none := by decide

theorem witness_DeckInputLines :
    live.inReset = false ∧ (inDeck .rezero).dsq.deck = .rezero ∧ live.dsq.deck = .ready ∧ live.dsq.vacS = true
    ∧ live.dsq.vacT = true ∧ live.dsq.ampRdy = true ∧ live.dsq.ampFlt = false
    ∧ ((vacuumUp false false).dsq.vacS = false ∧ (vacuumUp false false).dsq.vacT = false)
    ∧ (let s := { live with dsq := { live.dsq with vacS := false } }
       s.dsq.vacS = false ∧ s.dsq.deck ≠ .vacuumUp ∧ s.dsq.vacT = true)
    ∧ ({ live with dsq := { live.dsq with ampRdy := false } } : State).dsq.ampRdy = false
    ∧ ({ live with dsq := { live.dsq with ampFlt := true } } : State).dsq.ampFlt = true := by decide

/-- With and without a writer; every resume point, and REZERO after TACH; a check that fails. -/
theorem witness_PanelButtons :
    (∀ w ∈ [none, some PortId.a],
      let s := { offline .ready with arb := { live.arb with writer := w } }
      s.inReset = false ∧ s.dsq.online = false ∧ s.ope.phase = .idle ∧ s.dsq.deck = .ready ∧ s.bbf.hasWrite = false
        ∧ s.tsv.order ≠ .faultRamp ∧ s.arb.writer = w ∧ s.enabled .b = true)
    ∧ (live.dsq.online = true ∧ (working .move (job .rewind .rewinding 0 0 0 none) (offline .ready)).ope.phase ≠ .idle
        ∧ (offline .unloaded).dsq.deck ≠ .ready)
    ∧ (slot0 .pending 5 (offline .ready)).bbf.hasWrite = true ∧ live.dsq.deck ≠ .faultedSoft ∧ live.dsq.deck ≠ .faultedHard
    ∧ (let s := { faulted .faultedSoft .loopOut with tsv := { live.tsv with supply := { live.tsv.supply with loop := 961 } } }
       s.dsq.deck = .faultedSoft ∧ s.checksPass = false)
    ∧ (∀ d ∈ [Deck.vacuumUp, .loopForm, .loadPointSearch, .rezero, .ready, .rewindOut, .windOff],
        let x := faulted .faultedSoft .tach
        let s := { x with dsq := { x.dsq with resume := some d } }
        s.dsq.deck = .faultedSoft ∧ s.checksPass = true ∧ s.dsq.faultKind = some .tach ∧ s.dsq.resume = some d)
    ∧ ((faulted .faultedHard .drive).dsq.deck = .faultedHard ∧ (faulted .faultedHard .drive).dsq.resume = some .ready) := by
  decide +kernel

/-- A report made and not yet taken. -/
def due (d : Deck) (x : FaultReport) : State := { live with dsq := { live.dsq with deck := d, faults := [x] } }

theorem witness_FaultReportTable :
    live.inReset = false ∧ FaultKind.media.report ∈ (due .ready FaultKind.media.report).dsq.faults
    ∧ FaultKind.loopOut.reportAt .takeup ∈ (due .ready (FaultKind.loopOut.reportAt .takeup)).dsq.faults
    ∧ FaultKind.tach.report ∈ (due .faultStop FaultKind.tach.report).dsq.faults
    ∧ FaultKind.drive.report ∈ (due .faultedSoft FaultKind.drive.report).dsq.faults
    ∧ FaultKind.loopOut.reportAt .supply ∈ (due .faultedSoft (FaultKind.loopOut.reportAt .supply)).dsq.faults
    ∧ FaultKind.drive.report ∈ (due .unloaded FaultKind.drive.report).dsq.faults := by decide

/-- A fault in READY with a write of block 120 executing at port A and one of block 121, answered at its take, behind it. -/
def faultWriting (m : WriteMode) : State :=
  let s := working .run (job .writeBlock .writing 0 120 120 (some 0)) (slot0 .writing 120 (due .ready FaultKind.tach.report))
  s.onPort .a (fun q =>
    { q with mode := m
             queue := q.queue ++ [{ op .writeBlock 0 (some 121) none with granted := false, owed := false }] })

/-- Writes lost at a port in each mode, one of them answered at its take, EOD unknown, at the lowest of them and below it; an
orphaned write executing or waiting; and none at all. -/
theorem witness_FaultStopEndsEveryOperation :
    (∀ m ∈ [WriteMode.buffered, .verified],
      let s := faultWriting m
      let writes := (s.port .a).queue.filter (fun o => o.cmd.isWrite)
      s.inReset = false ∧ FaultKind.tach.report ∈ s.dsq.faults ∧ s.dsq.deck = .ready
        ∧ s.ope.job = some (job .writeBlock .writing 0 120 120 (some 0)) ∧ s.ope.waiting = none
        ∧ (job .writeBlock .writing 0 120 120 (some 0)).orphan = false
        ∧ (writes.filterMap (fun o => o.block)).min? = some 120
        ∧ (writes.filterMap (fun o => if o.cmd = .writeBlock ∧ o.owed = false then o.block else none)).min? = some 121
        ∧ (s.port (PortId.a).other).queue.filter (fun o => o.cmd.isWrite) = []
        ∧ (s.port .a).mode = m ∧ 0 < s.bbf.slots.length ∧ s.bdr.eod = none ∧ s.enabled .a = true)
    ∧ (let s := due .ready FaultKind.tach.report
       s.ope.job = none ∧ s.ope.waiting = none ∧ ∀ p, (s.port p).queue = [])
    ∧ (∀ e ∈ [(119 : Nat), 120],
        ({ faultWriting .verified with bdr := { live.bdr with eod := some e } } : State).bdr.eod = some e)
    ∧ (let j := { job .writeBlock .writing 0 120 120 (some 0) with orphan := true }
       let s := due .ready FaultKind.tach.report
       let t : State := { s with ope := { s.ope with phase := .run, job := some j } }
       let w : State := { s with ope := { s.ope with phase := .stop, waiting := some j } }
       t.ope.job = some j ∧ t.ope.waiting = none ∧ w.ope.job = none ∧ w.ope.waiting = some j ∧ j.orphan = true
        ∧ j.op.cmd.isWrite = true ∧ ∀ p, (t.port p).queue.filter (fun o => o.cmd.isWrite) = []) := by
  refine ⟨by decide, ⟨by decide, by decide, fun p => by cases p <;> decide⟩, by decide,
    ⟨by decide, by decide, by decide, by decide, by decide, by decide, fun p => by cases p <;> decide⟩⟩

/-- R65, R163: a fault stop rolls EOD back to the lowest write lost, with a deferred error of the lowest answered at its take,
in whichever mode the port is by then. -/
theorem test_fault_rollback : ∀ m ∈ [WriteMode.buffered, .verified],
    let t := after (.faultReport FaultKind.tach.report) (faultWriting m)
    t.bdr.eod = some 120 ∧ t.portA.deferred = some 121 := by
  decide +kernel

/-- A write of slot 0 in a phase, with the counter at a position and W at 243,000. -/
def writing (ph : Phase) (x : Int) : State :=
  let s := working ph (job .writeBlock .writing 0 120 120 (some 0)) (slot0 .writing 120 (at' x live))
  { s with ope := { s.ope with w := 243000, wrGate := ph = .transfer } }

/-- The gate opens at W and closes at W + 122 (nine bytes), not a count before. -/
theorem witness_WriteGateAndBytes :
    ((writing .run 243000).inReset = false
      ∧ (∃ j, (writing .run 243000).ope.job = some j ∧ j.stage = .writing ∧ j.op.cmd = .writeBlock ∧ j.op.slot = some 0)
      ∧ (writing .run 243000).ope.phase = .run ∧ (writing .run 243000).ope.w ≤ (writing .run 243000).tsv.counter)
    ∧ (writing .run 242999).tsv.counter < (writing .run 242999).ope.w
    ∧ (let s := writing .transfer 243122
       s.ope.phase = .transfer ∧ ∃ j, s.ope.job = some j ∧ s.ope.w + s.writeExtent j ≤ s.tsv.counter)
    ∧ (let s := writing .transfer 243121
       ∃ j, s.ope.job = some j ∧ s.tsv.counter < s.ope.w + s.writeExtent j)
    ∧ (let s := writing .transfer 243050
       s.ope.wrGate = true ∧ s.ope.handed.length < (nine ++ checkField .k32 nine).length)
    ∧ (writing .run 243000).ope.wrGate = false := by
  refine ⟨⟨by decide, ⟨_, rfl, by decide⟩, by decide, by decide⟩, by decide, ⟨by decide, _, rfl, by decide⟩,
    ⟨_, rfl, by decide⟩, by decide +kernel, by decide⟩

/-- A block begun at 243,000. -/
def begun : Seen := { Seen.nothing with rises := 1, start := 243000 }

/-- The block of the nine bytes as seen at the read head. -/
def seenNine (k : CheckKind) : Seen :=
  { Seen.nothing with rises := 1, start := 243000, bytes := writtenBytes k nine, count := (writtenBytes k nine).length
                      endAt := some 243402 }

theorem witness_WrittenBytesReadBackGood :
    (∀ k ∈ [CheckKind.k16, .k32], (seenNine k).mark = false ∧ (seenNine k).limited = false
      ∧ (seenNine k).count = (seenNine k).bytes.length ∧ (seenNine k).bytes = nine ++ checkField k nine)
    ∧ 1 ≤ nine.length ∧ nine.length ≤ 16384 ∧ (List.replicate 16384 (0 : Byte)).length = 16384 := by
  exact ⟨by decide +kernel, by decide, by decide, List.length_replicate⟩

/-- The nine bytes with the second changed, seen with the check field of the bytes handed out. -/
theorem witness_AChangedByteFailsTheCheck :
    (0x32 : Byte) ≠ 0x30 ∧
    (let x := { seenNine .k32 with bytes := (nine.take 1 ++ 0x30 :: nine.drop 2) ++ checkField .k32 (nine.take 1 ++ 0x32 :: nine.drop 2) }
     x.mark = false ∧ x.count = x.bytes.length) := by decide +kernel

/-- The write of the nine bytes at its end point, seen whole or not at all. -/
def atVerify (x : Int) (seen : Seen) (a f : Nat) (orphan : Bool) : State :=
  let j := { job .writeBlock .writing 0 120 120 (some 0) with orphan := orphan }
  let s := working .verify j (slot0 .writing 120 (at' x live))
  { s with ope := { s.ope with w := 243000, seen := seen, handed := writtenBytes .k32 nine, attempt := a, failCount := f } }

/-- The WRITE MARK of block 120 at 243,000 at its end point, the mark seen or not. -/
def markAtVerify (mark : Bool) : State :=
  let s := working .verify (job .writeMark .writing 0 120 120 none) (at' 243600 live)
  { s with ope := { s.ope with w := 243000, seen := { begun with mark := mark, endAt := some 243300 } } }

/-- The nine bytes and a mark, at their end points, of a port and orphaned, the block in the cache and not; and a count
before. -/
theorem witness_VerificationPasses :
    (∀ orphan ∈ [false, true],
      let s := atVerify 243422 (seenNine .k32) 0 0 orphan
      let j := { job .writeBlock .writing 0 120 120 (some 0) with orphan := orphan }
      let x := s.ope.seen
      let all := (s.bbf.slot 0).data ++ checkField s.dsq.params.check (s.bbf.slot 0).data
      s.inReset = false ∧ s.ope.job = some j ∧ s.ope.phase = .verify ∧ j.actor = .port .a ∧ j.orphan = orphan
        ∧ s.ope.w + dataExtent (s.bbf.slot 0).len + 300 ≤ s.tsv.counter
        ∧ x.rises = 1 ∧ x.endAt.isSome = true ∧ x.limited = false ∧ x.mark = false ∧ x.count = all.length
        ∧ x.bytes = s.ope.handed ∧ s.ope.handed = all ∧ (s.bbf.slot 0).block = some 120 ∧ s.bbf.cache = [])
    ∧ (let t := (atVerify 243422 (seenNine .k32) 0 0 false).bbf
       let b : Bbf := { slots := t.slots.set 1 (slotOf .cached 120), cache := [1] }
       (b.slot 0).block = some 120 ∧ ∃ k ∈ b.cache, (b.slot k).block = some 120)
    ∧ (let s := markAtVerify true
       let j := job .writeMark .writing 0 120 120 none
       s.ope.job = some j ∧ j.op.slot = none ∧ s.ope.w + 300 + 300 ≤ s.tsv.counter ∧ s.ope.phase = .verify
        ∧ s.ope.seen.rises = 1 ∧ s.ope.seen.endAt.isSome = true ∧ s.ope.seen.limited = false ∧ s.ope.seen.mark = true)
    ∧ (let s := atVerify 243421 (seenNine .k32) 0 0 false
       s.tsv.counter < s.ope.w + dataExtent (s.bbf.slot 0).len + 300) := by decide +kernel

/-- At the failure limit, below it with the last retry left, and at the retry limit; an orphaned write below the limit; a block
not seen and a mark not seen; a write of block 120 lost with one behind it whose record was given at its take. -/
theorem witness_VerificationFails :
    (let s := atVerify 243422 Seen.nothing 0 23 false
     s.inReset = false ∧ s.ope.phase = .verify ∧ s.tsv.order ≠ .faultRamp ∧ s.dsq.params.failLimit ≤ s.ope.failCount + 1
      ∧ s.ope.job = some (job .writeBlock .writing 0 120 120 (some 0))
      ∧ s.ope.w + s.writeExtent (job .writeBlock .writing 0 120 120 (some 0)) + 300 ≤ s.tsv.counter
      ∧ s.ope.seen.rises ≠ 1)
    ∧ (let s := atVerify 243422 Seen.nothing 7 22 false
       s.ope.failCount + 1 < s.dsq.params.failLimit ∧ s.ope.attempt < s.dsq.params.retryLimit)
    ∧ (let s := atVerify 243422 Seen.nothing 8 22 false
       s.ope.failCount + 1 < s.dsq.params.failLimit ∧ s.dsq.params.retryLimit ≤ s.ope.attempt)
    ∧ (let s := atVerify 243422 Seen.nothing 7 22 true
       s.ope.failCount + 1 < s.dsq.params.failLimit ∧ 0 < s.bbf.slots.length ∧ s.bdr.eod = none
        ∧ s.ope.job = some { job .writeBlock .writing 0 120 120 (some 0) with orphan := true })
    ∧ ((markAtVerify false).ope.seen.mark = false ∧ (markAtVerify false).ope.phase = .verify)
    ∧ (job .writeBlock .writing 0 120 120 (some 0)).actor = .port .a ∧ Code.writeCheckFailed ≠ .ok
    ∧ (let s := faultWriting .buffered
       let behind := (s.port .a).queue.tail
       (((job .writeBlock .writing 0 120 120 (some 0)).op :: behind).filterMap
          (fun o => if o.cmd = .writeBlock ∧ o.owed = false then o.block else none)).min? = some 121
        ∧ 0 < s.bbf.slots.length ∧ (s.port .a).deferred = none) := by
  decide +kernel

/-- A READ of block 60 into slot 0, with what the read head has seen. -/
def reading (ph : Phase) (x : Int) (sig : Bool) (seen : Seen) : State :=
  let s := working ph (job .readBlock .reading 0 60 60 (some 0)) (slot0 .reading 60 (at' x live))
  { s with ope := { s.ope with rdSig := sig, seen := seen, expStart := 123000 } }

/-- In a READ, a SCAN, a SPACE and a verification, with no block, one in progress and one ended; at 3,100 counts and a count
before; at the bytes kept and beyond; not looking in a write's RUN, in a move, and with no operation. -/
theorem witness_ReadArrivals :
    (∀ st ∈ [Stage.reading, .scanning, .crossing, .writing],
      ∀ x ∈ [Seen.nothing, begun, { begun with endAt := some 243402 }, { begun with rises := 2 }],
        let s := reading (if st = .writing then .verify else .run) 246100 true x
        let j := { job .readBlock .reading 0 60 60 (some 0) with stage := st }
        let t : State := { s with ope := { s.ope with job := some j } }
        t.inReset = false ∧ t.ope.rdSig = true ∧ t.ope.job = some j ∧ j.stage = st ∧ j.op.slot = some 0 ∧ t.ope.seen = x
          ∧ (st = .writing → t.ope.phase = .verify))
    ∧ Seen.nothing.rises = 0 ∧ (0 < begun.rises ∧ begun.endAt = none)
    ∧ ((reading .run 123300 false Seen.nothing).ope.rdSig = false)
    ∧ begun.start + 3100 ≤ (reading .transfer 246100 true begun).tsv.counter
    ∧ (reading .transfer 246099 true begun).tsv.counter < begun.start + 3100
    ∧ ((List.replicate 16387 (0 : Byte)).length < 16388 ∧ ¬ (List.replicate 16388 (0 : Byte)).length < 16388)
    ∧ ((writing .run 243000).ope.job = some (job .writeBlock .writing 0 120 120 (some 0)) ∧ (writing .run 243000).ope.phase = .run)
    ∧ (landing 0 0 (job .rewind .rewinding 0 5 0 none)).ope.job = some (job .rewind .rewinding 0 5 0 none)
    ∧ live.ope.job = none := by
  refine ⟨by decide, by decide, by decide, by decide, by decide, by decide, ?_, by decide, by decide, by decide⟩
  rw [List.length_replicate, List.length_replicate]; decide

/-- At the end point of a good block, of a mark, and of a bad check at the failure limit, with a retry left and with none, of a
port and orphaned; a count before the end point, and before the end of the signal. -/
theorem witness_GoodReadIsDelivered :
    (∀ x ∈ [seenNine .k32, { begun with mark := true, endAt := some 243300 }, seenNine .k16], ∀ orphan ∈ [false, true],
      let t := reading .transfer 243600 false x
      let j := { job .readBlock .reading 0 60 60 (some 0) with orphan := orphan }
      let s : State := { t with ope := { t.ope with job := some j } }
      s.inReset = false ∧ s.ope.job = some j ∧ s.ope.phase = .transfer ∧ x.endAt.isSome = true ∧ 0 < s.bbf.slots.length
        ∧ j.op.slot = some 0 ∧ j.actor = .port .a ∧ j.orphan = orphan ∧ j.op.owed = true ∧ s.dsq.params.check = .k32
        ∧ s.tsv.order ≠ .faultRamp ∧ x.start = 243000 ∧ x.limited = false)
    ∧ ((seenNine .k32).good .k32 = true ∧ (seenNine .k32).mark = false ∧ (seenNine .k16).good .k32 = false)
    ∧ (243000 + dataExtent ((seenNine .k32).count - 4) + 300 = 243422 ∧ (4 < (seenNine .k32).count))
    ∧ ((reading .transfer 243421 false (seenNine .k32)).tsv.counter < 243422 ∧ begun.endAt.isSome = false)
    ∧ (let s := reading .transfer 243422 false (seenNine .k16)
       s.ope.failCount + 1 < s.dsq.params.failLimit ∧ s.ope.attempt < s.dsq.params.retryLimit)
    ∧ (let t := reading .transfer 243422 false (seenNine .k16)
       let s := { t with ope := { t.ope with failCount := 23, attempt := 8 } }
       s.dsq.params.failLimit ≤ s.ope.failCount + 1 ∧ s.dsq.params.retryLimit ≤ s.ope.attempt)
    ∧ (let t := reading .transfer 243422 false (seenNine .k16)
       let s := { t with ope := { t.ope with failCount := 22, attempt := 8 } }
       s.ope.failCount + 1 < s.dsq.params.failLimit ∧ s.dsq.params.retryLimit ≤ s.ope.attempt) := by
  decide +kernel

/-- R101, R129: the bad check that reaches the failure limit is the READ's last attempt: the block is reported, and enters the
directory FAILED. -/
theorem test_read_at_the_failure_limit_is_reported :
    let t := reading .transfer 243422 false (seenNine .k16)
    let s := { t with ope := { t.ope with failCount := 23 }, bdr := { t.bdr with known := 59 } }
    let u := after .readEndPoint s
    (u.bdr.entry 60).map (fun e => (e.start, e.failed)) = some (243000, true) ∧ u.bdr.known = 60
      ∧ u.dsq.faults = [FaultKind.media.report] ∧ u.ope.phase = .stop := by decide +kernel

/-- At 30,300 counts past the expected start and one count before, EOD unknown, at the block and below it; a number just above
the block. -/
theorem witness_BlankTapeInARead :
    (let s := reading .run 153300 false Seen.nothing
     s.inReset = false ∧ s.ope.phase = .run ∧ s.ope.seen.rises = 0 ∧ s.tsv.order ≠ .faultRamp
      ∧ s.ope.expStart + 30300 ≤ s.tsv.counter ∧ s.bdr.eod = none
      ∧ s.ope.job = some (job .readBlock .reading 0 60 60 (some 0)) ∧ s.enabled .b = true)
    ∧ (∀ e ∈ [(59 : Nat), 60],
        ({ reading .run 153300 false Seen.nothing with bdr := { live.bdr with eod := some e } } : State).bdr.eod = some e)
    ∧ 60 < ((reading .run 153300 false Seen.nothing).onPort .b (fun q => { q with next := 61 })).portB.next
    ∧ (let s := reading .run 153299 false Seen.nothing
       s.tsv.counter < s.ope.expStart + 30300) := by decide +kernel

/-- A forward SPACE of 2 crossing blocks from 60. -/
def crossing (x : Int) (seen : Seen) : State :=
  let s := working .scan (job .space .crossing 2 60 60 none) (at' x live)
  { s with ope := { s.ope with seen := seen, expStart := 123000, deckNext := 60 } }

/-- A LOCATE of block 61 scanning, block 60 next. -/
def scanning (goal : Nat) (aborted : Bool) : State :=
  let j := { job .locate .scanning goal 0 goal none with aborted := aborted }
  let s := working .scan j (at' 243722 live)
  { s with ope := { s.ope with seen := seenNine .k32, expStart := 123000, deckNext := 60 } }

/-- A crossing at its end point, of a port and orphaned: going on, aborted, at a mark, at its count, at the end of data; a SCAN
that reaches its block, goes on or is aborted; before the end point; blank tape at its count and a count before, EOD
unknown, at the block and below it. -/
theorem witness_ScannedBlocks :
    (let j := job .space .crossing 2 60 60 none
     let s := crossing 243422 (seenNine .k32)
     s.inReset = false ∧ s.ope.job = some j ∧ s.ope.phase = .scan ∧ s.ope.seen.mark = false
      ∧ s.ope.deckNext = 60 ∧ j.aborted = false ∧ j.crossed + 1 ≠ j.op.count ∧ j.actor = .port .a ∧ j.orphan = false
      ∧ (s.bdr.traverse { num := 60, start := 243000, extent := 122, len := 9, mark := false, failed := false }).eod ≠ some 61)
    ∧ ((seenNine .k32).endAt.isSome = true ∧ (seenNine .k32).start + dataExtent ((seenNine .k32).count - 4) + 300 = 243422
        ∧ 4 < (seenNine .k32).count ∧ (crossing 243421 (seenNine .k32)).tsv.counter < 243422 ∧ begun.endAt.isSome = false)
    ∧ ({ job .space .crossing 2 60 60 none with orphan := true }).orphan = true
    ∧ ({ job .space .crossing 2 60 60 none with aborted := true }).aborted = true
    ∧ (let x := { begun with mark := true, endAt := some 243300 }
       x.start + 300 + 300 ≤ (crossing 243600 x).tsv.counter ∧ x.limited = false)
    ∧ ({ job .space .crossing 2 60 60 none with crossed := 1 }).crossed + 1 = (job .space .crossing 2 60 60 none).op.count
    ∧ (({ live.bdr with eod := some 61 } : Bdr).traverse
        { num := 60, start := 243000, extent := 122, len := 9, mark := false, failed := false }).eod = some 61
    ∧ (∀ goal ∈ [(61 : Nat), 62], ∀ aborted ∈ [false, true],
        let j := { job .locate .scanning goal 0 goal none with aborted := aborted }
        let s := scanning goal aborted
        s.ope.job = some j ∧ s.ope.phase = .scan ∧ 243422 ≤ s.tsv.counter ∧ j.op.cmd.isWrite = false)
    ∧ (60 + 1 = 61 ∧ 60 + 1 ≠ 62)
    ∧ (let s := crossing 153300 Seen.nothing
       s.ope.seen.rises = 0 ∧ s.tsv.order ≠ .faultRamp ∧ s.ope.expStart + 30300 ≤ s.tsv.counter ∧ s.bdr.eod = none)
    ∧ (∀ e ∈ [(59 : Nat), 60],
        let s := { crossing 153300 Seen.nothing with bdr := { live.bdr with eod := some e } }
        s.bdr.eod = some e ∧ s.ope.deckNext = 60)
    ∧ (let s := crossing 153299 Seen.nothing
       s.tsv.counter < s.ope.expStart + 30300) := by
  decide +kernel

/-- Each way: there already; an entry; at EOD after an entry; an entry below; the load point. Proceeding: EOD unknown, at
the block, and below the goal; each command. -/
theorem witness_PositioningWays :
    live.tsv.order ≠ .faultRamp ∧ (live.ope.posValid = true ∧ live.ope.deckNext = 0)
    ∧ ¬ (decimated.ope.posValid = true ∧ decimated.ope.deckNext = 7000)
    ∧ (∃ e, decimated.bdr.entry 7000 = some e)
    ∧ (decimated.bdr.entry 7001 = none
        ∧ (∃ e, ({ decimated.bdr with eod := some 7001 } : Bdr).eod = some 7001 ∧ 0 < 7001 ∧ decimated.bdr.entry (7001 - 1) = some e)
        ∧ (∀ e, ¬ (decimated.bdr.eod = some 7001 ∧ 0 < 7001 ∧ decimated.bdr.entry (7001 - 1) = some e))
        ∧ ∃ e, decimated.bdr.lookup 7001 = .lower e)
    ∧ decimated.bdr.lookup 6999 = .loadPoint
    ∧ live.bdr.eod = none
    ∧ (∃ e, ({ live.bdr with eod := some 60 } : Bdr).eod = some e ∧ e ≤ 60) ∧ ¬ (60 : Nat) ≤ 59
    ∧ ((job .readBlock .deck 0 60 60 (some 0)).op.slot = some 0 ∧ (job .writeMark .deck 0 60 60 none).op.cmd.isWrite = true
        ∧ 0 < (job .space .deck 2 60 62 none).op.param ∧ (job .space .deck (-2) 60 58 none).op.param < 0
        ∧ (job .locate .deck 58 60 58 none).op.cmd = .locate) := by
  refine ⟨by decide, by decide, by decide, ⟨_, rfl⟩, ⟨by decide, ⟨_, by decide, by decide, rfl⟩, fun e h => ?_, ⟨_, rfl⟩⟩,
    by decide, by decide, ⟨60, by decide⟩, by decide, by decide⟩
  exact absurd h.1 (by decide)

theorem witness_LookupFindsTheEntryBelow :
    decimated.bdr.wf ∧ (∃ e, decimated.bdr.lookup 7000 = .exact e) ∧ (∃ e, decimated.bdr.lookup 7001 = .lower e)
    ∧ decimated.bdr.lookup 6999 = .loadPoint := by
  exact ⟨by decide, ⟨_, rfl⟩, ⟨_, rfl⟩, by decide⟩

/-- The directory of section 'Decimation and truncation on a long volume' before the report of block 4,096. -/
def fullDirectory : Bdr :=
  { entries := (List.range 4096).map (fun k => { num := k, start := 3000 + 2000 * k, extent := 1400, len := 8000, mark := false, failed := false })
    stride := 1, known := 4095, eod := none }

/-- The report of block 4,096. -/
def block4096 : Traversal := { num := 4096, start := 8195000, extent := 1400, len := 8000, mark := false, failed := false }

/-- The directory of section 'Decimation and truncation on a long volume' at its 4,097th entry; a report at EOD, below it, and
two beyond the known limit; a block traversed again 200 counts off and 201; one that is no multiple of the stride, and one
that is, with room. -/
theorem witness_FullDirectoryDecimates :
    (fullDirectory.entries.length = 4096 ∧ fullDirectory.stride < 256 ∧ fullDirectory.entry block4096.num = none
      ∧ block4096.num % fullDirectory.stride = 0 ∧ fullDirectory.eod = none
      ∧ ¬ fullDirectory.known + 1 < (block4096.num : Int) ∧ (block4096.num : Int) = fullDirectory.known + 1)
    ∧ (let d := decimated.bdr
       ({ d with eod := some 7001 } : Bdr).eod = some 7001 ∧ 7001 ≤ 7001 ∧ ¬ 7001 ≤ 7000
        ∧ d.known + 1 < 9003 ∧ ¬ d.known + 1 < 9002)
    ∧ (∃ old, decimated.bdr.entry 7000 = some old ∧ (14003200 - old.start).natAbs = 200 ∧ (14002799 - old.start).natAbs = 201)
    ∧ (decimated.bdr.entry 7001 = none ∧ 7001 % decimated.bdr.stride ≠ 0)
    ∧ (decimated.bdr.entry 7004 = none ∧ 7004 % decimated.bdr.stride = 0 ∧ decimated.bdr.entries.length < 4096) := by
  have hl : fullDirectory.entries.length = 4096 := by unfold fullDirectory; rw [List.length_map, List.length_range]
  refine ⟨⟨hl, by decide, ?_, by decide, by decide, by decide, by decide⟩, by decide, ⟨_, rfl, by decide, by decide⟩,
    by decide, by decide⟩
  unfold Bdr.entry
  rw [List.find?_eq_none]
  intro x hx
  unfold fullDirectory at hx
  simp only [List.mem_map, List.mem_range] at hx
  obtain ⟨k, hk, rfl⟩ := hx
  rw [decide_eq_true_eq]
  show ¬ k = 4096
  omega

theorem witness_HeaderRoundTrip : (Hdr.encode { code := 1, tag := 2, flags := 3, param := 4, len := 5 }).length = 9 := by decide

/-- The reception at a stage, CI-FRM at a level, with the bytes and the slot. -/
def receiving (st : RxState) (level : Bool) (bytes : List Byte) (read bad : Bool) : State :=
  (slot0 .filling 0 live).onPort .a (fun q =>
    { q with ciFrm := level, rx := { state := st, bytes := bytes, isRead := read, bad := bad
                                     slot := if st = .data then some 0 else none } })

/-- Eight bytes, nine and a tenth; a byte of good and of bad parity; every stage with CI-FRM true and fallen; a length of
16,384 and one above it, and of 1 for SENSE; data complete and not. -/
theorem witness_FrameReception :
    (live.inReset = false ∧ live.inService .a = true ∧ (live.port .a).ciFrm = false ∧ (live.port .a).rx.state = .idle)
    ∧ (∀ st ∈ [RxState.idle, .header, .held, .data, .drain, .ended], ∀ level ∈ [false, true], ∀ bad ∈ [false, true],
        ∀ n ∈ [8, 9],
        let s := receiving st level (nine.take n) true bad
        s.inReset = false ∧ s.inService .a = true ∧ (s.port .a).ciFrm = level ∧ (s.port .a).rx.state = st
          ∧ (s.port .a).rx.bad = bad ∧ (s.port .a).rx.bytes.length = n)
    ∧ (oddParity 0x10 false = true ∧ oddParity 0x10 true = false)
    ∧ (let s := header .a 0x10 0 live
       (s.port .a).rx.state = .header ∧ (s.port .a).rx.bytes.length = 9 ∧ (s.port .a).rx.isRead = false ∧ (s.port .a).ciFrm = true
        ∧ (s.port .a).rx.header.dataLen = 0 ∧ (s.port .a).rx.header.cmd = some .sense)
    ∧ ((header .a 0x10 1 live).portA.rx.header.dataLen = 1
        ∧ (header .a 0x03 16384 live).portA.rx.header.dataLen = 16384
        ∧ (header .a 0x03 16384 live).portA.rx.header.cmd = some .writeBlock
        ∧ (header .a 0x03 16385 live).portA.rx.header.dataLen = 16385
        ∧ (header .a 0x03 0 live).portA.rx.header.dataLen = 0)
    ∧ (let s := receiving .data true [] true false
       (s.port .a).rx.slot = some 0 ∧ (s.bbf.slot 0).len ≤ (s.bbf.slot 0).data.length)
    ∧ (let s := receiving .data true [] true false
       let b := s.bbf.modify 0 (fun x => { x with data := nine.take 8 })
       ¬ (b.slot 0).len ≤ (b.slot 0).data.length) :=
  ⟨by decide, by decide +kernel, by decide, by decide, by decide, by decide, by decide⟩

/-- A WRITE BLOCK frame held, of nine bytes; then with its slot and eight of them. -/
def held : State := after (.frameHeaderComplete .a) (header .a 0x03 9 live)

/-- A WRITE BLOCK held at port A with the buffer's lowest slots and cache list given, the slots above being read for port B. -/
def fullOf (l : List Slot) (cache : List Nat) : State :=
  { held with bbf := { slots := l ++ List.replicate (16 - l.length) { slotOf .reading 60 with owner := some .b }, cache := cache } }

/-- A WRITE BLOCK held at port A behind a queue and records. -/
def heldBehind (l : List Op) (recs : List Rec) : Port := { held.port .a with queue := l, status := recs }

/-- The lowest FREE slot, and with none FREE the first unpinned one of the cache list or none; each condition that makes the
frame wait, at its limit. -/
theorem witness_WriteDataAdmission :
    (held.inReset = false ∧ held.inService .a = true ∧ (held.port .a).rx.state = .held ∧ (held.port .a).recordCount < 8
      ∧ (held.port .a).queue.length < 4 ∧ (held.port .a).queue = [] ∧ held.charge .a < 8 ∧ held.bbf.candidate = some 0)
    ∧ (live.port .a).rx.state ≠ .held
    ∧ (let s := slot0 .reading 60 held
       (s.bbf.slot 1).state = .free ∧ ∀ k < 1, (s.bbf.slot k).state ≠ .free)
    ∧ (fullOf [{ slotOf .cached 61 with pins := 1 }, slotOf .cached 62] [0, 1]).bbf.cache = [0] ++ 1 :: []
    ∧ (∀ l ∈ [[{ slotOf .cached 61 with pins := 1 }, slotOf .cached 62], [slotOf .pending 60, slotOf .pending 61]],
        ∀ k < 16, ((fullOf l [0, 1]).bbf.slot k).state ≠ .free)
    ∧ (((fullOf [{ slotOf .cached 61 with pins := 1 }, slotOf .cached 62] [0, 1]).bbf.slot 0).pins ≠ 0
        ∧ ((fullOf [{ slotOf .cached 61 with pins := 1 }, slotOf .cached 62] [0, 1]).bbf.slot 1).pins = 0)
    ∧ 8 ≤ (heldBehind [] (List.replicate 8 (completeRec 0 0 .ok 0 []))).recordCount
    ∧ 4 ≤ (heldBehind (List.replicate 4 (op .writeBlock 0 (some 60) none)) []).queue.length
    ∧ (∃ o ∈ (heldBehind [op .rewind 0 none none] []).queue, o.cmd ≠ .writeBlock ∧ o.cmd ≠ .writeMark)
    ∧ (8 ≤ (fullOf (List.replicate 8 (slotOf .pending 60)) []).charge .a
        ∧ ((fullOf (List.replicate 8 (slotOf .pending 60)) []).port .a).rx.state = .held)
    ∧ (let s := after (.writeDataAdmitted .a) held
       (s.port .a).ciFrm = true ∧ (s.port .a).rx.state = .data ∧ (s.port .a).rx.slot = some 0
        ∧ (s.bbf.slot 0).data.length < (s.bbf.slot 0).len ∧ oddParity 0x10 false = true) := by decide +kernel

theorem witness_DamagedAndUnknownFrames :
    (let s := live.onPort .a (fun q => { q with rx := { Rx.none with state := .ended, bad := true } })
     s.inReset = false ∧ s.inService .a = true ∧ (s.port .a).rx.state = .ended ∧ (s.port .a).recordCount < 8
      ∧ (s.port .a).rx.bad = true)
    ∧ (let s := ended .a 0x0B 0 live
       (s.port .a).rx.state = .ended ∧ (s.port .a).rx.bad = false ∧ (s.port .a).rx.header.cmd = none)
    ∧ (let s := (ended .a 0x0B 0 live).onPort .a (fun q => { q with status := List.replicate 8 (completeRec 0 0 .ok 0 []) })
       (s.port .a).rx.state = .ended ∧ 8 ≤ (s.port .a).recordCount) := by decide +kernel

/-- A COMPLETE record placed and stamped, with `k` bytes of it passed. -/
def sending (k : Nat) : State :=
  live.onPort .a (fun q =>
    { q with sent := k, status := [{ completeRec 5 0x01 .ok 0 [] with stamp := some { deckByte := 0x20, flags := 2, next := 0 } }] })

/-- Port A with eight records, the first of them passed whole, and DECK_READY pending. -/
def fullQueue (s : State) : State :=
  s.onPort .a (fun q =>
    { q with sent := 15, pendingEv := EventKind.deckReady.bit
             status := List.replicate 8 { completeRec 5 0x01 .ok 0 [] with stamp := some { deckByte := 0x20, flags := 2, next := 0 } } })

theorem witness_RecordsAreSentByteByByte :
    (0 < 2 ^ 24 ∧ 1048576 < 2 ^ 24 ∧ 16384 < 2 ^ 16)
    ∧ ((sending 14).inReset = false ∧ (sending 14).inService .a = true
      ∧ ∃ r, ((sending 14).port .a).status = r :: []
        ∧ r.stamp = some { deckByte := 0x20, flags := 2, next := 0 }
        ∧ ((sending 14).port .a).sent < ((sending 14).recordBytes r { deckByte := 0x20, flags := 2, next := 0 }).length
        ∧ ((sending 14).port .a).sent < 15 + r.payload.len
        ∧ ((sending 15).recordBytes r { deckByte := 0x20, flags := 2, next := 0 }).length ≤ ((sending 15).port .a).sent
        ∧ ((sending 15).port .a).sent = 15 + r.payload.len)
    ∧ (let left := fun (s : State) => (fullQueue s).onPort .a (fun q => { q with status := q.status.tail, soFrm := false, sent := 0 })
       ((fullQueue live).port .a).recordCount = 8 ∧ ((fullQueue live).port .a).sent = 15
        ∧ (left held).mayAdmit .a = true
        ∧ (let x := left (live.onPort .a (fun q => { q with rx := { Rx.none with state := .ended, bad := true } }))
           (x.port .a).rx.state = .ended ∧ (x.port .a).recordCount < 8 ∧ (x.port .a).rx.bad = true)
        ∧ (let x := left (ended .a 0x7F 0 live)
           (x.port .a).rx.state = .ended ∧ (x.port .a).rx.bad = false ∧ (x.port .a).rx.header.cmd = none)
        ∧ (left (ended .a 0x10 0 live)).takes .a .sense = true ∧ (left (ended .a 0x02 0 live)).takes .a .readBlock = true
        ∧ (left live).mayAdmit .a = false ∧ (left live).endedWithRoom .a = false) := by
  refine ⟨by decide, ⟨by decide, by decide, _, rfl, rfl, by decide, by decide, by decide, by decide⟩, by decide +kernel⟩

/-- R175, R177: at a full count a waiting frame takes the place of the record sent, and the event waits; with the frame's data
admitted, the event takes it. -/
theorem test_record_sent_takes_the_waiting_frame :
    (let t := after (.recordSent .a) (fullQueue (ended .a 0x10 0 live))
     t.portA.status.getLast?.map (fun r => r.cmd) = some 0x10 ∧ t.portA.status.length = 8 ∧ t.portA.pendingEv = 1
      ∧ t.portA.rx.state = .idle)
    ∧ (let t := after (.recordSent .a) (fullQueue held)
       t.portA.rx.state = .data ∧ t.portA.status.length = 8 ∧ t.portA.pendingEv = 0) := by decide +kernel

/-- R175: the hit that the record's pin allows comes after the take: SENSE is answered before the READ is served. -/
theorem test_record_sent_takes_before_the_hit :
    let pinned := { slotOf .cached 60 with pins := 2 }
    let s := ended .a 0x10 0 { offline .ready with bbf := { slots := live.bbf.slots.set 0 pinned, cache := [0] } }
    let t := after (.recordSent .a) (s.onPort .a (fun q =>
      { q with next := 60, queue := [{ op .readBlock 0 none none with granted := false }], sent := 24
               status := [{ completeRec 5 0x02 .ok 60 [] with payload := .pinned 0 9 }] }))
    t.portA.status.map (fun r => r.cmd) = [0x10, 0x02] ∧ t.portA.next = 61 ∧ (t.bbf.slot 0).pins = 2 := by decide +kernel

/-- R175: a record at the head raises SO-FRM, and passes no byte while SO-RDY is false. R86, R89: a delivered slot enters the
cache, or is FREE with DISCARD; a pinned slot loses its pin, and a withdrawn one its last with its place. -/
theorem test_record_waits_for_so_rdy :
    (after (.statusByteSent .a false) (sending 0)).portA.soFrm = true
    ∧ (after (.statusByteSent .a false) (sending 0)).portA.sent = 0
    ∧ (let sent := fun (r : Payload) (x : Slot) =>
         let s := { live with bbf := { slots := live.bbf.slots.set 0 x, cache := if x.owner = none then [0] else [] } }
         ((after (.recordSent .a) (s.onPort .a (fun q =>
            { q with sent := 24, status := [{ completeRec 5 0x02 .ok 60 [] with payload := r }] }))).bbf.slot 0)
       (sent (.delivering 0 9) (slotOf .delivering 60)).state = .cached
        ∧ (sent (.delivering 0 9) { slotOf .delivering 60 with discard := true }).state = .free
        ∧ (sent (.pinned 0 9) { slotOf .cached 60 with pins := 2 }).pins = 1
        ∧ (sent (.pinned 0 9) { slotOf .cached 60 with pins := 1, block := none }).state = .free) := by decide +kernel

/-- Port B the writer with a write of block 120 queued, slots of every state it can hold, and one record pinning slot 6. -/
def resetting : State :=
  let t := (header .b 0x19 5 live).onPort .b (fun q =>
    { q with queue := [{ op .writeMark 0 (some 120) none with granted := false }]
             status := [{ completeRec 5 0x02 .ok 60 [] with payload := .pinned 6 9 }] })
  let owned := fun (st : SlotState) => { slotOf st 60 with owner := some .b }
  { t with
    arb := { t.arb with writer := some .b }
    bbf := { slots := [owned .filling, owned .pending, owned .delivering, owned .reading, owned .writing, Slot.freed,
                       { slotOf .cached 60 with pins := 2 }] ++ List.replicate 9 Slot.freed
             cache := [6] } }

/-- With the link true and false; a PORT RESET header; a slot of each state, a pin of two and a withdrawn slot's last; a write
lost, with EOD unknown and below it, and none lost. -/
theorem witness_PortResetAndLinkLoss :
    (resetting.inReset = false ∧ resetting.enabled .b = true ∧ (resetting.port .b).linkAct = true)
    ∧ (let s := live.onPort .b (fun q => { q with linkAct := false })
       s.enabled .b = true ∧ (s.port .b).linkAct = false)
    ∧ ((resetting.port .b).rx.headerDue = true ∧ (resetting.port .b).rx.header.inError = false
        ∧ (resetting.port .b).rx.header.cmd = some .portReset)
    ∧ (let lost := fun (s : State) =>
         (((s.port .b).queue.filter (fun o => !o.granted && o.cmd.isWrite)).filterMap (fun o => o.block)).min?
       lost resetting = some 120 ∧ resetting.bdr.eod = none ∧ lost live = none ∧ live.bdr.eod = none)
    ∧ (let pinsOf := fun (i : Nat) =>
         (resetting.port .b).status.countP (fun r => match r.payload with | .pinned k _ => decide (k = i) | _ => false)
       (∀ i ∈ [0, 1, 2, 3, 4], i < resetting.bbf.slots.length ∧ pinsOf i = 0 ∧ (resetting.bbf.slot i).owner = some .b)
        ∧ [0, 1, 2, 3, 4].map (fun i => (resetting.bbf.slot i).state) = [.filling, .pending, .delivering, .reading, .writing]
        ∧ (resetting.bbf.slot 5).owner ≠ some .b
        ∧ (resetting.bbf.slot 6).state = .cached ∧ (resetting.bbf.slot 6).owner = none
        ∧ pinsOf 6 = 1 ∧ pinsOf 6 ≤ (resetting.bbf.slot 6).pins)
    ∧ (let x : Slot := { slotOf .cached 60 with block := none, pins := 1 }
       x.state = .cached ∧ x.owner = none ∧ x.block = none ∧ 1 = x.pins)
    ∧ (resetting.arb.writer = some .b ∧ resetting.enabled (PortId.b).other = true) := by decide +kernel

/-- R93, R165: what a PORT RESET leaves of the slots, the pins and EOD. -/
theorem test_port_reset :
    let t := after (.portReset .b) resetting
    (t.bbf.slots.take 7).map (fun x => (x.state, x.pins)) =
        [(.free, 0), (.free, 0), (.free, 0), (.reading, 0), (.writing, 0), (.free, 0), (.cached, 1)]
    ∧ t.bdr.eod = some 120 ∧ t.arb.writer = none ∧ t.portB.status.length = 1 := by decide +kernel

/-- Due with seven records owed; not due with eight. -/
theorem witness_EventRecordsAndStamps :
    (let s := (live.addEvents .deckReady).onPort .a (fun q => { q with status := List.replicate 7 (completeRec 0 0 .ok 0 []) })
     s.enabled .a = true ∧ (s.port .a).linkAct = true ∧ (s.port .a).hold = false ∧ (s.port .a).pendingEv &&& (s.port .a).mask ≠ 0
      ∧ (s.port .a).status.length + (s.port .a).queue.countP (fun o => o.owed) < 8)
    ∧ (live.port .a).pendingEv &&& (live.port .a).mask = 0 := by decide +kernel

theorem witness_TakeTests :
    (live.onPort .a (fun q => { q with deferred := some 120 })).portA.deferred = some 120
    ∧ (live.port .a).deferred = none ∧ Cmd.readBlock.isMotion = true ∧ (offline .ready).dsq.online = false
    ∧ live.dsq.online = true ∧ (inDeck .rewindOut).dsq.deck ∈ [Deck.rewindOut, .windOff, .faultStop, .faultedSoft, .faultedHard]
    ∧ Cmd.readBlock ≠ .load ∧ (inDeck .vacuumUp).dsq.deck ≠ .ready ∧ live.dsq.deck = .ready
    ∧ Cmd.writeMark.isWrite = true ∧ live.arb.writer ≠ some .a
    ∧ ({ live with arb := { live.arb with writer := some .b } } : State).arb.writer = some (PortId.a).other
    ∧ 1048575 < (live.onPort .a (fun q => { q with next := 1048576 })).portA.next
        + (live.port .a).queue.countP (fun o => o.cmd.isWrite)
    ∧ Cmd.readBlock ≠ .unload ∧ Cmd.readBlock.isWrite = false
    ∧ (let s := { live.onPort .a (fun q => { q with next := 1048575 }) with arb := { live.arb with writer := some .a } }
       s.arb.writer = some .a ∧ (s.port .a).next + (s.port .a).queue.countP (fun o => o.cmd.isWrite) ≤ 1048575)
    ∧ (live.arb.writer ≠ some (PortId.a).other ∧ (live.port (PortId.a).other).queue = [])
    ∧ (∀ d ∈ [Deck.unloaded, .vacuumUp, .loopForm, .loadPointSearch, .rezero, .ready],
        (inDeck d).dsq.deck = d ∧ (inDeck d).dsq.online = true)
    ∧ Cmd.pushMark ∉ [Cmd.load, .readBlock, .writeBlock, .writeMark, .space, .locate, .rewind, .unload]
    ∧ (let s := (ended .a 0x11 0 live).onPort .a (fun q => { q with deferred := some 120 })
       s.inReset = false ∧ Cmd.queryDirectory.isQueued = false ∧ Cmd.queryDirectory ≠ .sense
        ∧ Cmd.queryDirectory ≠ .portReset ∧ s.takes .a .queryDirectory = true ∧ (s.port .a).deferred = some 120) := by
  decide +kernel

theorem witness_QueuedFramesJoinTheirQueue :
    live.inReset = false ∧ Cmd.locate.isQueued = true ∧ Cmd.locate.isWrite = false
    ∧ (ended .a 0x06 7003 live).takes .a .locate = true ∧ (ended .a 0x06 7003 live).refusal .a .locate = none
    ∧ (ended .a 0x06 7003 (offline .ready)).takes .a .locate = true
    ∧ (ended .a 0x06 7003 (offline .ready)).refusal .a .locate = some (.offline, 0)
    ∧ live.takes .a .locate = false := by decide +kernel

/-- R151, R173: an operation records its frame's parameter, clamped for a LOCATE. -/
theorem test_parameter_is_recorded :
    ((after (.readBlock .a) (ended .a 0x02 7003 (working .run (job .writeMark .writing 0 5 5 none) live))).port .a).queue.map
        (fun o => o.param) = [0, 7003]
    ∧ opParam .locate 2000000 = 1048576 ∧ opParam .space 0xFFE00000 = -1048576 ∧ opParam .rewind 0xFFFFFFFF = 4294967295 := by
  decide +kernel

/-- A WRITE BLOCK of nine bytes whose frame has ended at the writer. -/
def writeEnded : State :=
  let t := { live with arb := { live.arb with writer := some .a } }
  let s := { t with bbf := { t.bbf with slots := t.bbf.slots.set 0 { slotOf .filling 0 with block := none } } }
  s.onPort .a (fun q =>
    { q with rx := { state := .ended, bytes := Hdr.encode { code := 0x03, tag := 7, flags := 0, param := 0, len := 9 },
                     isRead := true, bad := false, slot := some 0 } })

/-- A WRITE BLOCK taken and refused; one of length 0; a number and a mark above the new EOD; slots of every state at and below
the block. -/
theorem witness_WritesAreTaken :
    (writeEnded.inReset = false ∧ Cmd.writeBlock.isWrite = true ∧ writeEnded.takes .a .writeBlock = true
      ∧ writeEnded.refusal .a .writeBlock = none ∧ 0 < (writeEnded.port .a).rx.header.dataLen
      ∧ (writeEnded.port .a).rx.slot = some 0 ∧ 0 < writeEnded.bbf.slots.length
      ∧ (writeEnded.bbf.slot 0).state = .filling ∧ (writeEnded.bbf.slot 0).block = none ∧ writesIn (writeEnded.port .a).queue = 0)
    ∧ (let s := { writeEnded with arb := live.arb }
       s.takes .a .writeBlock = true ∧ s.refusal .a .writeBlock = some (.notWriter, 0) ∧ (s.port .a).rx.slot = some 0)
    ∧ (let s := writeEnded.onPort .b (fun q => { q with next := 2, marks := [1, 2] })
       s.enabled .b = true ∧ 0 + 1 < (s.port .b).next ∧ ∃ m ∈ (s.port .b).marks, 0 + 1 < m)
    ∧ (∀ st ∈ [SlotState.free, .filling, .pending, .writing, .cached, .delivering, .reading], ∀ k ∈ [(59 : Nat), 60],
        let b : Bbf := { live.bbf with slots := live.bbf.slots.set 1 (slotOf st k) }
        (b.slot 1).state = st ∧ (b.slot 1).block = some k)
    ∧ ((ended .a 0x03 0 live).takes .a .writeBlock = true ∧ ((ended .a 0x03 0 live).port .a).rx.header.dataLen = 0) := by
  decide +kernel

/-- R90: of the slots at or above a write taken, an unpinned CACHED one is FREE, a pinned one withdrawn, and one being delivered
takes DISCARD; one below keeps its place. R82: a refused write frees its slot. -/
theorem test_write_take_slots :
    (let x := writeEnded.onPort .a (fun q => { q with next := 60 })
     let s := { x with ope := { x.ope with phase := .run }, bbf := { x.bbf with
       slots := (((x.bbf.slots.set 1 (slotOf .cached 60)).set 2 { slotOf .cached 61 with pins := 1 }).set 3 (slotOf .delivering 60)).set
         4 (slotOf .cached 59)
       cache := [1, 2, 4] } }
     let t := after (.writeBlock .a) s
     (t.bbf.slots.take 5).map (fun y => (y.state, y.block, y.discard)) =
         [(.pending, some 60, false), (.free, none, false), (.cached, none, false), (.delivering, some 60, true),
          (.cached, some 59, false)]
      ∧ t.bbf.cache = [4])
    ∧ ((after (.writeBlock .a) { writeEnded with arb := live.arb }).bbf.slot 0).state = .free := by decide +kernel

theorem witness_MarkStack :
    (let s := ended .a 0x09 0 (live.onPort .a (fun q => { q with marks := [60, 61, 62, 63] }))
     s.inReset = false ∧ (s.port .a).queue = [] ∧ (s.port (PortId.a).other).queue = [] ∧ (s.port .a).deferred = none
      ∧ s.takes .a .pushMark = true)
    ∧ (let s := ended .a 0x0A 0 (live.onPort .a (fun q => { q with marks := [60, 61] }))
       s.takes .a .returnToMark = true ∧ (s.port .a).marks = [60] ++ [61])
    ∧ (let s := ended .a 0x0A 0 live
       s.takes .a .returnToMark = true ∧ (s.port .a).marks = [])
    ∧ live.ope.asking = false := by decide +kernel

/-- A READ at port B's head for block 60, cached in slot 0. -/
def cached : State :=
  (slot0 .cached 60 live).onPort .b (fun q => { q with next := 60, queue := [{ op .readBlock 0 none none with granted := false }] })

/-- The engine at work for port A, and a READ frame ended at port B for block 60, cached in slot 0. -/
def readEnded : State :=
  ended .b 0x02 0 (working .run (job .readBlock .reading 0 59 59 (some 1)) (slot0 .cached 60 live)
    |>.onPort .a (fun q => { q with queue := [] }) |>.onPort .b (fun q => { q with next := 60 }))

/-- A hit at the head; a command that leaves one with the engine at work; and the take of the READ itself. -/
theorem witness_CacheHit :
    (cached.enabled .b = true ∧ (cached.port .b).queue = { op .readBlock 0 none none with granted := false } :: []
      ∧ cached.hitSlot .b = some 0)
    ∧ (let u := { cached with ope := { cached.ope with phase := .run } }
       (u.port .b).queue = [{ op .readBlock 0 none none with granted := false }] ∧ (u.port (PortId.b).other).queue = []
        ∧ u.hitSlot .b = some 0 ∧ u.ope.asking = false ∧ u.ope.phase ≠ .idle)
    ∧ (readEnded.inReset = false ∧ readEnded.takes .b .readBlock = true ∧ readEnded.refusal .b .readBlock = none
      ∧ (readEnded.port .b).queue = [] ∧ (readEnded.port (PortId.b).other).queue = [] ∧ readEnded.ope.asking = false
      ∧ readEnded.ope.phase ≠ .idle ∧ readEnded.bdr.eod = none ∧ readEnded.charge .b < 8
      ∧ readEnded.bbf.cache.find? (fun k => (readEnded.bbf.slot k).block = some 60) = some 0
      ∧ (readEnded.bbf.slot 0).pins < 2 ∧ (readEnded.port .b).next = 60) := by decide +kernel

/-- R88: the take of a READ whose block is cached serves it in its step. -/
theorem test_cache_hit :
    (after (.readBlock .b) readEnded).portB.next = 61 ∧ (after (.readBlock .b) readEnded).portB.status.length = 1
    ∧ (((after (.readBlock .b) readEnded).bbf.slot 0).pins = 1) := by decide +kernel

/-- A stop of the engine's reported with no operation, and one operation at port A's head. -/
def stoppedBefore (o : Op) : State :=
  (reported (.stopDone .engine) { live with ope := { live.ope with phase := .stop } }).onPort .a (fun q =>
    { q with queue := [o] })

/-- The same with the engine IDLE. -/
def idleBefore (o : Op) : State := live.onPort .a (fun q => { q with queue := [o] })

/-- A command's own effect that leaves one ready head and the engine IDLE. -/
theorem settles_idleBefore (o : Op) : Settles .stopCompletion (stoppedBefore o) (idleBefore o) := rfl

/-- A command's own effect that leaves a READ at the head whose block is cached, the deck offline: the arbiter has nothing to
choose. -/
theorem settles_hit :
    let o : Op := { op .readBlock 0 none none with granted := false }
    let hit := fun (s : State) => ({ s with bbf := (slot0 .cached 0 live).bbf, dsq := { s.dsq with online := false } } : State)
    Settles .stopCompletion (hit (stoppedBefore o)) (hit (idleBefore o)) ∧ (hit (idleBefore o)).hitSlot .a = some 0
      ∧ (hit (idleBefore o)).dsq.online = false := ⟨rfl, by decide, rfl⟩

/-- A forward SPACE of 2 at its second block, with `rest` queued behind it. -/
def lastCrossing (rest : List Op) : State :=
  let j := { job .space .crossing 2 60 60 none with crossed := 1 }
  let s := working .scan j (at' 243722 live)
  { s with ope := { s.ope with seen := seenNine .k32, expStart := 123000, deckNext := 60 }
           portA := { s.portA with queue := j.op :: rest } }

/-- A command's own effect that leaves the engine asking at an end point. -/
theorem settles_asking (rest : List Op) :
    Settles .scanEndPoint (lastCrossing rest)
      ((lastCrossing rest).scanEnd { job .space .crossing 2 60 60 none with crossed := 1 }) := by
  have h : (lastCrossing rest).endPointDue = true := (by decide +kernel : (lastCrossing []).endPointDue = true)
  have e : (lastCrossing rest).ope.job = some { job .space .crossing 2 60 60 none with crossed := 1 } := rfl
  have r : (lastCrossing rest).inReset = false := rfl
  have f : (lastCrossing rest).ope.phase = .scan := rfl
  have k : ({ job .space .crossing 2 60 60 none with crossed := 1 } : Job).scans = true := rfl
  simp only [Settles, exec, execScanEndPoint, taken, e, r, f, k, h, and_self, if_true, Bool.false_eq_true, if_false]

/-- An operation at the head, ready and not granted. -/
def ready (c : Cmd) (param : Int) (block slot : Option Nat) : Op := { op c param block slot with granted := false }

/-- R131: a forward SPACE taken up with the tape running has attempt number 0, whatever the one before it had. -/
theorem test_continuation_space_attempt :
    let s := lastCrossing [ready .space 2 none none]
    let t := after .scanEndPoint { s with ope := { s.ope with attempt := 2 } }
    t.ope.phase = .scan ∧ t.ope.job.map (fun j => j.n) = some 61 ∧ t.ope.attempt = 0 := by decide +kernel

theorem witness_ArbiterAlternates :
    (let cand : PortId → Bool := fun _ => true
     (live.chainGoesOn cand .a = false ∧ live.chainGoesOn cand .b = false) ∧ cand .a = true ∧ cand .b = true)
    ∧ (let s := { live with arb := { live.arb with holder := some .a, lastChain := true, chainRun := 15 } }
       s.arb.holder = some .a ∧ s.arb.lastChain = true ∧ s.arb.chainRun < 16)
    ∧ (let s := { live with arb := { live.arb with holder := some .a, lastChain := true, chainRun := 16 } }
       s.arb.holder = some .a ∧ 16 ≤ s.arb.chainRun)
    ∧ (∀ o ∈ [ready .readBlock 0 none none, ready .writeMark 0 (some 0) none, ready .writeBlock 0 (some 0) (some 0),
              ready .space 0 none none, ready .space 2 none none, ready .space (-2) none none, ready .locate 9 none none,
              ready .rewind 0 none none, ready .unload 0 none none, ready .load 0 none none],
        let u := idleBefore o
        u.enabled .a = true ∧ (u.port .a).queue = [o] ∧ (u.port (PortId.a).other).queue = [] ∧ o.granted = false
          ∧ u.ope.job = none ∧ u.dsq.online = true ∧ u.tsv.order ≠ .faultRamp ∧ u.ope.phase = .idle
          ∧ u.ope.asking = false ∧ u.dsq.deck = .ready ∧ u.arb.writer ≠ some (PortId.a).other
          ∧ u.charge .a < 8 ∧ u.hitSlot .a = none
          ∧ (∀ x ∈ u.bbf.slots, (x.state = .pending ∨ x.state = .writing) → x.block ≠ some 0)
          ∧ u.bdr.eod = none ∧ (u.port .a).next = 0)
    ∧ (let u := { idleBefore (ready .load 0 none none) with
         dsq := { live.dsq with deck := .unloaded, vacT := false } }
       u.dsq.ampRdy = true ∧ u.dsq.ampFlt = false ∧ ¬ (u.dsq.vacS = true ∧ u.dsq.vacT = true))
    ∧ (∀ o ∈ [ready .writeMark 0 (some 61) none, ready .readBlock 0 none none, ready .space 2 none none,
              ready .space (-1) none none, ready .locate 9 none none, ready .rewind 0 none none],
        let u := (lastCrossing [o]).scanEnd { job .space .crossing 2 60 60 none with crossed := 1 }
        u.ope.asking = true ∧ (u.port .a).queue = [o] ∧ (u.port .b).queue = [] ∧ o.granted = false ∧ u.ope.job = none
          ∧ u.dsq.online = true ∧ u.dsq.deck = .ready ∧ u.tsv.order ≠ .faultRamp ∧ u.ope.posValid = true
          ∧ u.ope.deckNext = 61 ∧ (u.port .a).next = 61 ∧ u.bdr.eod = none)
    ∧ (let u := (lastCrossing []).scanEnd { job .space .crossing 2 60 60 none with crossed := 1 }
       u.ope.asking = true ∧ u.portA.queue = [] ∧ u.portB.queue = [] ∧ u.tsv.order ≠ .faultRamp) := by decide +kernel

/-- R118, R144: from IDLE a mark written where the tape stands runs at once, and a REWIND moves in its step. -/
theorem test_grant :
    (after .stopCompletion (stoppedBefore (ready .writeMark 0 (some 0) none))).ope.phase = .run
    ∧ (after .stopCompletion (stoppedBefore (ready .rewind 0 none none))).ope.phase = .move := by decide +kernel

theorem answered_of {s : State} {p : PortId} {c : Cmd}
    (h : s.inReset = false ∧ s.takes p c = true ∧ (s.port p).deferred = none) : Answered s p c := ⟨h.1, h.2.1, h.2.2⟩

/-- A state with an EOT position, an EOD, an operation queued, a mark and a CACHED slot, and one with none; the three forms of
the lookup. -/
theorem witness_SenseAndQueryDirectory :
    (live.inReset = false ∧ (ended .a 0x10 0 live).takes .a .sense = true)
    ∧ Answered (ended .a 0x11 0xFFFFFFFF live) .a .queryDirectory
    ∧ (let s := { (working .move (job .locate .scanning 9 0 9 none) (slot0 .cached 60 live)).onPort .a
            (fun q => { q with marks := [60] }) with
          tsv := { live.tsv with eotPos := some 28400000 }, bdr := { decimated.bdr with eod := some 9001 } }
       s.tsv.eotPos = some 28400000 ∧ s.bdr.eod = some 9001 ∧ (∃ o, (s.port .a).queue[0]? = some o) ∧ (s.port .a).queue[1]? = none
        ∧ (s.port .a).marks[0]? = some 60 ∧ (s.bbf.slot 0).state = .cached)
    ∧ ((∃ e, decimated.bdr.lookup 7000 = .exact e) ∧ (∃ e, decimated.bdr.lookup 7001 = .lower e)
        ∧ decimated.bdr.lookup 6999 = .loadPoint) :=
  ⟨by decide +kernel, answered_of (by decide +kernel), ⟨by decide, by decide, ⟨_, rfl⟩, by decide, by decide, by decide⟩,
   ⟨_, rfl⟩, ⟨_, rfl⟩, by decide⟩

theorem witness_WriterAssignment :
    Answered (ended .a 0x12 0 live) .a .assignWriter ∧ (ended .a 0x12 0 live).dsq.writeEnable = true
    ∧ (ended .a 0x12 0 live).ope.orphanWrite = false ∧ (ended .a 0x12 0 live).arb.writer = none
    ∧ Answered (ended .a 0x13 0 { live with arb := { live.arb with writer := some .a } }) .a .releaseWriter
    ∧ Answered (ended .a 0x13 0 (live.onPort .a (fun q => { q with queue := [op .writeMark 0 (some 120) none] }))) .a .releaseWriter
    ∧ (∃ o ∈ (ended .a 0x13 0 (live.onPort .a (fun q => { q with queue := [op .writeMark 0 (some 120) none] }))).portA.queue,
        o.cmd.isWrite = true)
    ∧ (atVerify 243422 Seen.nothing 0 0 true).ope.orphanWrite = true := by
  refine ⟨answered_of (by decide +kernel), by decide, by decide, by decide, answered_of (by decide +kernel),
    answered_of (by decide +kernel), ⟨_, List.mem_singleton.mpr rfl, by decide⟩, by decide⟩

theorem witness_OptionsEventsAndParameters :
    Answered (ended .a 0x14 0x000101FF live) .a .setPortOptions
    ∧ Answered (ended .a 0x16 0x1FF live) .a .acknowledgeEvents
    ∧ Answered (ended .a 0x15 0x00001000 (inDeck .unloaded)) .a .setDeckParameters
    ∧ (inDeck .unloaded).dsq.deck = .unloaded ∧ live.dsq.deck ≠ .unloaded
    ∧ (0x00001000#32).extractLsb' 8 8 = 16#8 ∧ (0x00001100#32).extractLsb' 8 8 ≠ 16#8
    ∧ (0x00001100#32).extractLsb' 8 8 ≠ 32#8 := by
  refine ⟨answered_of (by decide +kernel), answered_of (by decide +kernel), answered_of (by decide +kernel), by decide, by decide,
    by decide, by decide, by decide⟩

theorem witness_ClearFaultIsRefusedWhileTheConditionPersists :
    let s := ended .a 0x17 0
      { faulted .faultedSoft .loopOut with tsv := { live.tsv with supply := { live.tsv.supply with loop := 961 } } }
    Answered s .a .clearFault ∧ s.dsq.deck = .faultedSoft ∧ 960 < s.tsv.supply.loop :=
  ⟨answered_of (by decide +kernel), by decide, by decide⟩

/-- A CLEAR FAULT at port A, the deck FAULTED SOFT after a fault of a kind met in a deck state. -/
def clearing (d : Deck) (k : FaultKind) : State :=
  ended .a 0x17 0 { live with dsq := { live.dsq with deck := .faultedSoft, faultKind := some k, resume := some d } }

/-- R7, R11, R12, R71: a clear resumes a load with a search from −2,000 at CREEP, a re-zero in reverse at FAST with an empty
directory, and an unload with its move or its timer. -/
theorem test_clear_resumes :
    (let s := (after (.clearFault .a) (clearing .loopForm .vacuumLoss))
     s.dsq.search = some ⟨.load, .running⟩ ∧ s.tsv.counter = -2000 ∧ s.tsv.target = 64)
    ∧ (let s := (after (.clearFault .a) (clearing .ready .tach))
       s.dsq.search = some ⟨.rezeroReverse, .running⟩ ∧ s.tsv.target = -1280 ∧ s.bdr.entries = [] ∧ s.bdr.known = -1)
    ∧ (after (.clearFault .a) (clearing .windOff .loopOut)).dsq.timer = some .windOff := by decide +kernel

/-- Every resume point, after a TACH fault and after another. -/
theorem witness_ClearFaultLeavesTheFault :
    (∀ d ∈ [Deck.vacuumUp, .loopForm, .loadPointSearch, .rezero, .ready, .rewindOut, .windOff], ∀ k ∈ [FaultKind.tach, .loopOut],
      let s := clearing d k
      Answered s .a .clearFault ∧ s.dsq.deck = .faultedSoft ∧ s.checksPass = true ∧ s.enabled .b = true
        ∧ s.dsq.resume = some d ∧ s.dsq.faultKind = some k)
    ∧ (let s := ended .a 0x17 0 (faulted .faultedHard .drive)
       Answered s .a .clearFault ∧ s.dsq.deck = .faultedHard ∧ s.dsq.resume = some .ready ∧ s.arb.writer ≠ some .a)
    ∧ (let s := ended .a 0x17 0 live
       Answered s .a .clearFault ∧ s.dsq.deck ≠ .faultedSoft ∧ s.dsq.deck ≠ .faultedHard) :=
  ⟨fun d hd k hk => ⟨answered_of (by revert d k; decide +kernel), by revert d k; decide⟩,
   ⟨answered_of (by decide +kernel), by decide, by decide, by decide⟩, ⟨answered_of (by decide +kernel), by decide, by decide⟩⟩

/-- Port A has a LOCATE in its positioning and two writes queued behind a SPACE; EOD stands above them. -/
def busy : State :=
  let s := working .move (job .locate (.positioning (.exact 23000)) 10 0 10 none) live
  s.onPort .a (fun q => { q with queue := q.queue ++
    [{ op .space (-3) none none with granted := false }, { op .writeMark 0 (some 120) none with granted := false }] })

/-- An operation of port A that waits for the stop of R130, with an ABORT at its port. -/
def abortWaiting (j : Job) : State :=
  let s := ended .a 0x18 0 (working .stop j live)
  { s with ope := { s.ope with job := none, waiting := some j } }

/-- Port A has writes of 120 to 123 queued, those of 120 and 122 answered at their takes; port B stands beyond them. -/
def buffering : State :=
  let s := live.onPort .a (fun q =>
    { q with next := 120
             queue := [{ ready .writeBlock 0 (some 120) (some 0) with owed := false }, ready .writeMark 0 (some 121) none,
                       { ready .writeBlock 0 (some 122) (some 1) with owed := false }, ready .writeMark 0 (some 123) none] })
  { s.onPort .b (fun q => { q with next := 124, marks := [60, 123] }) with
    ope := { s.ope with phase := .stop }, bdr := { s.bdr with eod := some 124 } }

/-- R162 to R164: an ABORT keeps the buffered write ahead of the lowest cancelled, loses the one behind it with a deferred
error, and lowers EOD, its own number and the other port's. -/
theorem test_abort_rolls_back :
    let s := after (.abort .a) (ended .a 0x18 0 buffering)
    (s.port .a).queue.map (fun o => o.block) = [some 120] ∧ (s.port .a).deferred = some 122 ∧ s.bdr.eod = some 121
      ∧ (s.port .a).next = 120 ∧ (s.port .b).next = 121 ∧ (s.port .b).marks = [60, 121] := by decide +kernel

theorem witness_AbortCancels :
    Answered (ended .a 0x18 0 busy) .a .abort
    ∧ (Answered (ended .a 0x18 0 buffering) .a .abort
        ∧ (((((ended .a 0x18 0 buffering).port .a).queue.filter (fun o => !o.granted && o.owed)).filter
            (fun o => o.cmd.isWrite)).filterMap (fun o => o.block)).min? = some 121
        ∧ (ended .a 0x18 0 buffering).enabled .b = true)
    ∧ ((((ended .a 0x18 0 busy).port .a).queue.filter (fun o => !o.granted && o.owed)).filter (fun o => o.cmd.isWrite)).filterMap
        (fun o => o.block) = [120]
    ∧ Answered (ended .a 0x18 0 live) .a .abort
    ∧ (∃ j, busy.ope.job = some j ∧ j.actor = .port .a ∧ j.orphan = false ∧ busy.tsv.order ≠ .faultRamp
        ∧ ∃ w, j.stage = .positioning w)
    ∧ (∃ j, (crossing 243422 begun).ope.job = some j ∧ j.stage = .crossing)
    ∧ (∃ j, (writing .run 243000).ope.job = some j ∧ j.stage = .writing)
    ∧ (∃ j, (scanning 61 false).ope.job = some j ∧ j.stage = .scanning ∧ j.op.cmd = .locate)
    ∧ (∃ j, (timed .windOff .windOff .unload).ope.job = some j ∧ j.stage = .deck)
    ∧ (∀ j ∈ [job .locate .deck 9 0 9 none, job .unload .deck 0 0 0 none],
        (abortWaiting j).ope.job = none ∧ (abortWaiting j).ope.waiting = some j ∧ j.actor = .port .a ∧ j.orphan = false)
    ∧ Answered (ended .b 0x18 0 busy) .b .abort
    ∧ (∃ j, busy.ope.job = some j ∧ j.actor = .port (PortId.b).other) := by
  refine ⟨answered_of (by decide +kernel), ⟨answered_of (by decide +kernel), by decide +kernel, by decide +kernel⟩,
    by decide +kernel, answered_of (by decide +kernel),
    ⟨_, rfl, by decide, by decide, by decide, _, rfl⟩, ⟨_, rfl, by decide⟩, ⟨_, rfl, by decide⟩, ⟨_, rfl, by decide⟩,
    ⟨_, rfl, by decide⟩, by decide, answered_of (by decide +kernel), ⟨_, rfl, by decide⟩⟩

/-- R146, R164: an ABORT marks a LOCATE that waits, and leaves an UNLOAD that waits. -/
theorem test_abort_of_a_waiting_operation :
    ((after (.abort .a) (abortWaiting (job .locate .deck 9 0 9 none))).ope.waiting.map (fun j => j.aborted)) = some true
    ∧ ((after (.abort .a) (abortWaiting (job .unload .deck 0 0 0 none))).ope.waiting.map (fun j => j.aborted)) = some false := by
  decide +kernel

end Sys2Proof.Tests
end

/-! PROOF. Rounding to the nearest integer with ties away from zero (R1). It is shown for `n` not negative, where `rna`
is one floor division, and carried to negative `n` by the oddness of `rna`. -/

namespace Sys2Proof.Machine

theorem rna_of_nonneg {n : Int} (d : Nat) (hn : 0 ≤ n) : rna n d = (2 * n + d) / (2 * d) := if_pos hn

theorem rna_of_neg {n : Int} (d : Nat) (hn : n < 0) : rna n d = -rna (-n) d := by
  rw [rna_of_nonneg d (by omega : 0 ≤ -n)]
  exact if_neg (by omega)

/-- Twice the rounding error of `n / d`, in units of `1 / d`, for `n` not negative. The lower bound is strict and the
upper one is not: a tie is rounded up, away from zero. -/
theorem rna_error_of_nonneg {n : Int} {d : Nat} (hn : 0 ≤ n) (hd : 0 < d) :
    -(d : Int) < 2 * (rna n d * d - n) ∧ 2 * (rna n d * d - n) ≤ d := by
  have h2d : (0 : Int) < 2 * d := by omega
  have hle : rna n d * (2 * d) ≤ 2 * n + d := by
    rw [rna_of_nonneg d hn]; exact Int.ediv_mul_le _ h2d.ne'
  have hlt : 2 * n + d < (rna n d + 1) * (2 * d) := by
    rw [rna_of_nonneg d hn]; exact Int.lt_ediv_add_one_mul_self _ h2d
  constructor <;> linarith

/-- `r` is a nearest integer to `n / d`, and the one farther from zero when two are equally near (R1). -/
def NearestTiesAway (n : Int) (d : Nat) (r : Int) : Prop :=
  2 * (r * d - n).natAbs ≤ d ∧ (2 * (r * d - n).natAbs = d → n.natAbs < (r * d).natAbs)

theorem NearestTiesAway.neg {n r : Int} {d : Nat} (h : NearestTiesAway n d r) : NearestTiesAway (-n) d (-r) := by
  have herr : -r * d - -n = -(r * d - n) := by ring
  unfold NearestTiesAway
  rwa [herr, Int.neg_mul, Int.natAbs_neg, Int.natAbs_neg, Int.natAbs_neg]

theorem rna_nearestTiesAway_of_nonneg {n : Int} {d : Nat} (hn : 0 ≤ n) (hd : 0 < d) :
    NearestTiesAway n d (rna n d) := by
  obtain ⟨hlow, hhigh⟩ := rna_error_of_nonneg hn hd
  constructor
  · omega
  · intro htie
    have hup : 2 * (rna n d * d - n) = d := by omega
    omega

theorem rna_nearestTiesAway (n : Int) {d : Nat} (hd : 0 < d) : NearestTiesAway n d (rna n d) := by
  rcases le_or_gt 0 n with hn | hn
  · exact rna_nearestTiesAway_of_nonneg hn hd
  · have h := (rna_nearestTiesAway_of_nonneg (by omega : 0 ≤ -n) hd).neg
    rwa [← rna_of_neg d hn, neg_neg] at h

/-- Settles O8: the rounding for every `n` and `d` by the sign of `n`, the manual's examples by evaluation. -/
theorem roundingIsToNearestTiesAway : Obligations.RoundingIsToNearestTiesAway :=
  ⟨fun n _ hd => rna_nearestTiesAway n hd, by decide⟩

end Sys2Proof.Machine

/-! PROOF. The stop distance Dstop (R27). `brakeSum` is the sum of a list, and braking from `k` steps of `a` down to 0
sums to `a` times a triangular number, of which every step A of R25 makes a multiple of 16: nothing is rounded. -/

namespace Sys2Proof.Machine

theorem brakeSum_eq_sum (v a j : Nat) :
    brakeSum v a j = ((List.range j).map (fun i => v - (i + 1) * a)).sum := by
  induction j with
  | zero => rfl
  | succ j ih => rw [List.sum_range_succ, ← ih, brakeSum]

/-- `v / a` steps leave less than one step, so the next one reaches 0 and adds nothing to the sum (R27). -/
theorem brakeSum_step_to_zero (v : Nat) {a : Nat} (ha : 0 < a) : brakeSum v a (v / a + 1) = brakeSum v a (v / a) := by
  have hlast : v < (v / a + 1) * a := (Nat.div_lt_iff_lt_mul ha).mp (Nat.lt_succ_self _)
  rw [brakeSum, Nat.sub_eq_zero_of_le hlast.le, Nat.add_zero]

/-- The first step from `v + a` leaves `v`, and the rest is braking from `v`. -/
theorem brakeSum_first_step (v a j : Nat) : brakeSum (v + a) a (j + 1) = v + brakeSum v a j := by
  induction j with
  | zero => simp [brakeSum]
  | succ j ih => rw [brakeSum, ih, brakeSum, Nat.succ_mul (j + 1) a, Nat.add_sub_add_right, Nat.add_assoc]

theorem brakeSum_of_steps (a k : Nat) : brakeSum (k * a) a k = a * k.choose 2 := by
  induction k with
  | zero => rfl
  | succ k ih =>
    rw [Nat.succ_mul, brakeSum_first_step, ih, Nat.choose_succ_succ' k 1, Nat.choose_one_right]
    ring

/-- The distance of `k` whole steps, exact where the step is a multiple of 16. -/
theorem sixteen_mul_dstop_of_steps {a : Nat} (k : Nat) (ha : 0 < a) (h16 : 16 ∣ a) :
    16 * dstop (k * a) a = a * k.choose 2 := by
  obtain ⟨c, hc⟩ : 16 ∣ brakeSum (k * a) a k := brakeSum_of_steps a k ▸ h16.mul_right _
  rw [← brakeSum_of_steps, dstop, Nat.mul_div_cancel k ha]
  omega

/-- V(V − A)/(32A) for every multiple V of a step A that is itself a multiple of 16. -/
theorem dstop_exact {v a : Nat} (ha : 0 < a) (h16 : 16 ∣ a) (hv : a ∣ v) : 32 * a * dstop v a = v * (v - a) := by
  obtain ⟨k, rfl⟩ := hv
  have htriangle : 2 * k.choose 2 = k * (k - 1) := by
    rw [Nat.choose_two_right, Nat.mul_div_cancel' k.even_mul_pred_self.two_dvd]
  calc 32 * a * dstop (a * k) a
      = 2 * a * (16 * dstop (k * a) a) := by rw [Nat.mul_comm a k]; ring
    _ = a * a * (2 * k.choose 2) := by rw [sixteen_mul_dstop_of_steps k ha h16]; ring
    _ = a * k * (a * (k - 1)) := by rw [htriangle]; ring
    _ = a * k * (a * k - a) := by rw [Nat.mul_sub_one]

/-- Settles O9: the sum with its last step to 0, the exact form for the three steps of R25, the table by evaluation. -/
theorem stopDistance : Obligations.StopDistance := by
  refine ⟨fun v a ha => ?_, fun v a hstep hv => ?_, by decide, by decide, by decide, by decide, by decide, by decide,
    fun a => ?_⟩
  · rw [← brakeSum_eq_sum, brakeSum_step_to_zero v ha, dstop]
  · have hpos : 0 < a := by omega
    have h16 : 16 ∣ a := by omega
    exact dstop_exact hpos h16 hv
  · simp [dstop, brakeSum]

end Sys2Proof.Machine

/-! PROOF. The table of fault reports (R61): its rows as the model's two tests of a deck state, and what a fault stop (R62)
and an escalation (R67, R68) leave of the deck sequencer and the servo. -/

namespace Sys2Proof.Machine

/-! ## What the parts of a fault stop leave of the deck sequencer and the servo -/

@[simp] theorem addEvent_dsq_tsv (k : EventKind) (p : PortId) (s : State) :
    (s.addEvent k p).dsq = s.dsq ∧ (s.addEvent k p).tsv = s.tsv := by
  unfold State.addEvent
  split <;> simp

@[simp] theorem boundPort_dsq_tsv (p : PortId) (s : State) :
    (s.boundPort p).dsq = s.dsq ∧ (s.boundPort p).tsv = s.tsv := by
  unfold State.boundPort
  dsimp only
  split <;> simp

@[simp] theorem rollbackTo_dsq_tsv (p : PortId) (f ahead : Nat) (s : State) :
    (s.rollbackTo p f ahead).dsq = s.dsq ∧ (s.rollbackTo p f ahead).tsv = s.tsv := by
  simp [State.rollbackTo, State.boundPorts, State.setNext]

@[simp] theorem rollbackOrphan_dsq_tsv (f : Nat) (s : State) :
    (s.rollbackOrphan f).dsq = s.dsq ∧ (s.rollbackOrphan f).tsv = s.tsv := by
  simp [State.rollbackOrphan, State.boundPorts]

@[simp] theorem deferOpt_dsq_tsv (p : PortId) (n : Option Nat) (s : State) :
    (s.deferOpt p n).dsq = s.dsq ∧ (s.deferOpt p n).tsv = s.tsv := by
  cases n <;> simp [State.deferOpt, State.defer]

@[simp] theorem freeSlots_dsq_tsv (l : List Op) (s : State) :
    (s.freeSlots l).dsq = s.dsq ∧ (s.freeSlots l).tsv = s.tsv := by
  induction l generalizing s with
  | nil => exact ⟨rfl, rfl⟩
  | cons o l ih => exact ih (s.onBbf (Bbf.freeOpt o.slot))

@[simp] theorem freeJob_dsq_tsv (j : Option Job) (s : State) :
    (s.freeJob j).dsq = s.dsq ∧ (s.freeJob j).tsv = s.tsv := by
  cases j <;> simp [State.freeJob]

@[simp] theorem engineNotice_dsq_tsv (s : State) : s.engineNotice.dsq = s.dsq ∧ s.engineNotice.tsv = s.tsv := ⟨rfl, rfl⟩

@[simp] theorem removeMotion_dsq_tsv (p : PortId) (s : State) :
    (s.removeMotion p).dsq = s.dsq ∧ (s.removeMotion p).tsv = s.tsv := by
  simp [State.removeMotion]

@[simp] theorem orphanRollback_dsq_tsv (j : Option Job) (s : State) :
    (s.orphanRollback j).dsq = s.dsq ∧ (s.orphanRollback j).tsv = s.tsv := by
  cases j with
  | none => exact ⟨rfl, rfl⟩
  | some j => dsimp only [State.orphanRollback]; split <;> simp

@[simp] theorem faultRollback_dsq_tsv (p : PortId) (lost : List Op) (s : State) :
    (s.faultRollback p lost).dsq = s.dsq ∧ (s.faultRollback p lost).tsv = s.tsv := by
  unfold State.faultRollback
  split <;> simp

/-- The deck sequencer after a fault stop: the kind and the resume point recorded (R62). -/
theorem beginFaultStop_dsq (k : FaultKind) (s : State) :
    (s.beginFaultStop k).dsq =
      { s.dsq.enter .faultStop with
        faultKind := some k, escKind := none, resume := some s.dsq.deck, timer := none, search := none } := by
  simp [State.beginFaultStop, addEvents_fields, Dsq.enter]

/-- The servo after a fault stop: the fault ramp ordered (R33, R62). -/
theorem beginFaultStop_tsv (k : FaultKind) (s : State) : (s.beginFaultStop k).tsv = s.tsv.orderFaultRamp := by
  simp [State.beginFaultStop, addEvents_fields]

/-! ## The rows of the table -/

/-- LOADING, READY and UNLOADING, by their substates (R3, R61). -/
theorem faultStops_iff (d : Deck) :
    d.faultStops = true ↔ d ∈ [.vacuumUp, .loopForm, .loadPointSearch, .rezero, .ready, .rewindOut, .windOff] := by
  cases d <;> decide

theorem escalatesOn_iff (d : Deck) (k : FaultKind) :
    d.escalatesOn k = true ↔ (d = .faultStop ∧ k ∈ [.loopOut, .tach, .vacuumLoss, .drive])
      ∨ (d = .faultedSoft ∧ k ∈ [.vacuumLoss, .drive]) := by
  simp [Deck.escalatesOn, or_assoc]

theorem not_faultStops_of_escalatesOn {d : Deck} {k : FaultKind} (h : d.escalatesOn k = true) : ¬ d.faultStops = true := by
  rcases (escalatesOn_iff d k).mp h with ⟨rfl, _⟩ | ⟨rfl, _⟩ <;> decide

theorem takeFault_of_faultStops {s : State} (k : FaultKind) (h : s.dsq.deck.faultStops = true) :
    s.takeFault k = s.beginFaultStop k := if_pos h

theorem takeFault_of_escalatesOn {s : State} {k : FaultKind} (h : s.dsq.deck.escalatesOn k = true) :
    s.takeFault k = s.escalate k := (if_neg (not_faultStops_of_escalatesOn h)).trans (if_pos h)

/-! ## The command -/

theorem exec_faultReport (x : FaultReport) (s : State) : exec (.faultReport x) s = execFaultReport x s := rfl

/-- A report that the deck acts on leaves the list and has its effect, and the event then settles (R61). -/
theorem faultReport_settles {s : State} {x : FaultReport} (hr : s.inReset = false) (hx : x ∈ s.dsq.faults)
    (h : s.dsq.deck.faultStops = true ∨ s.dsq.deck.escalatesOn x.kind = true) :
    Settles (.faultReport x) s ((s.dropReport x).takeFault x.kind) := by
  rw [Settles, exec_faultReport]
  simp [execFaultReport, taken, hr, hx, h]

/-- A report that the deck ignores leaves the list, and nothing else changes (R61). -/
theorem faultReport_becomes {s : State} {x : FaultReport} (hr : s.inReset = false) (hx : x ∈ s.dsq.faults)
    (hstop : ¬ s.dsq.deck.faultStops = true) (hesc : ¬ s.dsq.deck.escalatesOn x.kind = true) :
    Becomes (.faultReport x) s (s.dropReport x) := by
  rw [Becomes, exec_faultReport]
  simp [execFaultReport, taken, hr, hx, hstop, hesc]

/-- A report in LOADING, READY or UNLOADING begins a fault stop (R61, R62). -/
theorem faultReport_begins_fault_stop {s : State} {x : FaultReport} (hr : s.inReset = false) (hx : x ∈ s.dsq.faults)
    (h : s.dsq.deck.faultStops = true) : Settles (.faultReport x) s ((s.dropReport x).beginFaultStop x.kind) := by
  have hs := faultReport_settles hr hx (.inl h)
  rwa [takeFault_of_faultStops (s := s.dropReport x) x.kind h] at hs

/-- A report that escalates in FAULT_STOP or FAULTED SOFT makes the hard stop (R61, R67, R68). -/
theorem faultReport_escalates {s : State} {x : FaultReport} (hr : s.inReset = false) (hx : x ∈ s.dsq.faults)
    (h : s.dsq.deck.escalatesOn x.kind = true) : Settles (.faultReport x) s ((s.dropReport x).escalate x.kind) := by
  have hs := faultReport_settles hr hx (.inr h)
  rwa [takeFault_of_escalatesOn (s := s.dropReport x) h] at hs

/-- Settles O28, a row of R61's table at a time: the fault stop, the escalation, and the report ignored. -/
theorem faultReportTable : Obligations.FaultReportTable := by
  intro s x hr hx d k moving escalates
  have hmoving : d.faultStops = true ↔ moving := faultStops_iff d
  have hescalates : d.escalatesOn k = true ↔ escalates := escalatesOn_iff d k
  refine ⟨fun hm => ?_, fun he => ?_, fun hm he => ?_⟩
  · refine ⟨_, faultReport_begins_fault_stop hr hx (hmoving.mpr hm), ?_⟩
    rw [beginFaultStop_dsq, beginFaultStop_tsv]
    exact ⟨rfl, rfl, rfl, rfl, rfl, rfl, rfl⟩
  · exact ⟨_, faultReport_escalates hr hx (hescalates.mpr he), rfl, rfl, rfl, rfl, rfl, rfl, rfl, rfl, rfl, rfl, rfl, rfl, rfl⟩
  · exact faultReport_becomes hr hx (mt hmoving.mp hm) (mt hescalates.mp he)

end Sys2Proof.Machine

/-! PROOF. Every command answers a next state and keeps every closed predicate (Safety.lean) but for the three commands of the
supply monitor and the RESET line, which put the blocks at their power-on values. The ranges of the servo, the order of
the directory, the queue of commands and the reset level are closed predicates, so all four are kept by every step. -/

namespace Sys2Proof.Machine

/-! ## What a command answers -/

/-- The command answers a next state with `P` from every state with `P`. -/
def CommandKeeps (P : State → Prop) (c : Instr) : Prop := ∀ s, P s → ∃ t, exec c s = .next t ∧ P t

/-- While RESET is true nothing changes, so the body of a command alone has to keep the predicate. -/
theorem taken_keeps {P : State → Prop} {body : State → State} {s : State} (h : P s) (hb : P s → P (body s)) :
    ∃ t, taken s body = .next t ∧ P t := by
  refine ⟨_, rfl, ?_⟩
  split
  · exact h
  · exact hb h

/-- What is kept where a command acts is kept where its condition fails and nothing changes. -/
theorem kept_when {P : State → Prop} {c : Prop} [Decidable c] {s t : State} (h : P s) (ht : c → P t) :
    P (if c then t else s) := by
  split
  · exact ht ‹_›
  · exact h

/-! ## The servo and the deck sequencer -/

section
variable {P : State → Prop}

theorem Closed.periodExpiry (hc : Closed P) {ls lt : Nat} (hs : ls ≤ 1023) (ht : lt ≤ 1023) {s : State} (h : P s) :
    P (s.periodExpiry ls lt) :=
  hc.reportWhen _ _ (hc.reportWhen _ _ (hc.tsv _ _ (fun _ hv => hv.expire _ _ hs ht) (hc.dsq _ _ h)))

theorem Closed.capstanTach (hc : Closed P) (p : Pair) {s : State} (h : P s) : P (s.capstanTach p) :=
  hc.reportWhen _ _ (hc.tsv _ _ (fun _ hv => hv.capstanArrival _ p) h)

theorem Closed.clearReport (hc : Closed P) {s : State} (h : P s) : P s.clearReport :=
  hc.tsv _ _ (fun _ hv => { hv with }) h

theorem Closed.searchFailed (hc : Closed P) (p : SearchPass) {s : State} (h : P s) : P (s.searchFailed p) :=
  hc.tsv _ _ (fun _ hv => hv.orderStop _) (hc.setSearch _ h)

theorem signed_markerTravel_range (f : Bool) :
    Config.counterMin ≤ signed f Config.markerTravel ∧ signed f Config.markerTravel ≤ Config.counterMax := by
  cases f <;> decide

theorem Closed.lpAccepted (hc : Closed P) (f : Bool) {s : State} (h : P s) : P (s.lpAccepted f) := by
  unfold State.lpAccepted
  split
  · exact hc.tsv _ _ (fun _ hv => (hv.setCounter (signed_markerTravel_range f)).orderStop _) (hc.setSearch _ h)
  · exact h

theorem Closed.eotAccepted (hc : Closed P) (first : Int) {s : State} (h : P s) : P (s.eotAccepted first) := by
  have ht := hc.tsv (fun v => { v with eotPos := some first, eotPassed := true }) s (fun _ hv => { hv with }) h
  unfold State.eotAccepted
  dsimp only
  split
  · exact ht
  · exact hc.seal (hc.addEvents _ (hc.ope _ _ ht))

theorem Closed.deckStopDone (hc : Closed P) {s : State} (h : P s) : P s.deckStopDone := by
  unfold State.deckStopDone
  split
  · exact hc.readyFromLoad h
  · exact hc.unloadStart false h
  · exact hc.rezeroForward h
  · exact hc.readyFromRezero h
  · exact hc.addEvents _ (hc.enterWindOff (hc.unloadEffects h))
  · exact hc.addEvents _ (hc.enterWindOff (hc.unloadEffects h))
  · exact h

theorem Closed.autoClear (hc : Closed P) {s : State} (h : P s) : P s.autoClear :=
  kept_when h (fun _ => hc.acceptedClear (hc.dsq _ _ h))

/-! ## The engine -/

theorem Closed.noFailures (hc : Closed P) {s : State} (h : P s) : P s.noFailures := hc.ope _ _ h

theorem Closed.lowerErase (hc : Closed P) {s : State} (h : P s) : P s.lowerErase := hc.ope _ _ h

theorem Closed.reportSeen (hc : Closed P) (n : Nat) {s : State} (h : P s) : P (s.reportSeen n) :=
  hc.bdr _ _ (fun _ hd => hd.traverse _) h

theorem Closed.passSeen (hc : Closed P) (n : Nat) {s : State} (h : P s) : P (s.passSeen n) :=
  hc.ope _ _ (hc.reportSeen n h)

theorem Closed.endOrphan (hc : Closed P) (j : Job) {s : State} (h : P s) : P (s.endOrphan j) := by
  unfold State.endOrphan
  split
  · exact hc.endFailed _ _ _ _ (hc.ope _ _ h)
  · exact hc.endFailed _ _ _ _ (hc.passSeen _ h)

theorem Closed.engineStopDone (hc : Closed P) {s : State} (h : P s) : P s.engineStopDone := by
  unfold State.engineStopDone
  repeat' first
    | with_reducible exact h | with_reducible apply hc.endOrphan | with_reducible apply hc.lowerErase
    | with_reducible apply hc.moveTo | with_reducible apply hc.endFailed | with_reducible apply hc.beginOp
    | with_reducible apply hc.goIdle | with_reducible apply hc.ope | split

theorem Closed.writePassed (hc : Closed P) (j : Job) {s : State} (h : P s) : P (s.writePassed j) :=
  hc.endOp _ _ _ _ (hc.jobNext _ _ (hc.ope _ _ (hc.bbf _ _
    (hc.bdr _ _ (fun _ hd => hd.traverse _) (hc.noFailures h)))))

theorem Closed.writeFailed (hc : Closed P) (j : Job) {s : State} (h : P s) : P (s.writeFailed j) := by
  have hf := hc.failWrite j .writeCheckFailed j.n (hc.ope (fun e => { e with posValid := false }) s h)
  unfold State.writeFailed
  dsimp only
  split
  · exact hc.askAtEnd hf
  · exact hc.engineOrder (fun _ hv => hv.orderStop _) (hc.ope _ _ hf)

theorem Closed.verifyFailed (hc : Closed P) (j : Job) {s : State} (h : P s) : P (s.verifyFailed j) := by
  have hr := hc.raiseFailures h
  unfold State.verifyFailed
  dsimp only
  split
  · exact hc.mediaHold j hr
  · split
    · exact hc.stopAt j _ hr
    · exact hc.writeFailed j hr

theorem Closed.deliver (hc : Closed P) (j : Job) (data : List Byte) {s : State} (h : P s) : P (s.deliver j data) := by
  unfold State.deliver
  repeat' first
    | with_reducible exact h | with_reducible apply hc.askAtEnd | with_reducible apply hc.dropJob
    | with_reducible apply hc.freeOwn | with_reducible apply hc.leaveQueue | with_reducible apply hc.bbf | split

theorem Closed.readGood (hc : Closed P) (j : Job) {s : State} (h : P s) : P (s.readGood j) := by
  have ht := hc.jobNext j (j.n + 1) (hc.passSeen j.n (hc.noFailures h))
  unfold State.readGood
  dsimp only
  split
  · exact hc.endOp _ _ _ _ (hc.freeOwn j ht)
  · exact hc.deliver j _ ht

theorem Closed.readBad (hc : Closed P) (j : Job) {s : State} (h : P s) : P (s.readBad j) := by
  have hr := hc.raiseFailures h
  unfold State.readBad
  dsimp only
  split
  · exact hc.mediaHold j (hc.reportSeen _ hr)
  · split
    · exact hc.stopAt j _ hr
    · exact hc.endOp _ _ _ _ (hc.freeOwn j (hc.jobNext _ _ (hc.passSeen _ hr)))

theorem Closed.blankReport (hc : Closed P) (n : Nat) {s : State} (h : P s) : P (s.blankReport n) := by
  unfold State.blankReport
  split
  · exact h
  · exact hc.boundPorts (hc.bdr _ _ (fun _ hd => hd.lowerEod n) h)

theorem Closed.scanned (hc : Closed P) (j : Job) (k : Nat) (mark : Bool) {s : State} (h : P s) :
    P (s.scanned j k mark) := by
  unfold State.scanned State.scanOn
  dsimp only
  repeat' first
    | with_reducible exact h | with_reducible apply hc.endOp | with_reducible apply hc.jobNext
    | with_reducible apply hc.endFailed | with_reducible apply hc.positioned | with_reducible apply hc.ope | split

theorem Closed.scanEnd (hc : Closed P) (j : Job) {s : State} (h : P s) : P (s.scanEnd j) := by
  unfold State.scanEnd
  dsimp only
  refine hc.scanned _ _ _ (hc.passSeen _ ?_)
  split
  · exact hc.noFailures h
  · exact h

theorem Closed.signalRise (hc : Closed P) {s : State} (h : P s) : P s.signalRise := by
  unfold State.signalRise
  repeat' first
    | with_reducible exact h | with_reducible apply hc.ope | split

theorem Closed.storeRead (hc : Closed P) {s : State} (h : P s) : P s.storeRead := by
  unfold State.storeRead
  repeat' first
    | with_reducible exact h | with_reducible apply hc.bbf | split

theorem Closed.byteRequest (hc : Closed P) (j : Job) {s : State} (h : P s) : P (s.byteRequest j) := by
  unfold State.byteRequest
  split
  · exact hc.ope _ _ h
  · exact h

/-! ## The ports -/

theorem Closed.onRx (hc : Closed P) (p : PortId) (f : Rx → Rx) {s : State} (h : P s) : P (s.onRx p f) := hc.port _ _ _ h

theorem Closed.frameFault (hc : Closed P) (p : PortId) {s : State} (h : P s) : P (s.frameFault p) := by
  unfold State.frameFault
  exact hc.onRx p _ (hc.bbf _ _ h)

theorem Closed.headerByte (hc : Closed P) (p : PortId) (v : Byte) (ok : Bool) {s : State} (h : P s) :
    P (s.headerByte p v ok) := by
  have ht := hc.onRx p (fun x => { x with bytes := x.bytes ++ [v] }) h
  unfold State.headerByte
  dsimp only
  split
  · exact ht
  · exact hc.frameFault p ht

theorem Closed.storeByte (hc : Closed P) (p : PortId) (v : Byte) {s : State} (h : P s) : P (s.storeByte p v) := by
  unfold State.storeByte
  split
  · exact hc.bbf _ _ h
  · exact h

theorem Closed.byteIn (hc : Closed P) (p : PortId) (v : Byte) (parity : Bool) {s : State} (h : P s) :
    P (s.byteIn p v parity) := by
  unfold State.byteIn
  dsimp only
  repeat' first
    | with_reducible exact h | with_reducible apply hc.headerByte | with_reducible apply hc.settle
    | with_reducible apply hc.frameFault | with_reducible apply hc.storeByte | split

theorem Closed.frameFall (hc : Closed P) (p : PortId) {s : State} (h : P s) : P (s.frameFall p) := by
  unfold State.frameFall State.rxEnd
  dsimp only
  repeat' first
    | with_reducible exact h | with_reducible apply hc.settle | with_reducible apply hc.frameFault
    | with_reducible apply hc.onRx | split

theorem Closed.resetPort (hc : Closed P) (p : PortId) {s : State} (h : P s) : P (s.resetPort p) := by
  unfold State.resetPort State.giveBack State.orphanJobs State.dropQueued State.releaseWriterAt
  repeat' first
    | with_reducible exact h | with_reducible apply hc.port | with_reducible apply hc.arb | with_reducible apply hc.addEvent
    | with_reducible apply hc.rollbackOrphan | with_reducible apply hc.ope | with_reducible apply hc.bbf | split

theorem Closed.takePortReset (hc : Closed P) (p : PortId) {s : State} (h : P s) : P (s.takePortReset p) :=
  hc.place _ _ (hc.onRx _ _ (hc.resetPort p h))

theorem Closed.readHeader (hc : Closed P) (p : PortId) {s : State} (h : P s) : P (s.readHeader p) := by
  unfold State.readHeader
  dsimp only
  repeat' first
    | with_reducible exact h | with_reducible apply hc.settle | with_reducible apply hc.frameFault
    | with_reducible apply hc.onRx | with_reducible apply hc.takePortReset | split

/-! ## The takes -/

theorem Closed.takeQueued (hc : Closed P) (p : PortId) (c : Cmd) {s : State} (h : P s) : P (State.takeQueued p c s) :=
  kept_when h (fun _ => hc.settle s (hc.queueFrame p c h))

theorem Closed.takeWrite (hc : Closed P) (p : PortId) (c : Cmd) {s : State} (h : P s) : P (s.takeWrite p c) :=
  hc.settle s (hc.writeFrame p c h)

theorem Closed.takeImmediate (hc : Closed P) (p : PortId) (c : Cmd) {body : Hdr → State → State}
    {readies : State → State → Bool} {s : State} (h : P s) (ht : P (s.immediateFrame p body)) :
    P (s.takeImmediate p c body readies) := by
  unfold State.takeImmediate
  dsimp only
  refine kept_when h (fun _ => ?_)
  split
  · exact hc.settle s ht
  · exact hc.seal ht

end

/-! ## Every command -/

/-- The commands of the supply monitor and of the RESET line (R189). -/
def resetsPart : Instr → Bool
  | .powerUp | .resetRise | .resetFall _ => true
  | _ => false

section
variable {P : State → Prop}

/-- Every command that is not the supply monitor's or the RESET line's keeps every closed predicate. -/
theorem Closed.keeps (hc : Closed P) (c : Instr) (hr : resetsPart c = false) : CommandKeeps P c := by
  intro s h
  cases c
  case powerUp | resetRise | resetFall => cases hr
  all_goals apply taken_keeps h
  -- the period and the tachs
  case regulationPeriodExpiry ls lt =>
    exact hc.periodExpiry (loopSample_range ls) (loopSample_range lt)
  case capstanTachArrival p => exact hc.capstanTach p
  case reelTachArrival r p => exact hc.tsv _ s (fun _ hv => hv.reelArrival _ r p)
  case revolutionComplete r =>
    exact fun h => kept_when h (fun _ => hc.tsv _ s (fun _ hv => hv.onReel r (fun _ hr => hr.revolve r _)) h)
  case stallLimit =>
    exact fun h => kept_when h (fun _ => hc.reportFault _ (hc.tsv _ s (fun _ hv => { hv with }) h))
  case tachGlitchLimit =>
    exact fun h => kept_when h (fun _ => hc.reportFault _ (hc.tsv _ s (fun _ hv => { hv with }) h))
  case reelSaturationLimit r =>
    exact fun h => kept_when h (fun _ => hc.reportFault _
      (hc.tsv _ s (fun _ hv => hv.onReel r (fun _ hr => { hr with })) h))
  -- the markers
  case markerLineArrival m level => exact hc.tsv _ s (fun _ hv => hv.markerArrival m level)
  case loadPointMarkerAccepted =>
    intro h
    split
    · exact hc.lpAccepted _ (hc.tsv _ s (fun _ hv => { hv with }) h)
    · exact h
  case eotMarkerAccepted =>
    intro h
    dsimp only
    split
    · have ht := hc.tsv (fun v => { v with eotDue := none }) s (fun _ hv => { hv with }) h
      exact kept_when ht (fun _ => hc.eotAccepted _ ht)
    · exact h
  -- the completions
  case moveCompletion =>
    intro h
    split
    · split
      · exact hc.enterWindOff (hc.clearReport h)
      · exact hc.clearReport h
    · exact hc.settle s (hc.moveDone _ (hc.clearReport h))
    · exact h
  case stopCompletion =>
    intro h
    split
    · exact hc.settle s (hc.deckStopDone (hc.clearReport h))
    · exact hc.settle s (hc.engineStopDone (hc.clearReport h))
    · exact h
  case faultRampZero =>
    intro h
    split
    · split
      · exact hc.settle s (hc.autoClear (hc.enterDeck _ (hc.clearReport h)))
      · exact hc.clearReport h
    · exact h
  -- the deck sequencer
  case loopFormComplete => exact fun h => kept_when h (fun _ => hc.enterLoadPointSearch h)
  case windOffComplete | windOffTimeout =>
    exact fun h => kept_when h (fun _ => hc.settle s (hc.windOffEnd h))
  case vacuumUpTimeout | loopFormTimeout =>
    exact fun h => kept_when h (fun _ => hc.settle s (hc.loadFail h))
  case loadPointSearchLimit => exact fun h => kept_when h (fun _ => hc.searchFailed _ h)
  case rezeroTravelLimit =>
    intro h
    split
    · exact hc.searchFailed _ h
    · exact kept_when h (fun _ => hc.searchFailed _ h)
  case lampFlashExpiry => exact fun h => kept_when h (fun _ => hc.dsq _ s h)
  case vacuumArrival r level =>
    intro h
    have ht := hc.dsq (Dsq.setVac r level) s h
    dsimp only
    split
    · exact h
    · split
      · exact kept_when ht (fun _ => hc.enterLoopForm ht)
      · exact hc.reportWhen _ _ ht
  case driveArrival l level =>
    intro h
    split
    · exact h
    · exact hc.reportWhen _ _ (hc.dsq _ _ h)
  case ringArrival level => exact hc.dsq _ s
  case onlineSwitchArrival level =>
    intro h
    split
    · exact h
    · exact hc.settle s (hc.addEvents _ (hc.dsq _ _ h))
  case loadButton =>
    refine fun h => kept_when h (fun _ => ?_)
    split
    · exact hc.loadStart h
    · exact hc.loadFail h
  case unloadButton => exact fun h => kept_when h (fun _ => hc.settle s (hc.unloadStart true h))
  case rewindButton => exact fun h => kept_when h (fun _ => hc.moveTo _ _ _ _ h)
  case resetButton =>
    intro h
    split
    · exact kept_when h (fun _ => hc.settle s (hc.acceptedClear h))
    · exact kept_when h (fun _ => hc.settle s (hc.hardClear h))
  case faultReport x =>
    refine fun h => kept_when h (fun _ => ?_)
    have ht : P (s.dropReport x) := hc.dsq _ _ h
    exact kept_when ht (fun _ => hc.settle s (hc.takeFault x.kind ht))
  -- writes and reads
  case writeGateOpen =>
    intro h
    split
    · exact kept_when h (fun _ => hc.ope _ s h)
    · exact h
  case writeGateClose =>
    intro h
    split
    · exact kept_when h (fun _ => hc.ope _ s h)
    · exact h
  case writeByteRequest =>
    intro h
    split
    · exact kept_when h (fun _ => hc.byteRequest _ h)
    · exact h
  case verifyEndPoint =>
    intro h
    split
    · refine kept_when h (fun _ => hc.settle s ?_)
      split
      · exact hc.writePassed _ h
      · exact hc.verifyFailed _ h
    · exact h
  case rdSigRise =>
    intro h
    have ht := hc.ope (fun e => { e with rdSig := true }) s h
    dsimp only
    split
    · exact h
    · exact kept_when ht (fun _ => hc.signalRise ht)
  case readByteStrobe v => exact fun h => kept_when h (fun _ => hc.storeRead (hc.ope _ s h))
  case rdSigFall =>
    refine fun h => kept_when h (fun _ => ?_)
    have ht := hc.ope (fun e => { e with rdSig := false }) s h
    exact kept_when ht (fun _ => hc.ope _ _ ht)
  case rdMarkArrival level =>
    intro h
    have ht := hc.ope (fun e => { e with rdMark := level }) s h
    exact kept_when ht (fun _ => hc.ope _ _ ht)
  case readBlockLengthLimit => exact fun h => kept_when h (fun _ => hc.ope _ s h)
  case readEndPoint =>
    intro h
    split
    · refine kept_when h (fun _ => hc.settle s ?_)
      split
      · exact hc.readGood _ h
      · exact hc.readBad _ h
    · exact h
  case readBlankTape | scanBlankTape =>
    intro h
    split
    · exact kept_when h (fun _ => hc.settle s (hc.blankReport _ (hc.stopAt _ _ h)))
    · exact h
  case scanEndPoint =>
    intro h
    split
    · exact kept_when h (fun _ => hc.settle s (hc.scanEnd _ h))
    · exact h
  -- frames and records
  case ciFrmRises p =>
    intro h
    have ht := hc.port p (fun q => { q with ciFrm := true }) s h
    dsimp only
    split
    · exact h
    · exact kept_when ht (fun _ => hc.onRx _ _ ht)
  case inboundByte p v parity => exact fun h => kept_when h (fun _ => hc.byteIn p v parity h)
  case frameEnd p => exact fun h => kept_when h (fun _ => hc.frameFall p (hc.port _ _ _ h))
  case frameHeaderComplete p => exact fun h => kept_when h (fun _ => hc.readHeader p h)
  case writeDataAdmitted p => exact fun h => kept_when h (fun _ => hc.admitData p h)
  case frameError p | badCommand p =>
    exact fun h => kept_when h (fun _ => hc.seal (hc.answerFrame p _ h))
  case linkLoss p =>
    refine fun h => kept_when h (fun _ => ?_)
    have ht := hc.port p (fun q => { q with linkAct := false }) s h
    exact kept_when ht (fun _ => hc.settle s (hc.resetPort p ht))
  case linkRestored p =>
    intro h
    split
    · exact h
    · exact hc.seal (hc.port _ _ _ h)
  case recordSent p =>
    intro h
    split
    · exact h
    · exact kept_when h (fun _ => hc.settle s (hc.takeWaiting p (hc.recordLeaves p _ h)))
  case statusByteSent p soRdy =>
    intro h
    have ht := hc.port p (fun q => { q with soRdy := soRdy }) s h
    dsimp only
    split
    · exact kept_when ht (fun _ => hc.port _ _ _ ht)
    · exact ht
  -- the takes
  case load p | readBlock p | space p | locate p | rewind p | unload p | pushMark p | returnToMark p =>
    exact hc.takeQueued p _
  case writeBlock p =>
    refine fun h => kept_when h (fun _ => ?_)
    split
    · exact hc.seal (hc.answerFrame p _ h)
    · exact hc.takeWrite p _ h
  case writeMark p => exact fun h => kept_when h (fun _ => hc.takeWrite p _ h)
  case sense p => exact fun h => kept_when h (fun _ => hc.seal (hc.takeFrame p .sense h))
  case queryDirectory p => exact fun h => hc.takeImmediate p _ h (hc.takeFrame p .queryDirectory h)
  case assignWriter p => exact fun h => hc.takeImmediate p _ h (hc.takeFrame p .assignWriter h)
  case releaseWriter p => exact fun h => hc.takeImmediate p _ h (hc.takeFrame p .releaseWriter h)
  case setPortOptions p => exact fun h => hc.takeImmediate p _ h (hc.takeFrame p .setPortOptions h)
  case setDeckParameters p => exact fun h => hc.takeImmediate p _ h (hc.takeFrame p .setDeckParameters h)
  case acknowledgeEvents p => exact fun h => hc.takeImmediate p _ h (hc.takeFrame p .acknowledgeEvents h)
  case clearFault p => exact fun h => hc.takeImmediate p _ h (hc.takeFrame p .clearFault h)
  case abort p => exact fun h => hc.takeImmediate p _ h (hc.takeFrame p .abort h)
  case portReset p => exact fun h => kept_when h (fun _ => hc.settle s (hc.takePortReset p h))

end

/-! ## The queue of commands, the reset level and the servo -/

/-- The queue of commands and the reset level are no block's, so no operation of a block changes them. -/
theorem closed_outside (l : List Instr) (r : Bool) : Closed (fun s => s.pending = l ∧ s.inReset = r) where
  port _ _ _ h := by simpa using h
  dsq _ _ h := h
  ope _ _ h := h
  bbf _ _ h := h
  arb _ _ h := h
  drawn _ _ h := h
  tsv _ _ _ h := h
  bdr _ _ _ h := h

theorem closed_servoOk : Closed (fun s => ServoOk s.tsv) where
  port _ _ _ h := by simpa using h
  dsq _ _ h := h
  ope _ _ h := h
  bbf _ _ h := h
  arb _ _ h := h
  drawn _ _ h := h
  tsv _ _ hf h := hf _ h
  bdr _ _ _ h := h

theorem closed_directory : Closed (fun s => s.bdr.wf) where
  port _ _ _ h := by simpa using h
  dsq _ _ h := h
  ope _ _ h := h
  bbf _ _ h := h
  arb _ _ h := h
  drawn _ _ h := h
  tsv _ _ _ h := h
  bdr _ _ hf h := hf _ h

/-- Settles O2: the commands that reset the part by their equations, the others by `closed_outside`. -/
theorem everyCommandAnswersANextState : Obligations.EveryCommandAnswersANextState := by
  intro c s
  cases hr : resetsPart c
  · obtain ⟨t, ht, hp, hi⟩ := (closed_outside s.pending s.inReset).keeps c hr s ⟨rfl, rfl⟩
    refine ⟨t, ht, hp, ?_⟩
    cases c <;> first | exact hi | cases hr
  · cases c
    case powerUp | resetRise => exact ⟨_, rfl, rfl, rfl⟩
    case resetFall lv =>
      refine ⟨_, rfl, ?_⟩
      cases h : s.inReset <;> simp [State.fallOfReset, State.powerOn, h]
    all_goals cases hr

/-- What the power-on values of the blocks have and every other command keeps is kept by every step. -/
theorem kept_by_step {P : State → Prop} (hq : ∀ l s, P s → P { s with pending := l })
    (hreset : ∀ c, resetsPart c = true → CommandKeeps P c) (hrest : ∀ c, resetsPart c = false → CommandKeeps P c)
    {s t : State} (h : P s) (hs : step s = .next t) : P t := by
  have hc : ∀ c, CommandKeeps P c := fun c => by
    cases hr : resetsPart c
    · exact hrest c hr
    · exact hreset c hr
  unfold step at hs
  split at hs
  · cases hs
    exact h
  · obtain ⟨u, hu, hP⟩ := hc _ _ (hq _ _ h)
    rw [hu] at hs
    cases hs
    exact hP

/-- The commands that reset the part leave its power-on values, with the lines as they stand (R189). -/
theorem keeps_of_powerOn {P : State → Prop}
    (hon : ∀ lv v r n l, v = (State.powerOn lv).tsv ∨ v = { (State.powerOn lv).tsv with strobes := 1 } →
      P { State.powerOn lv with tsv := v, inReset := r, draws := n, pending := l })
    {c : Instr} (hr : resetsPart c = true) : CommandKeeps P c := by
  intro s h
  cases c
  case powerUp | resetRise => exact ⟨_, rfl, hon Levels.low _ _ _ _ (.inl rfl)⟩
  case resetFall lv =>
    refine ⟨_, rfl, ?_⟩
    split
    · exact hon lv _ _ _ _ (.inr rfl)
    · exact h
  all_goals cases hr

/-- Settles O5: the servo's ranges are a closed predicate, and the power-on values are within them. -/
theorem everyStepKeepsTheServoInRange : Obligations.EveryStepKeepsTheServoInRange := by
  intro s t h hs
  refine kept_by_step (P := fun s => ServoOk s.tsv) (fun _ _ h => h) (fun _ => keeps_of_powerOn ?_) closed_servoOk.keeps h hs
  rintro lv v _ _ _ (rfl | rfl)
  · exact ServoOk.powerOn lv
  · exact { ServoOk.powerOn lv with }

end Sys2Proof.Machine

/-! PROOF. Every command keeps what the ports, the buffer and the arbiter share (`SharedOk`). -/

namespace Sys2Proof.Machine

/-! ## The servo and the deck sequencer -/

theorem SharedOk.periodExpiry (ls lt : Nat) {s : State} (h : SharedOk s) : SharedOk (s.periodExpiry ls lt) :=
  .reportWhen _ _ (.reportWhen _ _ ((h.onDsq _).onTsv _))

theorem SharedOk.capstanTach (p : Pair) {s : State} (h : SharedOk s) : SharedOk (s.capstanTach p) :=
  .reportWhen _ _ (h.onTsv _)

theorem SharedOk.lpAccepted (f : Bool) {s : State} (h : SharedOk s) : SharedOk (s.lpAccepted f) := by
  unfold State.lpAccepted
  split
  · exact (h.setSearch _).onTsv _
  · exact h

theorem SharedOk.eotAccepted (first : Int) {s : State} (h : SharedOk s) : SharedOk (s.eotAccepted first) := by
  have ht := h.onTsv (fun v => { v with eotPos := some first, eotPassed := true })
  unfold State.eotAccepted
  dsimp only
  split
  · exact ht
  · exact ((ht.onOpe _).addEvents _).seal

theorem SharedOk.deckStopDone {s : State} (h : SharedOk s) : SharedOk s.deckStopDone := by
  unfold State.deckStopDone
  split
  · exact h.readyFromLoad
  · exact h.unloadStart false
  · exact h.rezeroForward
  · exact h.readyFromRezero
  · exact h.unloadEffects.enterWindOff.addEvents _
  · exact h.unloadEffects.enterWindOff.addEvents _
  · exact h

theorem SharedOk.autoClear {s : State} (h : SharedOk s) : SharedOk s.autoClear :=
  kept_when h (fun _ => (h.onDsq _).acceptedClear)

/-! ## The engine -/

theorem SharedOk.endOrphan (j : Job) {s : State} (h : SharedOk s) : SharedOk (s.endOrphan j) := by
  unfold State.endOrphan
  split
  · exact (h.onOpe _).endFailed _ _ _ _
  · exact (h.passSeen _).endFailed _ _ _ _

theorem SharedOk.lowerErase {s : State} (h : SharedOk s) : SharedOk s.lowerErase := h.onOpe _

theorem SharedOk.engineStopDone {s : State} (h : SharedOk s) : SharedOk s.engineStopDone := by
  unfold State.engineStopDone
  repeat' first
    | with_reducible exact h | with_reducible apply SharedOk.endOrphan | with_reducible apply SharedOk.lowerErase
    | with_reducible apply SharedOk.moveTo | with_reducible apply SharedOk.endFailed | with_reducible apply SharedOk.beginOp
    | with_reducible apply SharedOk.goIdle | with_reducible apply SharedOk.onOpe | split

theorem SharedOk.writePassed (j : Job) {s : State} (h : SharedOk s) : SharedOk (s.writePassed j) := by
  have hcache : Bbf.Keeps (Bbf.cacheOpt j.op.slot) := by
    cases j.op.slot
    · exact Bbf.keeps_id
    · exact Bbf.keeps_enterCached _
  exact (((((h.onOpe _).traverse _).onBbf hcache).onOpe _).jobNext _ _).endOp _ _ _ _

theorem SharedOk.writeFailed (j : Job) {s : State} (h : SharedOk s) : SharedOk (s.writeFailed j) := by
  have hf := (h.onOpe (fun e => { e with posValid := false })).failWrite j .writeCheckFailed j.n
  unfold State.writeFailed
  dsimp only
  split
  · exact hf.askAtEnd
  · exact (hf.onOpe _).engineOrder _

theorem SharedOk.verifyFailed (j : Job) {s : State} (h : SharedOk s) : SharedOk (s.verifyFailed j) := by
  have hr := h.raiseFailures
  unfold State.verifyFailed
  dsimp only
  split
  · exact hr.mediaHold j
  · split
    · exact hr.stopAt j _
    · exact hr.writeFailed j

theorem SharedOk.readGood (j : Job) {s : State} (h : SharedOk s) : SharedOk (s.readGood j) := by
  have ht : SharedOk ((s.noFailures.passSeen j.n).jobNext j (j.n + 1)) := .jobNext _ _ (.passSeen _ (h.onOpe _))
  unfold State.readGood
  dsimp only
  split
  · exact (ht.freeOwn j).endOp _ _ _ _
  · exact ht.deliver j _

theorem SharedOk.readBad (j : Job) {s : State} (h : SharedOk s) : SharedOk (s.readBad j) := by
  have hr := h.raiseFailures
  unfold State.readBad
  dsimp only
  split
  · exact (hr.reportSeen _).mediaHold j
  · split
    · exact hr.stopAt j _
    · exact (((hr.passSeen _).jobNext _ _).freeOwn j).endOp _ _ _ _

theorem SharedOk.blankReport (n : Nat) {s : State} (h : SharedOk s) : SharedOk (s.blankReport n) := by
  unfold State.blankReport
  split
  · exact h
  · exact h.rebound _

theorem SharedOk.scanned (j : Job) (k : Nat) (mark : Bool) {s : State} (h : SharedOk s) : SharedOk (s.scanned j k mark) := by
  unfold State.scanned State.scanOn
  dsimp only
  repeat' first
    | with_reducible exact h | with_reducible apply SharedOk.endOp | with_reducible apply SharedOk.jobNext
    | with_reducible apply SharedOk.endFailed | with_reducible apply SharedOk.positioned
    | with_reducible apply SharedOk.onOpe | split

theorem SharedOk.scanEnd (j : Job) {s : State} (h : SharedOk s) : SharedOk (s.scanEnd j) := by
  unfold State.scanEnd
  dsimp only
  refine .scanned _ _ _ (.passSeen _ ?_)
  split
  · exact h.onOpe _
  · exact h

theorem SharedOk.signalRise {s : State} (h : SharedOk s) : SharedOk s.signalRise := by
  unfold State.signalRise
  dsimp only
  repeat' first
    | with_reducible exact h | with_reducible apply SharedOk.onOpe | split

/-- A change of a slot's data keeps who holds it. -/
theorem Slot.keeps_data (f : List Byte → List Byte) : Slot.Keeps (fun x => { x with data := f x.data }) :=
  Slot.keeps_of_state (fun _ => rfl) (fun _ => rfl)

theorem SharedOk.storeRead {s : State} (h : SharedOk s) : SharedOk s.storeRead := by
  unfold State.storeRead
  split
  · split
    · exact h.onBbf (Bbf.keeps_modify (Slot.keeps_data (fun _ => s.ope.seen.bytes)) _)
    · exact h
  · exact h

theorem SharedOk.byteRequest (j : Job) {s : State} (h : SharedOk s) : SharedOk (s.byteRequest j) := by
  unfold State.byteRequest
  split
  · exact h.onOpe _
  · exact h

/-! ## The ports -/

/-- A change of a port's link lines alone. -/
theorem SharedOk.onLines (p : PortId) {f : Port → Port} {s : State} (h : SharedOk s)
    (hf : ∀ q, (f q).queue = q.queue ∧ (f q).marks = q.marks ∧ (f q).next = q.next ∧ (f q).status = q.status) :
    SharedOk (s.onPort p f) := by
  refine h.onPort p (fun q => ?_)
  obtain ⟨hq, hm, hn, hs⟩ := hf q
  exact Port.sub_refl (by rw [hq]) hm hn (by rw [hs])

theorem SharedOk.headerByte (p : PortId) (v : Byte) (ok : Bool) {s : State} (h : SharedOk s) :
    SharedOk (s.headerByte p v ok) := by
  have ht := h.onRx p (fun x => { x with bytes := x.bytes ++ [v] })
  unfold State.headerByte
  dsimp only
  split
  · exact ht
  · exact ht.frameFault p

theorem SharedOk.byteIn (p : PortId) (v : Byte) (parity : Bool) {s : State} (h : SharedOk s) :
    SharedOk (s.byteIn p v parity) := by
  unfold State.byteIn
  dsimp only
  repeat' first
    | with_reducible exact h | with_reducible apply SharedOk.headerByte | with_reducible apply SharedOk.settle
    | with_reducible apply SharedOk.frameFault | with_reducible apply SharedOk.storeByte | split

theorem SharedOk.frameFall (p : PortId) {s : State} (h : SharedOk s) : SharedOk (s.frameFall p) := by
  unfold State.frameFall State.rxEnd
  dsimp only
  repeat' first
    | with_reducible exact h | with_reducible apply SharedOk.settle | with_reducible apply SharedOk.frameFault
    | with_reducible apply SharedOk.onRx | split

theorem SharedOk.readHeader (p : PortId) {s : State} (h : SharedOk s) : SharedOk (s.readHeader p) := by
  unfold State.readHeader
  dsimp only
  repeat' first
    | with_reducible exact h | with_reducible apply SharedOk.settle | with_reducible apply SharedOk.frameFault
    | with_reducible apply SharedOk.onRx | with_reducible apply SharedOk.takePortReset | split

/-! ## Every command -/

theorem sharedOk_keeps (c : Instr) (hr : resetsPart c = false) : CommandKeeps SharedOk c := by
  intro s h
  cases c
  case powerUp | resetRise | resetFall => cases hr
  all_goals apply taken_keeps h
  -- the servo
  case regulationPeriodExpiry ls lt => exact SharedOk.periodExpiry _ _
  case capstanTachArrival p => exact SharedOk.capstanTach p
  case reelTachArrival | markerLineArrival => exact fun h => h.onTsv _
  case revolutionComplete => exact fun h => kept_when h (fun _ => h.onTsv _)
  case stallLimit | tachGlitchLimit | reelSaturationLimit =>
    exact fun h => kept_when h (fun _ => (h.onTsv _).reportFault _)
  case loadPointMarkerAccepted =>
    intro h
    split
    · exact (h.onTsv _).lpAccepted _
    · exact h
  case eotMarkerAccepted =>
    intro h
    dsimp only
    split
    · exact kept_when (h.onTsv _) (fun _ => (h.onTsv _).eotAccepted _)
    · exact h
  case moveCompletion =>
    intro h
    split
    · split
      · exact SharedOk.enterWindOff (h.onTsv _)
      · exact h.onTsv _
    · exact (SharedOk.moveDone _ (h.onTsv _)).settle s
    · exact h
  case stopCompletion =>
    intro h
    split
    · exact (SharedOk.deckStopDone (h.onTsv _)).settle s
    · exact (SharedOk.engineStopDone (h.onTsv _)).settle s
    · exact h
  case faultRampZero =>
    intro h
    split
    · split
      · exact (SharedOk.autoClear (.enterDeck _ (h.onTsv _))).settle s
      · exact h.onTsv _
    · exact h
  -- the deck sequencer
  case loopFormComplete => exact fun h => kept_when h (fun _ => h.enterLoadPointSearch)
  case windOffComplete | windOffTimeout => exact fun h => kept_when h (fun _ => h.windOffEnd.settle s)
  case vacuumUpTimeout | loopFormTimeout => exact fun h => kept_when h (fun _ => h.loadFail.settle s)
  case loadPointSearchLimit => exact fun h => kept_when h (fun _ => (h.setSearch _).onTsv _)
  case rezeroTravelLimit =>
    intro h
    split
    · exact (h.setSearch _).onTsv _
    · exact kept_when h (fun _ => (h.setSearch _).onTsv _)
  case lampFlashExpiry => exact fun h => kept_when h (fun _ => h.onDsq _)
  case vacuumArrival r level =>
    intro h
    have ht := h.onDsq (Dsq.setVac r level)
    dsimp only
    split
    · exact h
    · split
      · exact kept_when ht (fun _ => ht.enterLoopForm)
      · exact ht.reportWhen _ _
  case driveArrival l level =>
    intro h
    split
    · exact h
    · exact (h.onDsq _).reportWhen _ _
  case ringArrival level => exact fun h => h.onDsq _
  case onlineSwitchArrival level =>
    intro h
    split
    · exact h
    · exact ((h.onDsq _).addEvents _).settle s
  case loadButton =>
    refine fun h => kept_when h (fun _ => ?_)
    split
    · exact h.loadStart
    · exact h.loadFail
  case unloadButton => exact fun h => kept_when h (fun _ => (h.unloadStart true).settle s)
  case rewindButton => exact fun h => kept_when h (fun _ => h.moveTo _ _ _ _)
  case resetButton =>
    intro h
    split
    · exact kept_when h (fun _ => h.acceptedClear.settle s)
    · exact kept_when h (fun _ => h.hardClear.settle s)
  case faultReport x =>
    refine fun h => kept_when h (fun _ => ?_)
    have ht : SharedOk (s.dropReport x) := h.onDsq _
    exact kept_when ht (fun _ => (ht.takeFault x.kind).settle s)
  -- writes and reads
  case writeGateOpen | writeGateClose =>
    intro h
    split
    · exact kept_when h (fun _ => h.onOpe _)
    · exact h
  case writeByteRequest =>
    intro h
    split
    · exact kept_when h (fun _ => h.byteRequest _)
    · exact h
  case verifyEndPoint =>
    intro h
    split
    · refine kept_when h (fun _ => SharedOk.settle s ?_)
      split
      · exact h.writePassed _
      · exact h.verifyFailed _
    · exact h
  case rdSigRise =>
    intro h
    have ht := h.onOpe (fun e => { e with rdSig := true })
    split
    · exact h
    · exact kept_when ht (fun _ => ht.signalRise)
  case readByteStrobe v => exact fun h => kept_when h (fun _ => (h.onOpe _).storeRead)
  case rdSigFall =>
    refine fun h => kept_when h (fun _ => ?_)
    have ht := h.onOpe (fun e => { e with rdSig := false })
    exact kept_when ht (fun _ => ht.onOpe _)
  case rdMarkArrival level =>
    intro h
    have ht := h.onOpe (fun e => { e with rdMark := level })
    exact kept_when ht (fun _ => ht.onOpe _)
  case readBlockLengthLimit => exact fun h => kept_when h (fun _ => h.onOpe _)
  case readEndPoint =>
    intro h
    split
    · refine kept_when h (fun _ => SharedOk.settle s ?_)
      split
      · exact h.readGood _
      · exact h.readBad _
    · exact h
  case readBlankTape | scanBlankTape =>
    intro h
    split
    · exact kept_when h (fun _ => ((h.stopAt _ _).blankReport _).settle s)
    · exact h
  case scanEndPoint =>
    intro h
    split
    · exact kept_when h (fun _ => (h.scanEnd _).settle s)
    · exact h
  -- frames and records
  case ciFrmRises p =>
    intro h
    have ht : SharedOk (s.onPort p (fun q => { q with ciFrm := true })) := h.onLines p (fun _ => ⟨rfl, rfl, rfl, rfl⟩)
    split
    · exact h
    · exact kept_when ht (fun _ => ht.onRx _ _)
  case inboundByte p v parity => exact fun h => kept_when h (fun _ => h.byteIn p v parity)
  case frameEnd p =>
    exact fun h => kept_when h (fun _ => SharedOk.frameFall p (h.onLines p (fun _ => ⟨rfl, rfl, rfl, rfl⟩)))
  case frameHeaderComplete p => exact fun h => kept_when h (fun _ => h.readHeader p)
  case writeDataAdmitted p => exact fun h => kept_when h (fun hm => h.admitData p hm)
  case frameError p | badCommand p => exact fun h => kept_when h (fun _ => (h.answerFrame p _).seal)
  case linkLoss p =>
    refine fun h => kept_when h (fun _ => ?_)
    have ht : SharedOk (s.onPort p (fun q => { q with linkAct := false })) := h.onLines p (fun _ => ⟨rfl, rfl, rfl, rfl⟩)
    exact kept_when ht (fun _ => (ht.resetPort p).settle s)
  case linkRestored p =>
    intro h
    split
    · exact h
    · exact SharedOk.seal (h.onLines p (fun _ => ⟨rfl, rfl, rfl, rfl⟩))
  case recordSent p =>
    intro h
    split
    · exact h
    · exact kept_when h (fun _ => ((h.recordLeaves p _).takeWaiting p).settle s)
  case statusByteSent p soRdy =>
    intro h
    have ht : SharedOk (s.onPort p (fun q => { q with soRdy := soRdy })) := h.onLines p (fun _ => ⟨rfl, rfl, rfl, rfl⟩)
    dsimp only
    split
    · refine kept_when ht (fun _ => ht.onLines p (fun _ => ?_))
      split <;> exact ⟨rfl, rfl, rfl, rfl⟩
    · exact ht
  -- the takes
  case load p | readBlock p | space p | locate p | rewind p | unload p | pushMark p | returnToMark p =>
    exact fun h => h.takeQueued p rfl rfl
  case writeBlock p =>
    refine fun h => kept_when h (fun ht => ?_)
    split
    · exact (h.answerFrame p _).seal
    · exact h.takeWrite p _ (queueRoom_of_takes rfl ht (fun _ => ‹_›))
  case writeMark p => exact fun h => kept_when h (fun ht => h.takeWrite p _ (queueRoom_of_takes rfl ht nofun))
  case sense p => exact fun h => kept_when h (fun _ => (h.senseFrame p).seal)
  case queryDirectory p => exact fun h => h.takeImmediate p _ _ (fun hd _ ht => ht.answer p hd _ _ _)
  case assignWriter p => exact fun h => h.takeImmediate p _ _ (fun hd _ ht => ht.assignWriter p hd)
  case releaseWriter p => exact fun h => h.takeImmediate p _ _ (fun hd _ ht => ht.releaseWriter p hd)
  case setPortOptions p => exact fun h => h.takeImmediate p _ _ (fun hd _ ht => ht.setPortOptions p hd)
  case setDeckParameters p => exact fun h => h.takeImmediate p _ _ (fun hd _ ht => ht.setDeckParameters p hd)
  case acknowledgeEvents p => exact fun h => h.takeImmediate p _ _ (fun hd _ ht => ht.acknowledgeEvents p hd)
  case clearFault p => exact fun h => h.takeImmediate p _ _ (fun hd _ ht => ht.clearFault p hd)
  case abort p => exact fun h => h.takeImmediate p _ _ (fun hd _ ht => ht.abort p hd)
  case portReset p => exact fun h => kept_when h (fun _ => (h.takePortReset p).settle s)

end Sys2Proof.Machine

/-! PROOF. Every command keeps the engine with the deck and the queues (`EngineOk`), and with it the order of the directory
and what the ports share, from reset on. -/

namespace Sys2Proof.Machine

/-! ## The deck sequencer -/

/-- No marker search runs outside the two states of one (R7, R12). -/
theorem EngineOk.noSearch {s : State} (h : EngineOk s) (hl : s.dsq.deck ≠ .loadPointSearch) (hr : s.dsq.deck ≠ .rezero) :
    s.dsq.search = none := by
  by_contra hx
  obtain ⟨x, hx⟩ := Option.ne_none_iff_exists'.1 hx
  have hd := h.search x hx
  split at hd
  · exact hl hd
  · exact hr hd

/-- In IDLE nothing executes and nothing waits. -/
theorem EngineOk.heldIdle {s : State} (h : EngineOk s) (hi : s.ope.phase = .idle) : s.view.Held ∧ s.ope.job = none := by
  have hj := h.idle hi
  have hw : s.ope.waiting = none := by
    by_contra hw
    obtain ⟨-, hstop, -⟩ := h.waiting (Option.isSome_iff_ne_none.2 hw)
    rw [hi] at hstop
    cases hstop
  refine ⟨{ asking := h.asking, waiting := hw, idle := h.idle, job := ?_, owed := h.owed, records := h.records }, hj⟩
  intro j hv
  rw [show s.view.job = none from hj] at hv
  cases hv

/-- The deck goes where what the engine holds may be held, the engine and the queues standing. -/
theorem EngineOk.goes {s t : State} (h : EngineOk s) (hd : s.dsq.deck ≠ .ready) {d : Deck} {x : Option Search}
    (hv : t.view = s.view.at d x)
    (hj : s.view.job = none ∨ d ∈ [Deck.vacuumUp, .loopForm, .loadPointSearch, .rewindOut, .windOff])
    (hx : ∀ y, x = some y → d = (if y.pass = .load then .loadPointSearch else .rezero)) : EngineOk t := by
  refine .of_view ?_ ((congrArg View.asking hv).trans h.asking)
  rw [hv]
  exact (h.held hd).to hj hx

/-- A marker search goes on to another status of the same pass. -/
theorem EngineOk.restatus {s t : State} (h : EngineOk s) {p : SearchPass} {a b : SearchStatus}
    (hx : s.dsq.search = some ⟨p, a⟩) (hv : t.view = s.view.at s.dsq.deck (some ⟨p, b⟩)) : EngineOk t := by
  refine .of_view ?_ ((congrArg View.asking hv).trans h.asking)
  rw [hv]
  refine { h.view with search := fun y hy => ?_ }
  obtain rfl := Option.some.inj hy
  exact h.search ⟨p, a⟩ hx

theorem EngineOk.searchFailed {s : State} (h : EngineOk s) {p : SearchPass} (hx : s.dsq.search = some ⟨p, .running⟩) :
    EngineOk (s.searchFailed p) :=
  h.restatus hx (by unfold State.searchFailed; rw [view_onTsv, view_setSearch])

theorem EngineOk.lpAccepted {s : State} (h : EngineOk s) (f : Bool) : EngineOk (s.lpAccepted f) := by
  unfold State.lpAccepted
  split
  · exact h.restatus ‹_› (by rw [view_onTsv, view_setSearch])
  · exact h

theorem EngineOk.eotAccepted {s : State} (h : EngineOk s) (first : Int) : EngineOk (s.eotAccepted first) := by
  unfold State.eotAccepted
  dsimp only
  split
  · exact h.same (view_onTsv _ _)
  · refine EngineOk.seal (h.same ?_)
    rw [view_addEvents, view_onOpe rfl rfl rfl rfl, view_onTsv]

theorem EngineOk.enterLoopForm {s : State} (h : EngineOk s) (hd : s.dsq.deck = .vacuumUp) : EngineOk s.enterLoopForm := by
  have hx : s.dsq.search = none := h.noSearch (by rw [hd]; decide) (by rw [hd]; decide)
  refine h.goes (by rw [hd]; decide) (view_enterLoopForm s) (.inr (by simp)) (fun y hy => ?_)
  rw [hx] at hy
  cases hy

/-- A window report or a sequence timer ends WIND_OFF (R11). -/
theorem EngineOk.windOffEnd {s : State} (h : EngineOk s) (hd : s.dsq.deck = .windOff) : s.windOffEnd.view.Ok :=
  ((h.held (by rw [hd]; decide)).windOffEnd (h.noSearch (by rw [hd]; decide) (by rw [hd]; decide))).1

theorem EngineOk.loadFail {s : State} (h : EngineOk s) (hd : s.dsq.deck ≠ .ready) : EngineOk s.loadFail := by
  obtain ⟨hk, -, ha⟩ := (h.held hd).loadFail
  exact .of_view hk ha

theorem EngineOk.loadStart {s : State} (h : EngineOk s) (hd : s.dsq.deck = .unloaded) : EngineOk s.loadStart := by
  obtain ⟨hh, -, hx⟩ := h.still (.inl hd)
  refine .of_view (hh.loadStart hx) ?_
  rcases view_loadStart s with hv | hv <;> exact (congrArg View.asking hv).trans h.asking

/-! ## The engine -/

/-- The executing tape operation goes to another phase, or holds another of its job's fields. -/
theorem EngineOk.put {s : State} (h : EngineOk s) {j : Job} (hj : s.ope.job = some j) (hs : j.stage ≠ .deck) {f : Ope → Ope}
    (h₁ : (f s.ope).job = s.ope.job) (h₂ : (f s.ope).waiting = s.ope.waiting) (h₃ : (f s.ope).asking = s.ope.asking)
    (hp : (f s.ope).phase ≠ .idle) : EngineOk (s.onOpe f) := by
  have hr := h.runs hj hs
  refine .of_view (hr.put rfl rfl hs hp ?_) (h₃.trans h.asking)
  rw [view_engine, h₁, hj, h₂, hr.waiting, h₃, h.asking]

theorem writeIn_some {s : State} {ph : Phase} {j : Job} (h : s.writeIn ph = some j) :
    s.ope.job = some j ∧ j.stage = .writing ∧ s.ope.phase = ph := by
  unfold State.writeIn at h
  split at h
  · rename_i k hk
    split at h
    · rename_i hc
      obtain rfl := Option.some.inj h
      exact ⟨hk, hc⟩
    · cases h
  · cases h

theorem EngineOk.byteRequest {s : State} (h : EngineOk s) (j : Job) : EngineOk (s.byteRequest j) := by
  unfold State.byteRequest
  split
  · exact h.same (view_onOpe rfl rfl rfl rfl)
  · exact h

theorem EngineOk.storeRead {s : State} (h : EngineOk s) : EngineOk s.storeRead := by
  unfold State.storeRead
  split
  · split
    · exact h.same (view_onBbf _ _)
    · exact h
  · exact h

theorem readingNow_iff {s : State} : s.readingNow = true ↔ ∃ j, s.ope.job = some j ∧ j.stage = .reading := by
  unfold State.readingNow
  cases h : s.ope.job <;> simp

theorem EngineOk.signalRise {s : State} (h : EngineOk s) : EngineOk s.signalRise := by
  unfold State.signalRise
  split
  · have ht : EngineOk (s.onOpe (fun e => { e with seen := e.seen.begin s.tsv.counter e.rdMark })) :=
      h.same (view_onOpe rfl rfl rfl rfl)
    dsimp only
    split
    · rename_i hr
      obtain ⟨j, hj, hs⟩ := readingNow_iff.mp hr
      exact ht.put hj (by rw [hs]; decide) rfl rfl rfl nofun
    · exact ht
  · exact h.same (view_onOpe rfl rfl rfl rfl)

/-! ## The ports -/

theorem view_onRx (p : PortId) (f : Rx → Rx) (s : State) : (s.onRx p f).view = s.view := view_onPort rfl rfl

theorem view_frameFault (p : PortId) (s : State) : (s.frameFault p).view = s.view := by
  unfold State.frameFault
  dsimp only
  rw [view_onRx, view_onBbf]

theorem EngineOk.frameFault {s : State} (h : EngineOk s) (p : PortId) : EngineOk (s.frameFault p) :=
  h.same (view_frameFault p s)

theorem EngineOk.onRx {s : State} (h : EngineOk s) (p : PortId) (f : Rx → Rx) : EngineOk (s.onRx p f) :=
  h.same (view_onRx p f s)

theorem EngineOk.settle (before : State) {s : State} (h : EngineOk s) : EngineOk (s.settle before) := h.view.settle before

theorem EngineOk.headerByte {s : State} (h : EngineOk s) (p : PortId) (v : Byte) (ok : Bool) :
    EngineOk (s.headerByte p v ok) := by
  have ht := h.onRx p (fun x => { x with bytes := x.bytes ++ [v] })
  unfold State.headerByte
  dsimp only
  split
  · exact ht
  · exact ht.frameFault p

theorem EngineOk.storeByte {s : State} (h : EngineOk s) (p : PortId) (v : Byte) : EngineOk (s.storeByte p v) := by
  unfold State.storeByte
  split
  · exact h.same (view_onBbf _ _)
  · exact h

theorem EngineOk.byteIn {s : State} (h : EngineOk s) (p : PortId) (v : Byte) (parity : Bool) :
    EngineOk (s.byteIn p v parity) := by
  unfold State.byteIn
  dsimp only
  repeat' first
    | with_reducible exact h | with_reducible apply EngineOk.headerByte | with_reducible apply EngineOk.settle
    | with_reducible apply EngineOk.frameFault | with_reducible apply EngineOk.storeByte | split

theorem EngineOk.frameFall {s : State} (h : EngineOk s) (p : PortId) : EngineOk (s.frameFall p) := by
  unfold State.frameFall State.rxEnd
  dsimp only
  repeat' first
    | with_reducible exact h | with_reducible apply EngineOk.settle | with_reducible apply EngineOk.frameFault
    | with_reducible apply EngineOk.onRx | split

theorem EngineOk.readHeader {s : State} (h : EngineOk s) (p : PortId) : EngineOk (s.readHeader p) := by
  unfold State.readHeader
  dsimp only
  repeat' first
    | with_reducible exact h | with_reducible apply EngineOk.settle | with_reducible apply EngineOk.frameFault
    | with_reducible apply EngineOk.onRx | with_reducible apply EngineOk.takePortReset | split

/-! ## Every command -/

theorem engineOk_keeps (c : Instr) (hr : resetsPart c = false) : CommandKeeps EngineOk c := by
  intro s h
  cases c
  case powerUp | resetRise | resetFall => cases hr
  all_goals apply taken_keeps h
  -- the servo
  case regulationPeriodExpiry ls lt =>
    intro h
    refine h.same ?_
    unfold State.periodExpiry
    rw [view_reportWhen, view_reportWhen, view_onTsv]
    refine view_onDsq ?_ ?_ <;> (unfold Dsq.addTravel; split <;> rfl)
  case capstanTachArrival p => exact fun h => h.same ((view_reportWhen _ _ _).trans (view_onTsv _ _))
  case reelTachArrival | markerLineArrival => exact fun h => h.same (view_onTsv _ _)
  case revolutionComplete => exact fun h => kept_when h (fun _ => h.same (view_onTsv _ _))
  case stallLimit | tachGlitchLimit | reelSaturationLimit =>
    exact fun h => kept_when h (fun _ => h.same ((view_reportFault _ _).trans (view_onTsv _ _)))
  case loadPointMarkerAccepted =>
    intro h
    split
    · exact EngineOk.lpAccepted (h.same (view_onTsv _ _)) _
    · exact h
  case eotMarkerAccepted =>
    intro h
    dsimp only
    split
    · exact kept_when (h.same (view_onTsv _ _)) (fun _ => EngineOk.eotAccepted (h.same (view_onTsv _ _)) _)
    · exact h
  case moveCompletion =>
    intro h
    have ht : EngineOk s.clearReport := h.same (view_onTsv _ _)
    split
    · split
      · rename_i hd
        exact ht.goes (by rw [show s.clearReport.dsq.deck = .rewindOut from hd]; decide) (view_enterWindOff _)
          (.inr (by simp)) nofun
      · exact ht
    · exact (ht.moveDone _).settle s
    · exact h
  case stopCompletion =>
    intro h
    have ht : EngineOk s.clearReport := h.same (view_onTsv _ _)
    split
    · exact ht.deckStopDone.settle s
    · exact ht.engineStopDone.settle s
    · exact h
  case faultRampZero =>
    intro h
    have ht : EngineOk s.clearReport := h.same (view_onTsv _ _)
    split
    · split
      · exact (ht.autoClear ‹_›).settle s
      · exact ht
    · exact h
  -- the deck sequencer
  case loopFormComplete =>
    refine fun h => kept_when h (fun hd => ?_)
    refine h.goes (by rw [hd.1]; decide) (view_enterLoadPointSearch s) (.inr (by simp)) (fun y hy => ?_)
    obtain rfl := Option.some.inj hy
    rfl
  case windOffComplete | windOffTimeout => exact fun h => kept_when h (fun hd => (h.windOffEnd hd.1).settle s)
  case vacuumUpTimeout | loopFormTimeout =>
    exact fun h => kept_when h (fun hd => (h.loadFail (by rw [hd.1]; decide)).settle s)
  case loadPointSearchLimit => exact fun h => kept_when h (fun hx => h.searchFailed hx.1)
  case rezeroTravelLimit =>
    intro h
    split
    · rename_i hx
      exact h.searchFailed hx.1
    · exact kept_when h (fun hx => h.searchFailed hx.1)
  case lampFlashExpiry => exact fun h => kept_when h (fun _ => h.same (view_onDsq rfl rfl))
  case vacuumArrival r level =>
    intro h
    have ht : EngineOk (s.onDsq (Dsq.setVac r level)) := h.same (view_onDsq (by cases r <;> rfl) (by cases r <;> rfl))
    dsimp only
    split
    · exact h
    · split
      · exact kept_when ht (fun hd => ht.enterLoopForm hd.1)
      · exact ht.same (view_reportWhen _ _ _)
  case driveArrival l level =>
    intro h
    split
    · exact h
    · exact h.same ((view_reportWhen _ _ _).trans (view_onDsq (by cases l <;> rfl) (by cases l <;> rfl)))
  case ringArrival level => exact fun h => h.same (view_onDsq rfl rfl)
  case onlineSwitchArrival level =>
    intro h
    split
    · exact h
    · exact EngineOk.settle s (h.same ((view_addEvents _ _).trans (view_onDsq rfl rfl)))
  case loadButton =>
    refine fun h => kept_when h (fun hc => ?_)
    have hd : s.dsq.deck = .unloaded := by simpa using (Bool.and_eq_true_iff.mp hc).2
    split
    · exact h.loadStart hd
    · exact h.loadFail (by rw [hd]; decide)
  case unloadButton =>
    refine fun h => kept_when h (fun hc => ?_)
    have hi : s.ope.phase = .idle := by simp [State.panelActs] at hc; exact hc.1.1.2
    exact ((h.heldIdle hi).1.unloadStart true).1.settle s
  case rewindButton =>
    refine fun h => kept_when h (fun hc => ?_)
    simp only [State.panelActs, Bool.and_eq_true, decide_eq_true_eq] at hc
    obtain ⟨⟨-, hi⟩, hd⟩ := hc
    have hr : Runs s panelJob :=
      { ok := h.view, head := nofun, waiting := (h.heldIdle hi).1.waiting, asking := h.asking, deck := hd }
    exact .of_view (hr.moveTo (by decide) _ _) h.asking
  case resetButton =>
    intro h
    split
    · rename_i hd
      obtain ⟨hh, hj, -⟩ := h.still (.inr (.inr (.inl hd)))
      exact kept_when h (fun _ => (hh.acceptedClear hj).1.settle s)
    · refine kept_when h (fun hd => ?_)
      obtain ⟨hh, hj, hx⟩ := h.still (.inr (.inr (.inr hd)))
      exact (hh.hardClear hj hx).1.settle s
  case faultReport x =>
    refine fun h => kept_when h (fun _ => ?_)
    have ht : EngineOk (s.dropReport x) := h.same (view_onDsq rfl rfl)
    exact kept_when ht (fun _ => (ht.takeFault x.kind).settle s)
  -- writes and reads
  case writeGateOpen | writeGateClose =>
    intro h
    split
    · rename_i hw
      obtain ⟨hj, hs, -⟩ := writeIn_some hw
      exact kept_when h (fun _ => h.put hj (by rw [hs]; decide) rfl rfl rfl nofun)
    · exact h
  case writeByteRequest =>
    intro h
    split
    · exact kept_when h (fun _ => h.byteRequest _)
    · exact h
  case verifyEndPoint =>
    intro h
    split
    · rename_i j hw
      obtain ⟨hj, hs, hp⟩ := writeIn_some hw
      have hr := h.runs hj (by rw [hs]; decide)
      have hi : s.ope.phase ≠ .idle := by rw [hp]; decide
      refine kept_when h (fun _ => View.Ok.settle ?_ s)
      split
      · exact hr.writePassed hi
      · exact hr.verifyFailed hi
    · exact h
  case rdSigRise =>
    intro h
    have ht : EngineOk (s.onOpe (fun e => { e with rdSig := true })) := h.same (view_onOpe rfl rfl rfl rfl)
    split
    · exact h
    · exact kept_when ht (fun _ => ht.signalRise)
  case readByteStrobe v => exact fun h => kept_when h (fun _ => EngineOk.storeRead (h.same (view_onOpe rfl rfl rfl rfl)))
  case rdSigFall =>
    refine fun h => kept_when h (fun _ => ?_)
    have ht : EngineOk (s.onOpe (fun e => { e with rdSig := false })) := h.same (view_onOpe rfl rfl rfl rfl)
    exact kept_when ht (fun _ => ht.same (view_onOpe rfl rfl rfl rfl))
  case rdMarkArrival level =>
    intro h
    have ht : EngineOk (s.onOpe (fun e => { e with rdMark := level })) := h.same (view_onOpe rfl rfl rfl rfl)
    exact kept_when ht (fun _ => ht.same (view_onOpe rfl rfl rfl rfl))
  case readBlockLengthLimit => exact fun h => kept_when h (fun _ => h.same (view_onOpe rfl rfl rfl rfl))
  case readEndPoint =>
    intro h
    split
    · rename_i j hj
      refine kept_when h (fun hc => ?_)
      obtain ⟨hs, hp, -⟩ := hc
      have hr := h.runs hj (by rw [hs]; decide)
      have hi : s.ope.phase ≠ .idle := by rw [hp]; decide
      refine View.Ok.settle ?_ s
      split
      · exact hr.readGood hi
      · exact hr.readBad hi
    · exact h
  case readBlankTape =>
    intro h
    split
    · rename_i j hj
      refine kept_when h (fun hc => View.Ok.settle ?_ s)
      rw [view_blankReport]
      exact (h.runs hj (by rw [hc.1]; decide)).stopAt (by decide)
    · exact h
  case scanBlankTape =>
    intro h
    split
    · rename_i j hj
      refine kept_when h (fun hc => View.Ok.settle ?_ s)
      rw [view_blankReport]
      exact (h.runs hj (fun hs => by simp [Job.scans, hs] at hc)).stopAt (by decide)
    · exact h
  case scanEndPoint =>
    intro h
    split
    · rename_i j hj
      refine kept_when h (fun hc => View.Ok.settle ?_ s)
      have hs : j.stage ≠ .deck := fun hs => by simp [Job.scans, hs] at hc
      exact (h.runs hj hs).scanEnd hs (by rw [hc.2.1]; decide)
    · exact h
  -- frames and records
  case ciFrmRises p =>
    intro h
    have ht : EngineOk (s.onPort p (fun q => { q with ciFrm := true })) := h.same (view_onPort rfl rfl)
    split
    · exact h
    · exact kept_when ht (fun _ => ht.onRx _ _)
  case inboundByte p v parity => exact fun h => kept_when h (fun _ => h.byteIn p v parity)
  case frameEnd p => exact fun h => kept_when h (fun _ => EngineOk.frameFall (h.same (view_onPort rfl rfl)) p)
  case frameHeaderComplete p => exact fun h => kept_when h (fun _ => h.readHeader p)
  case writeDataAdmitted p => exact fun h => kept_when h (fun _ => h.admitData p)
  case frameError p | badCommand p =>
    refine fun h => kept_when h (fun hd => ?_)
    simp only [State.errorFrameDue, State.unknownFrameDue, Bool.and_eq_true] at hd
    exact (Room.answerFrame ⟨h, room_of_holds (by simp [hd])⟩ _).seal
  case linkLoss p =>
    refine fun h => kept_when h (fun _ => ?_)
    have ht : EngineOk (s.onPort p (fun q => { q with linkAct := false })) := h.same (view_onPort rfl rfl)
    exact kept_when ht (fun _ => (ht.resetPort p).1.settle s)
  case linkRestored p =>
    intro h
    split
    · exact h
    · exact EngineOk.seal (h.same (view_onPort rfl rfl))
  case recordSent p =>
    intro h
    split
    · exact h
    · exact kept_when h (fun _ => ((h.recordLeaves p _).takeWaiting p).settle s)
  case statusByteSent p soRdy =>
    intro h
    have ht : EngineOk (s.onPort p (fun q => { q with soRdy := soRdy })) := h.same (view_onPort rfl rfl)
    dsimp only
    split
    · exact kept_when ht (fun _ => ht.same (view_onPort (by split <;> rfl) (by split <;> rfl)))
    · exact ht
  -- the takes
  case load p | readBlock p | space p | locate p | rewind p | unload p | pushMark p | returnToMark p =>
    exact fun h => h.takeQueued p _
  case writeBlock p =>
    refine fun h => kept_when h (fun ht => ?_)
    split
    · exact (Room.answerFrame ⟨h, room_of_takes ht⟩ _).seal
    · exact h.takeWrite ht
  case writeMark p => exact fun h => kept_when h (fun ht => h.takeWrite ht)
  case sense p => exact fun h => kept_when h (fun ht => (Room.senseFrame ⟨h, room_of_takes ht⟩).seal)
  case queryDirectory p => exact fun h => h.takeImmediate _ (fun hd _ _ hr => hr.answer hd _ _ _)
  case assignWriter p => exact fun h => h.takeImmediate _ (fun hd _ _ hr => hr.assignWriter hd)
  case releaseWriter p => exact fun h => h.takeImmediate _ (fun hd _ _ hr => hr.releaseWriter hd)
  case setPortOptions p => exact fun h => h.takeImmediate _ (fun hd _ _ hr => hr.setPortOptions hd)
  case setDeckParameters p => exact fun h => h.takeImmediate _ (fun hd _ _ hr => hr.setDeckParameters hd)
  case acknowledgeEvents p => exact fun h => h.takeImmediate _ (fun hd _ _ hr => hr.acknowledgeEvents hd)
  case clearFault p => exact fun h => h.takeImmediate _ (fun hd _ _ hr => hr.clearFault hd)
  case abort p => exact fun h => h.takeImmediate _ (fun hd _ _ hr => hr.abort hd)
  case portReset p => exact fun h => kept_when h (fun _ => (h.takePortReset p).settle s)

/-! ## The power-on values -/

/-- The blocks at power-on, whatever the servo holds and whether the part is held in reset. -/
theorem sharedOk_powerOn (lv : Levels) (v : Tsv) (r : Bool) (n : Nat) (l : List Instr) :
    SharedOk { State.powerOn lv with tsv := v, inReset := r, draws := n, pending := l } where
  port p := by cases p <;> exact ⟨Nat.zero_le _, Nat.zero_le _, rfl, rfl⟩
  slots := rfl
  owner x hx _ := by
    obtain rfl := List.eq_of_mem_replicate hx
    rfl
  cache := List.nodup_nil
  charge p := by cases p <;> exact Nat.zero_le 8
  chain := Nat.zero_le _

theorem engineOk_powerOn (lv : Levels) (v : Tsv) (r : Bool) (n : Nat) (l : List Instr) :
    EngineOk { State.powerOn lv with tsv := v, inReset := r, draws := n, pending := l } where
  asking := rfl
  idle _ := rfl
  waiting h := absurd h Bool.false_ne_true
  search _ h := absurd h (Option.some_ne_none _).symm
  deckJob _ h := absurd h (Option.some_ne_none _).symm
  tapeJob _ h := absurd h (Option.some_ne_none _).symm
  head _ h := h.elim (fun h => absurd h (Option.some_ne_none _).symm) (fun h => absurd h (Option.some_ne_none _).symm)
  owed p _ ho := absurd ho (by cases p <;> exact List.not_mem_nil)
  records p := by cases p <;> exact Nat.zero_le _

/-- Settles O6: each invariant is kept by every command, and the power-on values have it. -/
theorem everyStepKeepsTheDirectoryInOrder : Obligations.EveryStepKeepsTheDirectoryInOrder := by
  intro s t hs
  refine ⟨fun h => ?_, fun h => ?_, fun h => ?_⟩
  · exact kept_by_step (P := fun s => s.bdr.wf) (fun _ _ h => h)
      (fun _ => keeps_of_powerOn (fun _ _ _ _ _ _ => wf_cleared)) closed_directory.keeps h hs
  · exact kept_by_step (fun l s h => by cases s; exact { h with })
      (fun _ => keeps_of_powerOn (fun lv v r n l _ => sharedOk_powerOn lv v r n l)) sharedOk_keeps h hs
  · exact kept_by_step (fun l s h => by cases s; exact { h with })
      (fun _ => keeps_of_powerOn (fun lv v r n l _ => engineOk_powerOn lv v r n l)) engineOk_keeps h hs

/-- Settles O7. -/
theorem resetKeepsTheInvariants : Obligations.ResetKeepsTheInvariants :=
  ⟨{ ServoOk.powerOn Levels.low with }, wf_cleared, sharedOk_powerOn _ _ _ _ _, engineOk_powerOn _ _ _ _ _⟩

end Sys2Proof.Machine

/-! PROOF. One step of the part, power-up and the RESET line (R185, R189), and the power-on values of every block. -/

namespace Sys2Proof.Machine

/-- Out of reset a command has the effect of its body. -/
theorem taken_running {s : State} (body : State → State) (h : s.inReset = false) : taken s body = .next (body s) := by
  simp [taken, h]

/-- While RESET is true no arrival is taken and no timer runs (R189). -/
theorem taken_held {s : State} {body : State → State} (h : s.inReset = true) : taken s body = .next s := by
  simp [taken, h]

/-- Settles O1. -/
theorem stepRunsTheFrontCommand : Obligations.StepRunsTheFrontCommand :=
  ⟨fun _ _ _ => rfl, fun s h => by rw [step, h]⟩

/-- Every command but those that reset the part is taken only out of reset. -/
theorem becomes_self_in_reset {s : State} {c : Instr} (h : s.inReset = true) (hc : resetsPart c = false) : Becomes c s s := by
  cases c
  case powerUp | resetRise | resetFall => cases hc
  all_goals apply taken_held h

/-- Settles O3. -/
theorem resetLine : Obligations.ResetLine := by
  intro s lv held
  refine ⟨rfl, rfl, fun h => ?_, fun h => ?_, fun c h hp hr hf => becomes_self_in_reset h ?_⟩
  · simp [Becomes, exec, execResetFall, State.fallOfReset, h]
  · simp [Becomes, exec, execResetFall, h]
  · cases c
    case powerUp => exact absurd rfl hp
    case resetRise => exact absurd rfl hr
    case resetFall lv => exact absurd rfl (hf lv)
    all_goals rfl

theorem powerOn_held (lv : Levels) (p : PortId) : (State.powerOn lv).bbf.held p = 0 := by
  cases p <;> rfl

/-- Settles O4. -/
theorem powerOnValues : Obligations.PowerOnValues := by
  refine ⟨fun lv => ⟨?_, ?_, fun w => ?_, ?_, ?_, ⟨rfl, rfl⟩, ⟨rfl, rfl, rfl, rfl⟩, fun p => ?_⟩, rfl, rfl, rfl, fun p => ?_⟩
  · exact ⟨rfl, rfl, rfl, rfl, rfl, rfl, rfl, rfl, rfl, rfl, rfl, rfl, rfl, rfl, rfl, rfl, rfl, rfl, rfl⟩
  · exact ⟨rfl, rfl, rfl, rfl, rfl, rfl, rfl, rfl, rfl, rfl, rfl, rfl, rfl, rfl, rfl, rfl, rfl, rfl⟩
  · cases w <;> exact ⟨rfl, rfl, rfl, rfl, rfl, rfl, rfl, rfl, rfl, rfl, rfl⟩
  · exact ⟨rfl, rfl, rfl, rfl, rfl, rfl, rfl, rfl, rfl, rfl, rfl⟩
  · exact ⟨rfl, rfl, rfl, rfl⟩
  · cases p <;> exact ⟨rfl, rfl, rfl, rfl, rfl, rfl, rfl, rfl, rfl, rfl, rfl, rfl, rfl, rfl, powerOn_held lv _, rfl⟩
  · cases p <;> rfl

end Sys2Proof.Machine

/-! PROOF. A step of Vc and the capstan hold (R26). -/

namespace Sys2Proof.Machine

/-- Settles O10: without the hold by the three cases of `rawStep`, under the hold by those of `stepVc`. -/
theorem capstanStepAndHold : Obligations.CapstanStepAndHold := by
  intro vc target a ha r w through
  have hr : r = rawStep vc target a := rfl
  have hw : w = if through then 0 else if vc.natAbs < r.natAbs then vc else r := by
    simp [w, r, through, stepVc]
  refine ⟨fun h => ?_, fun h => ?_, fun h => ?_, fun h => ?_, fun ht h => ?_, fun ht h => ?_⟩
  · rw [hr, rawStep, if_pos h]
  · rw [hr, rawStep, if_neg (by omega), if_pos (by omega)]
  · rw [hr, rawStep, if_neg (by omega), if_neg (by omega)]
  · rw [hw, if_pos h]
  · rw [hw, if_neg ht, if_pos h]
  · rw [hw, if_neg ht, if_neg (by omega)]

end Sys2Proof.Machine

/-! PROOF. The reports that are due (R36, R37, R55), a completed revolution (R48, R49), the marker lines (R38) and what an
accepted marker does (R39, R40). -/

namespace Sys2Proof.Machine

/-! ## Reports -/

theorem exec_stallLimit {s : State} (h : s.inReset = false) :
    exec .stallLimit s = .next (if s.tsv.stallDue then
      (s.onTsv (fun v => { v with stallDue := false })).reportFault FaultKind.tach.report else s) := taken_running _ h

theorem exec_tachGlitchLimit {s : State} (h : s.inReset = false) :
    exec .tachGlitchLimit s = .next (if s.tsv.glitchDue then
      (s.onTsv (fun v => { v with glitchDue := false })).reportFault FaultKind.tach.report else s) := taken_running _ h

theorem exec_reelSaturationLimit (w : Reel) {s : State} (h : s.inReset = false) :
    exec (.reelSaturationLimit w) s = .next (if (s.tsv.reel w).satDue then
      (s.onTsv (Tsv.onReel w (fun x => { x with satDue := false }))).reportFault (FaultKind.reelSaturation.reportAt w)
      else s) := taken_running _ h

/-- Settles O13. -/
theorem dueReportsAreMadeOnce : Obligations.DueReportsAreMadeOnce := by
  intro s hr
  refine ⟨fun h => ?_, fun h => ?_, fun h => ?_, fun h => ?_, fun h => ?_, fun h => ?_, fun w h => ?_⟩ <;> unfold Becomes
  · rw [exec_stallLimit hr, if_pos h]; rfl
  · rw [exec_stallLimit hr, h]; rfl
  · rw [exec_tachGlitchLimit hr, if_pos h]; rfl
  · rw [exec_tachGlitchLimit hr, h]; rfl
  · rw [exec_reelSaturationLimit .supply hr, if_pos (by exact h)]; rfl
  · rw [exec_reelSaturationLimit .takeup hr, if_pos (by exact h)]; rfl
  · rw [exec_reelSaturationLimit w hr, h]; rfl

/-! ## A revolution -/

theorem exec_revolutionComplete (w : Reel) {s : State} (h : s.inReset = false) :
    exec (.revolutionComplete w) s = .next (if (s.tsv.reel w).revolutionDue then
      s.onTsv (Tsv.onReel w (ReelState.revolve w s.tsv.counter)) else s) := taken_running _ h

theorem revolutionDue_iff (r : ReelState) : r.revolutionDue = true ↔ r.acc.natAbs = 1024 := by
  simp [ReelState.revolutionDue]

theorem onReel_congr {w : Reel} {f g : ReelState → ReelState} {v : Tsv} (h : f (v.reel w) = g (v.reel w)) :
    v.onReel w f = v.onReel w g := by
  cases w <;> (unfold Tsv.onReel; dsimp only [Tsv.reel] at h ⊢; rw [h])

/-- Settles O16: the new estimate lies between the old one and the measured pack by `newPack_between`. -/
theorem revolutionUpdatesThePack : Obligations.RevolutionUpdatesThePack := by
  intro s w hr r dCap dLoop m
  have hm : measuredPack w dCap dLoop = m := by cases w <;> rfl
  refine ⟨fun h => ⟨?_, newPack_between r.pack m⟩, fun h => ?_⟩ <;> unfold Becomes
  · rw [exec_revolutionComplete w hr, if_pos ((revolutionDue_iff _).mpr h)]
    refine congrArg (fun v => Host.Outcome.next { s with tsv := v }) (onReel_congr ?_)
    rw [ReelState.revolve, hm]
    rfl
  · rw [exec_revolutionComplete w hr, if_neg (mt (revolutionDue_iff _).mp h)]

/-! ## Marker lines -/

theorem exec_markerLineArrival (m : Marker) (level : Bool) {s : State} (h : s.inReset = false) :
    exec (.markerLineArrival m level) s = .next (s.onTsv (Tsv.markerArrival m level)) := taken_running _ h

/-- A line that goes false discards its sighting (R38). -/
theorem line_false (c : Int) (x : Sighting) : x.line false c = .clear := by cases x <;> rfl

/-- Settles O17. -/
theorem markerLines : Obligations.MarkerLines := by
  intro s hr
  refine ⟨fun h hx => ?_, fun h => ?_, fun h hx => ?_, fun h => ?_, ?_, ?_⟩ <;>
    rw [Becomes, exec_markerLineArrival _ _ hr] <;> simp only [State.onTsv, Tsv.markerArrival]
  · rw [if_neg (by simp [h]), hx]; rfl
  · rw [if_neg (by simp [h]), line_false]
  · rw [if_neg (by simp [h]), hx]; rfl
  · rw [if_neg (by simp [h]), line_false]
  · rw [if_pos trivial]
  · rw [if_pos trivial]

/-! ## Accepted markers -/

theorem lpAccepted_of_running {s : State} (f : Bool) {p : SearchPass} (h : s.dsq.search = some ⟨p, .running⟩) :
    s.lpAccepted f = (s.setSearch (some ⟨p, .accepted⟩)).onTsv
      (fun v => (v.setCounter (signed f Config.markerTravel)).orderStop .deck) := by
  rw [State.lpAccepted, h]

theorem lpAccepted_of_not_running {s : State} (f : Bool) (h : ∀ p, s.dsq.search ≠ some ⟨p, .running⟩) :
    s.lpAccepted f = s := by
  unfold State.lpAccepted
  split
  · exact absurd ‹_› (h _)
  · rfl

/-- Settles O18. -/
theorem markerAcceptance : Obligations.MarkerAcceptance := by
  intro s hr
  refine ⟨fun f p hd hs => ?_, fun f hd hs => ?_, fun hd => ?_, fun x hd he => ?_, fun x hd he => ?_, fun x hd => ?_,
    fun hd => ?_⟩
  · rw [exec, execLoadPointMarkerAccepted, taken_running _ hr, hd]
    dsimp only
    rw [lpAccepted_of_running (s := s.onTsv _) f hs]
    refine ⟨_, rfl, ?_, rfl, rfl, rfl, rfl, rfl, rfl, rfl⟩
    cases f <;> rfl
  · rw [Becomes, exec, execLoadPointMarkerAccepted, taken_running _ hr, hd]
    dsimp only
    rw [lpAccepted_of_not_running (s := s.onTsv _) f hs]
    rfl
  · rw [Becomes, exec, execLoadPointMarkerAccepted, taken_running _ hr, hd]
  · rw [Seals, exec, execEotMarkerAccepted, taken_running _ hr, hd]
    simp [State.eotAccepted, he]
    rfl
  · rw [Becomes, exec, execEotMarkerAccepted, taken_running _ hr, hd]
    simp [State.eotAccepted, he]
    rw [← he]
    rfl
  · rw [Becomes, exec, execEotMarkerAccepted, taken_running _ hr, hd]
    rfl
  · rw [Becomes, exec, execEotMarkerAccepted, taken_running _ hr, hd]

end Sys2Proof.Machine

/-! PROOF. The decoders of the capstan tach and of the reel tachs (R34 to R41, R46, R47, R50): what a pair against the last one
means, and what each meaning does to the servo. -/

namespace Sys2Proof.Machine

/-! ## What a pair means -/

/-- `p` follows `q` in the forward order 00, 10, 11, 01 (R34). -/
def TurnsForward (q p : Pair) : Prop :=
  (q = ⟨false, false⟩ ∧ p = ⟨true, false⟩) ∨ (q = ⟨true, false⟩ ∧ p = ⟨true, true⟩)
    ∨ (q = ⟨true, true⟩ ∧ p = ⟨false, true⟩) ∨ (q = ⟨false, true⟩ ∧ p = ⟨false, false⟩)

theorem decodeTurn_forward {q p : Pair} (h : TurnsForward q p) : decodeTurn q p = .forward := by
  rcases h with ⟨rfl, rfl⟩ | ⟨rfl, rfl⟩ | ⟨rfl, rfl⟩ | ⟨rfl, rfl⟩ <;> rfl

/-- The reverse order is the forward order read backward. -/
theorem decodeTurn_reverse {q p : Pair} (h : TurnsForward p q) : decodeTurn q p = .reverse := by
  rcases h with ⟨rfl, rfl⟩ | ⟨rfl, rfl⟩ | ⟨rfl, rfl⟩ | ⟨rfl, rfl⟩ <;> rfl

theorem decodeTurn_same (q : Pair) : decodeTurn q q = .same := if_pos rfl

theorem decodeTurn_glitch {q p : Pair} (ha : p.lineA ≠ q.lineA) (hb : p.lineB ≠ q.lineB) : decodeTurn q p = .glitch := by
  obtain ⟨a, b⟩ := q
  obtain ⟨c, d⟩ := p
  obtain rfl : c = !a := Bool.eq_not.mpr ha
  obtain rfl : d = !b := Bool.eq_not.mpr hb
  cases a <;> cases b <;> rfl

/-- LOADING, READY, UNLOADING and FAULT_STOP are all states but three (R36, R37). -/
theorem detectsTach_iff (d : Deck) : d.detectsTach = true ↔ d ∉ [.unloaded, .faultedSoft, .faultedHard] := by
  cases d <;> decide

theorem detectsOverrun_iff (d : Deck) : d.detectsOverrun = true ↔
    d ∈ [.vacuumUp, .loopForm, .loadPointSearch, .rezero, .ready, .rewindOut, .windOff] := by
  cases d <;> decide

/-! ## The reels -/

@[simp] theorem reel_onReel (w : Reel) (f : ReelState → ReelState) (v : Tsv) : (v.onReel w f).reel w = f (v.reel w) := by
  cases w <;> rfl

theorem reel_onReel_of_ne {w x : Reel} (h : x ≠ w) (f : ReelState → ReelState) (v : Tsv) :
    (v.onReel w f).reel x = v.reel x := by
  cases w <;> cases x <;> first | rfl | exact absurd rfl h

@[simp] theorem counter_onReel (w : Reel) (f : ReelState → ReelState) (v : Tsv) : (v.onReel w f).counter = v.counter := by
  cases w <;> rfl

@[simp] theorem onReel_onReel (w : Reel) (f g : ReelState → ReelState) (v : Tsv) :
    (v.onReel w f).onReel w g = v.onReel w (fun r => g (f r)) := by
  cases w <;> rfl

theorem onReel_self {w : Reel} {f : ReelState → ReelState} {v : Tsv} (h : f (v.reel w) = v.reel w) : v.onReel w f = v := by
  cases w <;> (unfold Tsv.onReel; dsimp only [Tsv.reel] at h ⊢; rw [h])

@[simp] theorem reel_glitch (d : Deck) (w : Reel) (v : Tsv) : (v.glitch d).reel w = v.reel w := by cases w <;> rfl

/-- What a reel's pair does to that reel, by its meaning; a glitch does nothing more to the reel. -/
def turnReel (turn : Turn) (counter : Int) (r : ReelState) : ReelState :=
  match turn with
  | .forward => r.count true counter
  | .reverse => r.count false counter
  | .same | .glitch => r

theorem reel_reelArrival (d : Deck) (w : Reel) (p : Pair) (v : Tsv) :
    (v.reelArrival d w p).reel w = { turnReel (decodeTurn (v.reel w).last p) v.counter (v.reel w) with last := p } := by
  unfold Tsv.reelArrival
  cases decodeTurn (v.reel w).last p <;> simp [turnReel]

theorem reel_reelArrival_of_ne (d : Deck) {w x : Reel} (h : x ≠ w) (p : Pair) (v : Tsv) :
    (v.reelArrival d w p).reel x = v.reel x := by
  unfold Tsv.reelArrival
  cases decodeTurn (v.reel w).last p <;> simp [reel_onReel_of_ne h]

theorem counter_reelArrival (d : Deck) (w : Reel) (p : Pair) (v : Tsv) : (v.reelArrival d w p).counter = v.counter := by
  unfold Tsv.reelArrival
  cases decodeTurn (v.reel w).last p <;> simp [Tsv.glitch]

theorem reelArrival_same (d : Deck) (w : Reel) (v : Tsv) : v.reelArrival d w (v.reel w).last = v := by
  unfold Tsv.reelArrival
  rw [decodeTurn_same]
  exact onReel_self rfl

theorem glitches_onReel (w : Reel) (f : ReelState → ReelState) (v : Tsv) :
    (v.onReel w f).glitches = v.glitches ∧ (v.onReel w f).glitchDue = v.glitchDue := by
  cases w <;> exact ⟨rfl, rfl⟩

/-- A count while the measurement runs, with the accumulator's direction (R47). -/
theorem count_along {r : ReelState} (c : Int) (hm : r.measuring = true) :
    (0 ≤ r.acc → r.acc < 1024 → r.count true c = { r with acc := r.acc + 1 })
    ∧ (r.acc ≤ 0 → -1024 < r.acc → r.count false c = { r with acc := r.acc - 1 }) := by
  constructor <;> intro h₁ h₂ <;> unfold ReelState.count
  · rw [if_neg (by simp [hm]), if_neg (by simp; omega), signed, if_pos rfl, limit_eq_self (by omega) (by omega)]
  · rw [if_neg (by simp [hm]), if_neg (by simp; omega), signed, if_neg Bool.false_ne_true,
      limit_eq_self (by omega) (by omega)]
    rfl

/-- A count against the accumulator's direction restarts the measurement (R50). -/
theorem count_against {r : ReelState} (c : Int) (hm : r.measuring = true) :
    (r.acc < 0 → r.count true c = r.restart c) ∧ (0 < r.acc → r.count false c = r.restart c) := by
  constructor <;> intro h <;> unfold ReelState.count <;> rw [if_neg (by simp [hm]), if_pos (by simp [h])]

/-- Out of regulation a count measures nothing (R47). -/
theorem count_idle {r : ReelState} (f : Bool) (c : Int) (hm : r.measuring = false) : r.count f c = r := by
  simp [ReelState.count, hm]

/-- The glitch that brings the count to 8 makes the report due (R36). -/
theorem glitchDue_glitch (d : Deck) (v : Tsv) : (v.glitch d).glitchDue = true ↔
    v.glitchDue = true ∨ (v.glitches = 7 ∧ d ∉ [.unloaded, .faultedSoft, .faultedHard]) := by
  rw [← detectsTach_iff]
  simp [Tsv.glitch, Config.glitchLimit]

/-- Settles O15. -/
theorem reelDecoder : Obligations.ReelDecoder := by
  intro s w p hr
  refine ⟨_, taken_running _ hr, ?_, counter_reelArrival _ _ _ _, rfl, fun x hx => reel_reelArrival_of_ne _ hx _ _, ?_⟩
  · exact congrArg ReelState.last (reel_reelArrival _ _ _ _)
  intro r forward reverse restarted
  have hreel : ((s.onTsv (Tsv.reelArrival s.dsq.deck w p)).tsv).reel w
      = { turnReel (decodeTurn r.last p) s.tsv.counter r with last := p } := reel_reelArrival _ _ _ _
  have hf : forward → decodeTurn r.last p = .forward := decodeTurn_forward
  have hv : reverse → decodeTurn r.last p = .reverse := decodeTurn_reverse
  refine ⟨fun hm h ha => ?_, fun hm h ha hb => ?_, fun hm h ha => ?_, fun hm h ha hb => ?_, fun hm h => ?_, fun h => ?_,
    fun ⟨ha, hb⟩ => ?_⟩
  · rw [hreel, hf h, turnReel, (count_against _ hm).1 ha]; rfl
  · rw [hreel, hf h, turnReel, (count_along _ hm).1 ha hb]
  · rw [hreel, hv h, turnReel, (count_against _ hm).2 ha]; rfl
  · rw [hreel, hv h, turnReel, (count_along _ hm).2 ha hb]
  · rw [hreel]
    rcases h with h | h
    · rw [hf h, turnReel, count_idle _ _ hm]
    · rw [hv h, turnReel, count_idle _ _ hm]
  · subst h
    rw [State.onTsv, reelArrival_same]
  · have hg : decodeTurn r.last p = .glitch := decodeTurn_glitch ha hb
    have hsv : s.tsv.reelArrival s.dsq.deck w p = (s.tsv.glitch s.dsq.deck).onReel w (fun r => { r with last := p }) := by
      unfold Tsv.reelArrival
      rw [hg]
    rw [hreel, hg]
    refine ⟨rfl, ?_, ?_⟩ <;> rw [State.onTsv_tsv, hsv]
    · exact (glitches_onReel _ _ _).1
    · rw [(glitches_onReel _ _ _).2]
      exact glitchDue_glitch _ _

/-! ## The capstan -/

/-- Travel over a marker: a sighting with 15 counts is accepted at its sixteenth (R38). -/
theorem travelled_cases (m : Sighting) :
    (∀ first, m = .seeing first 15 → m.travelled = .accepted)
    ∧ (∀ first n, m = .seeing first n → n ≠ 15 → m.travelled = .seeing first (n + 1))
    ∧ (m = .clear ∨ m = .accepted → m.travelled = m) := by
  refine ⟨?_, ?_, ?_⟩
  · rintro f rfl; rfl
  · rintro f n rfl hn
    exact if_neg (fun h : n + 1 = 16 => hn (by omega))
  · rintro (rfl | rfl) <;> rfl

theorem acceptedFrom_eq_some {m : Sighting} {first : Int} (h : m = .seeing first 15) : m.acceptedFrom = some first := by
  subst h; rfl

theorem acceptedFrom_eq_none {m : Sighting} (h : ∀ first, m ≠ .seeing first 15) : m.acceptedFrom = none := by
  cases m with
  | clear => rfl
  | accepted => rfl
  | seeing f n =>
    refine if_neg (fun hn : n + 1 = 16 => h f ?_)
    rw [show n = 15 by omega]

theorem eotAfter_forward (passed : Bool) (pos : Option Int) (c : Int) : eotAfter passed pos true c = passed := by
  cases pos <;> simp [eotAfter]

theorem eotAfter_reverse_below {passed : Bool} {x c : Int} (h : c < x) : eotAfter passed (some x) false c = false := by
  simp [eotAfter, h]

theorem eotAfter_reverse_above {passed : Bool} {pos : Option Int} {c : Int} (h : ∀ x, pos = some x → x ≤ c) :
    eotAfter passed pos false c = passed := by
  cases pos with
  | none => rfl
  | some x => simp [eotAfter, not_lt.mpr (h x rfl)]

theorem overrunAt_iff (passed : Bool) (pos : Option Int) (c : Int) :
    overrunAt passed pos true c = true ↔ passed = true ∧ ∃ x, pos = some x ∧ x + 120000 < c := by
  cases pos <;> simp [overrunAt]

/-- The deck sequencer after a capstan arrival that is no forward count. -/
theorem capstanTach_of_not_forward {p : Pair} {s : State} (h : decodeTurn s.tsv.lastPair p ≠ .forward) :
    s.capstanTach p = s.onTsv (Tsv.capstanArrival s.dsq.deck p) := by
  simp [State.capstanTach, State.reportWhen, h]

theorem capstanTach_tsv (p : Pair) (s : State) : (s.capstanTach p).tsv = s.tsv.capstanArrival s.dsq.deck p := by
  unfold State.capstanTach State.reportWhen
  dsimp only
  split <;> rfl

theorem capstanTach_frame (p : Pair) (s : State) :
    s.capstanTach p =
      { s with tsv := (s.capstanTach p).tsv, dsq := { s.dsq with faults := (s.capstanTach p).dsq.faults } } := by
  unfold State.capstanTach State.reportWhen
  dsimp only
  split <;> rfl

theorem capstanArrival_lastPair (d : Deck) (p : Pair) (v : Tsv) : (v.capstanArrival d p).lastPair = p := rfl

/-- A count enters the counter, the tally and the markers, and nothing else of the servo changes. -/
theorem capstanArrival_count {d : Deck} {p : Pair} {v : Tsv} {f : Bool}
    (h : decodeTurn v.lastPair p = if f then .forward else .reverse) :
    v.capstanArrival d p = { v.count f with lastPair := p } := by
  unfold Tsv.capstanArrival
  rw [h]
  cases f <;> rfl

/-- Settles O14, by the meaning of the pair. -/
theorem capstanDecoder : Obligations.CapstanDecoder := by
  intro s p hr
  refine ⟨_, taken_running _ hr, ?_, capstanTach_frame p s, ?_⟩
  · rw [capstanTach_tsv]; rfl
  intro v w q forward reverse travels overrun
  have hw : w = v.capstanArrival s.dsq.deck p := capstanTach_tsv p s
  have hf : forward → decodeTurn v.lastPair p = .forward := decodeTurn_forward
  have hv : reverse → decodeTurn v.lastPair p = .reverse := decodeTurn_reverse
  have hwf : forward → w = { v.count true with lastPair := p } := fun h => hw.trans (capstanArrival_count (f := true) (hf h))
  have hwv : reverse → w = { v.count false with lastPair := p } := fun h => hw.trans (capstanArrival_count (f := false) (hv h))
  have hnotForward : decodeTurn v.lastPair p ≠ .forward → (s.capstanTach p).dsq = s.dsq := fun h => by
    rw [capstanTach_of_not_forward h]; rfl
  refine ⟨fun h => ?_, fun h => ?_, fun h => ?_, fun h => ?_, fun ⟨ha, hb⟩ => ?_⟩
  · have hover : overrunAt w.eotPassed w.eotPos true w.counter = true ∧ s.dsq.deck.detectsOverrun = true ↔ overrun := by
      rw [overrunAt_iff, detectsOverrun_iff]
      rw [show w.eotPassed = v.eotPassed by rw [hwf h]; exact eotAfter_forward _ _ _,
        show w.eotPos = v.eotPos by rw [hwf h]; rfl]
      exact and_assoc
    have hfaults : (s.capstanTach p).dsq.faults
        = if overrun then s.dsq.faults ++ [{ kind := .eotOverrun, reel := none }] else s.dsq.faults := by
      rw [← capstanTach_tsv] at hw
      unfold State.capstanTach State.reportWhen
      dsimp only
      rw [show decodeTurn s.tsv.lastPair p = .forward from hf h, State.onTsv_tsv, ← capstanTach_tsv]
      by_cases ho : overrun
      · rw [if_pos ho, if_pos (by simp [(hover.mpr ho).2]; exact (hover.mpr ho).1)]
        rfl
      · rw [if_neg ho, if_neg (by simp; exact fun h₁ => eq_false_of_ne_true fun h₂ => ho (hover.mp ⟨h₂, h₁⟩))]
        rfl
    refine ⟨?_, ?_, ?_, fun x hx => ?_, fun x hx => ?_, fun ho => ?_, fun ho => ?_⟩
    · rw [hwf h]; rfl
    · rw [hwf h]; rfl
    · rw [hwf h]; exact eotAfter_forward _ _ _
    · rw [hwf h]; simp [Tsv.count, acceptedFrom_eq_some hx]
    · rw [hwf h]; simp [Tsv.count, acceptedFrom_eq_some hx]
    · rw [hfaults, if_pos ho]
    · rw [hfaults, if_neg ho]
  · refine ⟨?_, ?_, ?_, fun x hx => ?_, fun x hx => ?_, fun x hx hlt => ?_, fun hle => ?_⟩
    · rw [hwv h]; rfl
    · rw [hwv h]; rfl
    · rw [hnotForward (by rw [hv h]; decide)]
    · rw [hwv h]; simp [Tsv.count, acceptedFrom_eq_some hx]
    · rw [hwv h]; simp [Tsv.count, acceptedFrom_eq_some hx]
    · rw [hwv h] at hlt ⊢
      simp only [Tsv.count, hx] at hlt ⊢
      exact eotAfter_reverse_below hlt
    · rw [hwv h] at hle ⊢
      exact eotAfter_reverse_above hle
  · obtain ⟨f, hcount⟩ : ∃ f, w = { v.count f with lastPair := p } := h.elim (fun h => ⟨_, hwf h⟩) (fun h => ⟨_, hwv h⟩)
    rw [hcount]
    refine ⟨travelled_cases v.lp, travelled_cases v.eot, fun hn => ?_, fun hn => ?_, rfl⟩
    · simp [Tsv.count, acceptedFrom_eq_none hn]
    · simp [Tsv.count, acceptedFrom_eq_none hn]
  · have hs : decodeTurn v.lastPair p = .same := by rw [h]; exact decodeTurn_same _
    rw [capstanTach_of_not_forward (by rw [hs]; decide)]
    unfold State.onTsv Tsv.capstanArrival
    rw [hs, h]
  · have hg : decodeTurn v.lastPair p = .glitch := decodeTurn_glitch ha hb
    have hwg : w = { v.glitch s.dsq.deck with lastPair := p } := by
      rw [hw, Tsv.capstanArrival, hg]
    refine ⟨hnotForward (by rw [hg]; decide), ?_, ?_⟩
    · rw [hwg]; rfl
    · rw [hwg]; exact glitchDue_glitch _ _

end Sys2Proof.Machine

/-! PROOF. The period expiry (R23): the stall test, the braking test, the step of Vc and the completions (R25 to R33, R37), then
each reel by its command mode (R43, R44, R47, R50 to R58). -/

namespace Sys2Proof.Machine

/-! ## The steps of the expiry -/

/-- The braking test changes the target and the order alone (R29). -/
theorem brake_frame (v : Tsv) : v.brake = { v with target := v.brake.target, order := v.brake.order } := by
  unfold Tsv.brake
  split
  · split
    · rfl
    · split <;> rfl
  · rfl

/-- An order keeps its class for the choice of the step through the braking test. -/
theorem stepFor_brake (v : Tsv) (vc target : Int) : stepFor v.brake.order vc target = stepFor v.order vc target := by
  unfold Tsv.brake
  split
  · rename_i h
    split
    · rfl
    · split
      · simp [stepFor, h, Order.isFast]
      · rfl
  · rfl

/-- The completion ends the order and is reported, and nothing else changes (R30, R32, R33). -/
theorem complete_frame (v : Tsv) : v.complete = { v with order := v.complete.order, report := v.complete.report } := by
  unfold Tsv.complete
  split
  · rfl
  · split
    · split <;> rfl
    all_goals rfl

theorem complete_of_ne_zero {v : Tsv} (h : v.vc ≠ 0) : v.complete = v := if_pos h

theorem complete_of_zero {v : Tsv} (h : v.vc = 0) :
    (∀ m i, v.order = .move m i → m.latch = true →
      v.complete.order = .none ∧ v.complete.report = some (.moveDone i (v.counter - m.target)))
    ∧ (∀ f i, v.order = .stop f i → v.complete.order = .none ∧ v.complete.report = some (.stopDone i))
    ∧ (v.order = .faultRamp → v.complete.order = .none ∧ v.complete.report = some .rampZero) := by
  unfold Tsv.complete
  rw [if_neg (not_not.mpr h)]
  refine ⟨fun m i ho hl => ?_, fun f i ho => ?_, fun ho => ?_⟩ <;> rw [ho]
  · simp [hl]
  · exact ⟨rfl, rfl⟩
  · exact ⟨rfl, rfl⟩

/-- An order that does not end at Vc 0 stands. -/
theorem complete_stands (v : Tsv) :
    (∀ m i, v.order = .move m i → m.latch = false → v.complete = v) ∧ (∀ c f i, v.order = .run c f i → v.complete = v)
    ∧ (v.order = .none → v.complete = v) := by
  unfold Tsv.complete
  refine ⟨fun m i h hl => ?_, fun c f i h => ?_, fun h => ?_⟩ <;> rw [h]
  · simp [hl]
  · exact ite_self v
  · exact ite_self v

/-- An order that ends at Vc 0 is reported then, and stands before. -/
theorem complete_ends {v : Tsv} {c : Completion}
    (h : v.vc = 0 → v.complete.order = .none ∧ v.complete.report = some c) :
    if v.complete.vc = 0 then v.complete.order = .none ∧ v.complete.report = some c
    else v.complete.order = v.order ∧ v.complete.report = v.report := by
  have hvc : v.complete.vc = v.vc := by rw [complete_frame]
  rw [hvc]
  split
  · exact h ‹_›
  · rw [complete_of_ne_zero ‹_›]
    exact ⟨rfl, rfl⟩

/-- The servo at an expiry before the completions: everything but the order's end. -/
def Tsv.stepped (d : Deck) (gain ls lt : Nat) (v : Tsv) : Tsv :=
  let u := (v.closeTally d).brake.stepCapstan
  ({ u with supply := u.supply.expire .supply d u.vc u.counter gain ls,
            takeup := u.takeup.expire .takeup d u.vc u.counter gain lt,
            windowReport := windowAt d ls lt } : Tsv).present

theorem expire_eq (d : Deck) (gain ls lt : Nat) (v : Tsv) :
    v.expire d gain ls lt = (v.stepped d gain ls lt).complete := rfl

/-- The braking test reads nothing of the stall test. -/
theorem brake_closeTally (d : Deck) (v : Tsv) :
    (v.closeTally d).brake = { v.closeTally d with target := v.brake.target, order := v.brake.order } := by
  have hdist : ∀ x f, (v.closeTally d).distance x f = v.distance x f := fun _ _ => rfl
  have hstep : (v.closeTally d).vc = v.vc ∧ (v.closeTally d).target = v.target := ⟨rfl, rfl⟩
  have horder : (v.closeTally d).order = v.order := rfl
  unfold Tsv.brake
  simp only [hdist, hstep, horder]
  cases v.order with
  | move m i =>
    dsimp only
    split
    · rfl
    · split <;> rfl
  | _ => rfl

/-! ## The capstan's part -/

section
variable (d : Deck) (gain ls lt : Nat) (v : Tsv)

theorem stepped_order_target :
    (v.stepped d gain ls lt).order = v.brake.order ∧ (v.stepped d gain ls lt).target = v.brake.target
      ∧ (v.stepped d gain ls lt).report = v.report ∧ (v.stepped d gain ls lt).counter = v.counter := by
  unfold Tsv.stepped
  rw [brake_closeTally]
  exact ⟨rfl, rfl, rfl, rfl⟩

theorem stepped_vc :
    (v.stepped d gain ls lt).step = stepFor v.order v.vc v.brake.target
    ∧ (v.stepped d gain ls lt).vc
        = stepVc v.vc v.brake.target (stepFor v.order v.vc v.brake.target) (v.supply.satFlag || v.takeup.satFlag) := by
  rw [← stepFor_brake]
  unfold Tsv.stepped
  rw [brake_closeTally]
  exact ⟨rfl, rfl⟩

/-- Everything of the servo that an expiry leaves, or sets from the tally just closed. -/
theorem expire_kept :
    let w := v.expire d gain ls lt
    w.target = v.brake.target ∧ w.counter = v.counter ∧ w.tally = 0 ∧ w.counted = false ∧ w.vcPeriod = w.vc
    ∧ w.stall = (v.closeTally d).stall ∧ w.stallDue = (v.closeTally d).stallDue
    ∧ w.windowReport = windowAt d ls lt ∧ w.glitches = v.glitches ∧ w.glitchDue = v.glitchDue ∧ w.lastPair = v.lastPair
    ∧ w.lpLine = v.lpLine ∧ w.lp = v.lp ∧ w.lpDue = v.lpDue ∧ w.eotLine = v.eotLine ∧ w.eot = v.eot ∧ w.eotDue = v.eotDue
    ∧ w.eotPassed = v.eotPassed ∧ w.eotPos = v.eotPos := by
  intro w
  have hw : w = _ := complete_frame (v.stepped d gain ls lt)
  rw [hw]
  unfold Tsv.stepped
  rw [brake_closeTally]
  exact ⟨rfl, rfl, rfl, rfl, rfl, rfl, rfl, rfl, rfl, rfl, rfl, rfl, rfl, rfl, rfl, rfl, rfl, rfl, rfl⟩

theorem expire_vc :
    (v.expire d gain ls lt).step = (v.stepped d gain ls lt).step
    ∧ (v.expire d gain ls lt).vc = (v.stepped d gain ls lt).vc := by
  rw [expire_eq, complete_frame]
  exact ⟨rfl, rfl⟩

end

theorem periodExpiry_tsv (ls lt : Nat) (s : State) :
    (s.periodExpiry ls lt).tsv = s.tsv.expire s.dsq.deck s.dsq.params.gain ls lt := by
  unfold State.periodExpiry State.reportWhen
  dsimp only
  repeat' split
  all_goals rfl

/-- The step A (R25). -/
theorem stepFor_eq (o : Order) (vc target : Int) :
    stepFor o vc target = if o = .faultRamp then (160 : Int)
      else if o.isFast = true ∨ 400 < vc.natAbs ∨ 400 < target.natAbs then 16 else 80 := by
  simp [stepFor, or_assoc]

/-- The stall test (R37): the count, and when its report is due. -/
theorem closeTally_stall (d : Deck) (v : Tsv) :
    let stalled := 64 ≤ v.vcPeriod.natAbs ∧ v.counted = false
    (stalled → (v.closeTally d).stall = min 50 (v.stall + 1)) ∧ (¬ stalled → (v.closeTally d).stall = 0)
    ∧ ((v.closeTally d).stallDue = true ↔
        v.stallDue = true ∨ (stalled ∧ v.stall + 1 = 50 ∧ d ∉ [.unloaded, .faultedSoft, .faultedHard])) := by
  intro stalled
  have hs : (decide (64 ≤ v.vcPeriod.natAbs) && !v.counted) = true ↔ stalled := by simp [stalled]
  rw [← detectsTach_iff]
  refine ⟨fun h => ?_, fun h => ?_, ?_⟩
  · exact if_pos (hs.mpr h)
  · exact if_neg (mt hs.mp h)
  · rw [← hs]
    simp [Tsv.closeTally, Config.stallMax, and_assoc]

theorem windowAt_iff (d : Deck) (ls lt : Nat) : windowAt d ls lt = true ↔
    (d = .loopForm ∧ 448 ≤ ls ∧ ls ≤ 576 ∧ 448 ≤ lt ∧ lt ≤ 576) ∨ (d = .windOff ∧ ls < 64 ∧ lt < 64) := by
  cases d <;> simp [windowAt, loopFormed, and_assoc]

/-- The braking test by the order in force (R29). -/
theorem brake_move {v : Tsv} {m : MoveRec} {i : Issuer} (h : v.order = .move m i) :
    (m.latch = true → v.brake = { v with target := 0 })
    ∧ (m.latch = false → v.distance m.target m.forward ≤ dstop v.vc.natAbs (stepFor v.order v.vc v.target).toNat →
        v.brake = { v with target := 0, order := .move { m with latch := true } i })
    ∧ (m.latch = false → ¬ v.distance m.target m.forward ≤ dstop v.vc.natAbs (stepFor v.order v.vc v.target).toNat →
        v.brake = { v with target := signed m.forward m.speed.value }) := by
  unfold Tsv.brake
  rw [h]
  refine ⟨fun hl => if_pos hl, fun hl hd => ?_, fun hl hd => ?_⟩
  · exact (if_neg (by simp [hl])).trans (if_pos hd)
  · exact (if_neg (by simp [hl])).trans (if_neg hd)

theorem brake_other {v : Tsv} (h : ∀ m i, v.order ≠ .move m i) : v.brake = v := by
  unfold Tsv.brake
  split
  · exact absurd ‹_› (h _ _)
  · rfl

/-- Settles O12. -/
theorem periodExpiryStepsTheCapstan : Obligations.PeriodExpiryStepsTheCapstan := by
  intro s ls lt hr
  refine ⟨_, taken_running _ hr, ?_⟩
  intro v hold fast stepA stalled
  rw [periodExpiry_tsv]
  generalize hgain : s.dsq.params.gain = gain
  have hA : ∀ target, stepFor v.order v.vc target = stepA target := fun target => by
    rw [stepFor_eq]
    dsimp only [stepA, fast]
    cases v.order <;> rfl
  obtain ⟨htarget, -, -, hcounted, hvcp, hstall, hdue, hwindow, hkept⟩ :=
    expire_kept s.dsq.deck gain (loopSample ls) (loopSample lt) v
  obtain ⟨hs₁, hs₂, hs₃⟩ := closeTally_stall s.dsq.deck v
  obtain ⟨hso, hst, hsr, hsc⟩ := stepped_order_target s.dsq.deck gain (loopSample ls) (loopSample lt) v
  obtain ⟨hes, hev⟩ := expire_vc s.dsq.deck gain (loopSample ls) (loopSample lt) v
  obtain ⟨hss, hsv⟩ := stepped_vc s.dsq.deck gain (loopSample ls) (loopSample lt) v
  rw [hdue, hwindow, hstall, windowAt_iff]
  refine ⟨?_, ?_, hvcp, hcounted, hs₁, hs₂, hs₃, Iff.rfl, fun m i ho hl hd => ?_, fun m i ho hl hd => ?_,
    fun m i ho hl => ?_, fun c f i ho => ?_, fun f i ho => ?_, fun ho => ?_, fun ho => ?_, hkept⟩
  · rw [hes, hss, htarget, hA]
  · rw [hev, hes, hss, hsv, htarget]
  · rw [← hA] at hd
    have hb := (brake_move ho).2.1 hl hd
    have hord : (v.stepped s.dsq.deck gain (loopSample ls) (loopSample lt)).order = .move { m with latch := true } i := by
      rw [hso, hb]
    refine ⟨by rw [htarget, hb], ?_⟩
    rw [expire_eq, ← hsr, ← hsc, ← hord]
    exact complete_ends (fun h0 => (complete_of_zero h0).1 { m with latch := true } i hord rfl)
  · rw [← hA] at hd
    have hb := (brake_move ho).2.2 hl (by omega)
    have hord := hso.trans (show v.brake.order = v.order by rw [hb])
    refine ⟨by rw [htarget, hb], ?_⟩
    rw [expire_eq, (complete_stands _).1 m i (hord.trans ho) hl]
    exact ⟨hord, hsr⟩
  · have hb := (brake_move ho).1 hl
    have hord := hso.trans (show v.brake.order = v.order by rw [hb])
    refine ⟨by rw [htarget, hb], ?_⟩
    rw [expire_eq, ← hsr, ← hsc, ← hord]
    exact complete_ends (fun h0 => (complete_of_zero h0).1 _ _ (hord.trans ho) hl)
  · have hb : v.brake = v := brake_other (by simp [ho])
    rw [hb] at hso htarget
    refine ⟨htarget, ?_⟩
    rw [expire_eq, (complete_stands _).2.1 c f i (hso.trans ho)]
    exact ⟨hso, hsr⟩
  · have hb : v.brake = v := brake_other (by simp [ho])
    rw [hb] at hso htarget
    refine ⟨htarget, ?_⟩
    rw [expire_eq, ← hsr, ← hso]
    exact complete_ends (fun h0 => (complete_of_zero h0).2.1 _ _ (hso.trans ho))
  · have hb : v.brake = v := brake_other (by simp [ho])
    rw [hb] at hso htarget
    refine ⟨htarget, ?_⟩
    rw [expire_eq, ← hsr, ← hso]
    exact complete_ends (fun h0 => (complete_of_zero h0).2.2 (hso.trans ho))
  · have hb : v.brake = v := brake_other (by simp [ho])
    rw [hb] at hso htarget
    refine ⟨htarget, ?_⟩
    rw [expire_eq, (complete_stands _).2.2 (hso.trans ho)]
    exact ⟨hso.trans ho, hsr⟩

end Sys2Proof.Machine

/-! PROOF. The period expiry at a reel, by its command mode (R43, R44, R47, R50 to R58), and the reports and the search travel of
the expiry. -/

namespace Sys2Proof.Machine

/-! ## One reel -/

section
variable (w : Reel) (d : Deck) (vc counter : Int) (gain l : Nat) (r : ReelState)

/-- The sum of a regulated command with its two parts written out (R52 to R54). -/
def reelSum : Int :=
  (match w with
    | .supply => rna (vc * 1024) r.pack.natAbs
    | .takeup => -rna (vc * 1024) r.pack.natAbs) - rna (gain * ((l : Int) - 512)) 64

theorem commandSum_eq : commandSum w vc r.pack gain l = reelSum w vc gain l r := by
  cases w <;> rfl

/-- The limit changes the sum exactly beyond ±160 (R54). -/
theorem limitCommand_eq_iff (x : Int) : limitCommand x = x ↔ ¬ (x < -160 ∨ 160 < x) := by
  show max (-160) (min 160 x) = x ↔ _
  omega

theorem loopInRange_eq_false (n : Nat) : (!loopInRange n) = true ↔ n < 64 ∨ 960 < n := by
  simp [loopInRange]

theorem loopFormed_iff (n : Nat) : loopFormed n = true ↔ 448 ≤ n ∧ n ≤ 576 := by simp [loopFormed]

/-- The accumulator 0 and both snapshots of this expiry (R47, R50). -/
def Restarted (r' : ReelState) : Prop := r'.acc = 0 ∧ r'.capSnap = counter ∧ r'.loopSnap = l

/-- A reel out of regulation: no saturation, no measurement. -/
def Calm (r' : ReelState) : Prop :=
  r'.satFlag = false ∧ r'.satCount = 0 ∧ r'.satDue = r.satDue ∧ r'.measuring = false ∧ Restarted counter l r'

theorem Restarted.of_restart {x : ReelState} (h : x.loop = l) : Restarted counter l (x.restart counter) := ⟨rfl, rfl, h⟩

/-- In every mode the loop is sampled and the latch follows it; the estimate and the last pair stand. -/
theorem expire_sampled :
    let r' := r.expire w d vc counter gain l
    r'.loop = l ∧ (r'.latchOut = true ↔ l < 64 ∨ 960 < l) ∧ r'.pack = r.pack ∧ r'.last = r.last := by
  rw [← loopInRange_eq_false]
  unfold ReelState.expire ReelState.regulate
  cases modeAt w d r.mode l <;> dsimp only
  case regulated => split <;> split <;> exact ⟨rfl, Iff.rfl, rfl, rfl⟩
  all_goals exact ⟨rfl, Iff.rfl, rfl, rfl⟩

variable {w d vc counter gain l r}

theorem expire_zero (h : modeAt w d r.mode l = .zero) :
    let r' := r.expire w d vc counter gain l
    r'.mode = .zero ∧ r'.cmd = 0 ∧ Calm counter l r r' := by
  unfold ReelState.expire
  rw [h]
  exact ⟨rfl, rfl, rfl, rfl, rfl, rfl, rfl, rfl, rfl⟩

theorem expire_fixed (h : modeAt w d r.mode l = .fixed) :
    let r' := r.expire w d vc counter gain l
    r'.mode = .fixed ∧ r'.cmd = -64 ∧ Calm counter l r r' := by
  unfold ReelState.expire
  rw [h]
  exact ⟨rfl, rfl, rfl, rfl, rfl, rfl, rfl, rfl, rfl⟩

theorem expire_forming (h : modeAt w d r.mode l = .forming) :
    let r' := r.expire w d vc counter gain l
    r'.mode = .forming ∧ r'.cmd = (if l < 448 then 32 else -32) ∧ Calm counter l r r' := by
  unfold ReelState.expire
  rw [h]
  exact ⟨rfl, rfl, rfl, rfl, rfl, rfl, rfl, rfl, rfl⟩

/-- A regulated reel before its measurement is looked at: sampled, commanded, and measuring. -/
def ReelState.regulatedAt (w : Reel) (d : Deck) (vc : Int) (gain l : Nat) (r : ReelState) : ReelState :=
  { ({ r with loop := l, latchOut := !loopInRange l, mode := .regulated } : ReelState).regulate w d vc gain with
    measuring := true }

/-- Under regulation the measurement goes on as it stands, or is restarted. -/
theorem expire_regulated (h : modeAt w d r.mode l = .regulated) :
    r.expire w d vc counter gain l =
      if r.measuring && !(r.regulatedAt w d vc gain l).satFlag then r.regulatedAt w d vc gain l
      else (r.regulatedAt w d vc gain l).restart counter := by
  unfold ReelState.expire
  rw [h]
  rfl

theorem regulatedAt_within (hp : ¬ (reelSum w vc gain l r < -160 ∨ 160 < reelSum w vc gain l r)) :
    r.regulatedAt w d vc gain l = { r with loop := l, latchOut := !loopInRange l, mode := .regulated, measuring := true,
                                           cmd := reelSum w vc gain l r, satFlag := false, satCount := 0 } := by
  have hs := commandSum_eq w vc gain l r
  unfold ReelState.regulatedAt ReelState.regulate
  dsimp only
  rw [if_pos (by rw [hs]; exact (limitCommand_eq_iff _).mpr hp), hs]

theorem regulatedAt_past (hp : reelSum w vc gain l r < -160 ∨ 160 < reelSum w vc gain l r) :
    r.regulatedAt w d vc gain l =
      { r with loop := l, latchOut := !loopInRange l, mode := .regulated, measuring := true,
               cmd := limitCommand (reelSum w vc gain l r), satFlag := true, satCount := min 100 (r.satCount + 1),
               satDue := r.satDue || (r.satCount + 1 = 100 && d.detectsSaturation) } := by
  have hs := commandSum_eq w vc gain l r
  unfold ReelState.regulatedAt ReelState.regulate
  dsimp only
  rw [if_neg (by rw [hs]; exact fun h => (limitCommand_eq_iff _).mp h hp), hs]

/-- The measurement under regulation: restarted at its first expiry and by a limited command, else as it stands (R47). -/
theorem expire_measures (h : modeAt w d r.mode l = .regulated) :
    let r' := r.expire w d vc counter gain l
    let past := reelSum w vc gain l r < -160 ∨ 160 < reelSum w vc gain l r
    r'.measuring = true ∧ (r.measuring = false ∨ past → Restarted counter l r')
      ∧ (r.measuring = true → ¬ past → r'.acc = r.acc ∧ r'.capSnap = r.capSnap ∧ r'.loopSnap = r.loopSnap) := by
  intro r' past
  have hr' : r' = _ := expire_regulated h
  rw [hr']
  by_cases hp : past
  · rw [regulatedAt_past hp, if_neg (by simp)]
    exact ⟨rfl, fun _ => ⟨rfl, rfl, rfl⟩, fun _ hn => absurd hp hn⟩
  · rw [regulatedAt_within hp]
    cases hm : r.measuring
    · exact ⟨rfl, fun _ => ⟨rfl, rfl, rfl⟩, nofun⟩
    · exact ⟨rfl, fun h => absurd h (by simp [hp]), fun _ _ => ⟨rfl, rfl, rfl⟩⟩

/-- The command under regulation, its saturation flag, count and report (R54, R55). -/
theorem expire_commands (h : modeAt w d r.mode l = .regulated) :
    let r' := r.expire w d vc counter gain l
    let sum := reelSum w vc gain l r
    let past := sum < -160 ∨ 160 < sum
    r'.mode = .regulated ∧ r'.cmd = max (-160) (min 160 sum) ∧ (r'.satFlag = true ↔ past)
      ∧ (past → r'.satCount = min 100 (r.satCount + 1)) ∧ (¬ past → r'.satCount = 0)
      ∧ (r'.satDue = true ↔ r.satDue = true ∨ (past ∧ r.satCount + 1 = 100 ∧ d.detectsSaturation = true)) := by
  intro r' sum past
  have hr' : r' = _ := expire_regulated h
  have hsame : ∀ x : ReelState, ∀ b : Bool, (if b then x else x.restart counter).mode = x.mode
      ∧ (if b then x else x.restart counter).cmd = x.cmd ∧ (if b then x else x.restart counter).satFlag = x.satFlag
      ∧ (if b then x else x.restart counter).satCount = x.satCount
      ∧ (if b then x else x.restart counter).satDue = x.satDue := fun x b => by
    cases b <;> exact ⟨rfl, rfl, rfl, rfl, rfl⟩
  obtain ⟨hmode, hcmd, hflag, hcount, hdue⟩ :=
    hsame (r.regulatedAt w d vc gain l) (r.measuring && !(r.regulatedAt w d vc gain l).satFlag)
  rw [hr', hmode, hcmd, hflag, hcount, hdue]
  by_cases hp : past
  · rw [regulatedAt_past hp]
    refine ⟨rfl, rfl, iff_of_true rfl hp, fun _ => rfl, fun hn => absurd hp hn, ?_⟩
    simp [hp]
  · rw [regulatedAt_within hp]
    refine ⟨rfl, ?_, iff_of_false Bool.false_ne_true hp, fun h => absurd h hp, fun _ => rfl, ?_⟩
    · exact ((limitCommand_eq_iff _).mpr hp).symm
    · simp [hp]

end

/-- The command mode by the deck state and the reading (R51, R56). -/
theorem modeAt_regulated {w : Reel} {d : Deck} {m : ReelMode} {l : Nat}
    (h : d ∈ [.loadPointSearch, .rezero, .ready, .rewindOut, .faultStop, .faultedSoft]
      ∨ (d = .loopForm ∧ (m = .forming → 448 ≤ l ∧ l ≤ 576))) : modeAt w d m l = .regulated := by
  rcases h with h | ⟨rfl, h⟩
  · cases d <;> first | rfl | simp at h
  · refine if_neg (fun ⟨hm, hl⟩ => hl ?_)
    exact (loopFormed_iff l).mpr (h hm)

theorem detectsSaturation_of_regulated {d : Deck} (h : d ≠ .vacuumUp) :
    d.detectsSaturation = true ↔ d ∈ [.loopForm, .loadPointSearch, .rezero, .ready, .rewindOut] := by
  cases d <;> first | exact absurd rfl h | decide

/-! ## The expiry of the part -/

theorem expire_reel (d : Deck) (gain ls lt : Nat) (v : Tsv) (w : Reel) :
    (v.expire d gain ls lt).reel w
      = (v.reel w).expire w d (v.expire d gain ls lt).vc v.counter gain (match w with | .supply => ls | .takeup => lt) := by
  have hw := complete_frame (v.stepped d gain ls lt)
  rw [← expire_eq] at hw
  rw [hw]
  unfold Tsv.stepped
  rw [brake_closeTally]
  cases w <;> rfl

theorem expire_presents (d : Deck) (gain ls lt : Nat) (v : Tsv) :
    let w := v.expire d gain ls lt
    w.capCmd = BitVec.ofInt 12 w.vc ∧ w.srlCmd = BitVec.ofInt 9 w.supply.cmd ∧ w.trlCmd = BitVec.ofInt 9 w.takeup.cmd
      ∧ w.strobes = v.strobes + 1 := by
  intro w
  have hw : w = _ := complete_frame (v.stepped d gain ls lt)
  rw [hw]
  unfold Tsv.stepped
  rw [brake_closeTally]
  exact ⟨rfl, rfl, rfl, rfl⟩

theorem detectsLoopOut_iff (d : Deck) : d.detectsLoopOut = true ↔ d ∈ [.ready, .rewindOut, .faultStop] := by
  cases d <;> decide

theorem goesOut_iff (l : Nat) (r : ReelState) : r.goesOut l = true ↔ r.latchOut = false ∧ (l < 64 ∨ 960 < l) := by
  rw [← loopInRange_eq_false]
  simp [ReelState.goesOut]

theorem reportWhen_faults (b : Bool) (x : FaultReport) (s : State) :
    (s.reportWhen b x).dsq.faults = s.dsq.faults ++ (if b then [x] else []) := by
  cases b
  · exact (List.append_nil _).symm
  · rfl

theorem reportWhen_searchTravel (b : Bool) (x : FaultReport) (s : State) :
    (s.reportWhen b x).dsq.searchTravel = s.dsq.searchTravel := by cases b <;> rfl

/-- The tally is counted in the direction of the search that runs (R7, R12). -/
theorem addTravel_searchTravel (tally : Int) (q : Dsq) : (q.addTravel tally).searchTravel = q.searchTravel
    + (if q.search = some ⟨.load, .running⟩ ∨ q.search = some ⟨.rezeroForward, .running⟩ then tally
       else if q.search = some ⟨.rezeroReverse, .running⟩ then -tally else 0) := by
  unfold Dsq.addTravel
  split <;> rename_i h
  · simp [h]
  · simp [h]
  · simp [h, sub_eq_add_neg]
  · rename_i hload hfwd
    rw [if_neg (not_or.mpr ⟨hload, hfwd⟩), if_neg h, add_zero]

theorem addTravel_frame (tally : Int) (q : Dsq) :
    q.addTravel tally = { q with searchTravel := (q.addTravel tally).searchTravel } := by
  unfold Dsq.addTravel
  split <;> rfl

theorem addTravel_faults (tally : Int) (q : Dsq) : (q.addTravel tally).faults = q.faults := by
  rw [addTravel_frame]

theorem periodExpiry_frame (ls lt : Nat) (s : State) :
    s.periodExpiry ls lt =
      { s with tsv := (s.periodExpiry ls lt).tsv
               dsq := { s.dsq with searchTravel := (s.periodExpiry ls lt).dsq.searchTravel
                                   faults := (s.periodExpiry ls lt).dsq.faults } } := by
  have hq := addTravel_frame s.tsv.tally s.dsq
  generalize hx : (s.dsq.addTravel s.tsv.tally).searchTravel = x at hq
  unfold State.periodExpiry State.reportWhen State.onDsq
  dsimp only
  rw [hq]
  repeat' split
  all_goals rfl

theorem loopSample_eq {n : Nat} (h : n ≤ 1023) : loopSample n = n := Nat.mod_eq_of_lt (by omega)

/-- Settles O11: each mode of a reel by its lemma, and the reports by the latch of their column. -/
theorem periodExpiryRegulatesTheReels : Obligations.PeriodExpiryRegulatesTheReels := by
  intro s ls lt hr hls hlt d bad window
  refine ⟨_, taken_running _ hr, ?_⟩
  rw [loopSample_eq hls, loopSample_eq hlt]
  refine ⟨fun w => ?_, ?_, ?_, ?_⟩
  · intro l r r' ff sum past regulated restarted calm
    have hr' : r' = r.expire w d (s.periodExpiry ls lt).tsv.vc s.tsv.counter s.dsq.params.gain l := by
      have hw := expire_reel d s.dsq.params.gain ls lt s.tsv w
      rw [← periodExpiry_tsv] at hw
      exact hw
    have hsum : sum = reelSum w (s.periodExpiry ls lt).tsv.vc s.dsq.params.gain l r := rfl
    have hreg : regulated → modeAt w d r.mode l = .regulated := modeAt_regulated
    obtain ⟨hloop, hlatch, hpack, hlast⟩ :=
      expire_sampled w d (s.periodExpiry ls lt).tsv.vc s.tsv.counter s.dsq.params.gain l r
    rw [← hr'] at hloop hlatch hpack hlast
    refine ⟨hloop, hlatch, hpack, hlast, fun h => ?_, fun h => ?_, fun h => ?_, fun h hw => ?_, fun h hm hn => ?_⟩
    · have hmeasures := expire_measures (vc := (s.periodExpiry ls lt).tsv.vc) (counter := s.tsv.counter)
        (gain := s.dsq.params.gain) (hreg h)
      rwa [← hr'] at hmeasures
    · have hcommands := expire_commands (vc := (s.periodExpiry ls lt).tsv.vc) (counter := s.tsv.counter)
        (gain := s.dsq.params.gain) (hreg h)
      have hd : d ≠ .vacuumUp := by rintro hd; simp [regulated, hd] at h
      rw [← hr', detectsSaturation_of_regulated hd] at hcommands
      exact hcommands
    · suffices hm : modeAt w d r.mode l = .zero by
        have hz := expire_zero (vc := (s.periodExpiry ls lt).tsv.vc) (counter := s.tsv.counter)
          (gain := s.dsq.params.gain) hm
        rwa [← hr'] at hz
      rcases h with h | ⟨h, rfl⟩
      · revert h
        cases d <;> simp [modeAt]
      · rw [h]; rfl
    · suffices hm : modeAt w d r.mode l = .fixed by
        have hz := expire_fixed (vc := (s.periodExpiry ls lt).tsv.vc) (counter := s.tsv.counter)
          (gain := s.dsq.params.gain) hm
        rwa [← hr'] at hz
      rw [h, hw]; rfl
    · suffices hf : modeAt w d r.mode l = .forming by
        have hz := expire_forming (vc := (s.periodExpiry ls lt).tsv.vc) (counter := s.tsv.counter)
          (gain := s.dsq.params.gain) hf
        rwa [← hr'] at hz
      rw [h]
      exact if_pos ⟨hm, mt (loopFormed_iff l).mp hn⟩
  · have hfaults : ((s.onDsq (Dsq.addTravel s.tsv.tally)).onTsv (Tsv.expire d s.dsq.params.gain ls lt)).dsq.faults
        = s.dsq.faults := addTravel_faults _ _
    unfold State.periodExpiry
    dsimp only
    rw [reportWhen_faults, reportWhen_faults, hfaults]
    simp only [Bool.and_eq_true, detectsLoopOut_iff, goesOut_iff]
    rfl
  · unfold State.periodExpiry
    dsimp only
    rw [reportWhen_searchTravel, reportWhen_searchTravel]
    exact addTravel_searchTravel _ _
  · obtain ⟨hcap, hsrl, htrl, hstrobes⟩ := expire_presents d s.dsq.params.gain ls lt s.tsv
    obtain ⟨-, hcounter, htally, -⟩ := expire_kept d s.dsq.params.gain ls lt s.tsv
    have hv := periodExpiry_tsv ls lt s
    refine ⟨?_, ?_, ?_, ?_, ?_, ?_, periodExpiry_frame ls lt s⟩ <;> rw [hv]
    · exact hcap
    · exact hsrl
    · exact htrl
    · exact hstrobes
    · exact htally
    · exact hcounter

end Sys2Proof.Machine

/-! PROOF. Headers and command codes, the check fields, and the block seen at the read head (R113, R115, R116, R173). -/

namespace Sys2Proof.Machine

/-! ## Headers and codes -/

theorem ofCode_code (c : Cmd) : Cmd.ofCode c.code = some c := by cases c <;> decide

theorem mem_cmd_all (c : Cmd) : c ∈ Cmd.all := by cases c <;> decide

theorem ofCode_isSome_iff (v : Byte) : (Cmd.ofCode v).isSome = true ↔ ∃ c : Cmd, c.code = v := by
  constructor
  · intro h
    obtain ⟨c, hc⟩ := Option.isSome_iff_exists.mp h
    exact ⟨c, by simpa using List.find?_some hc⟩
  · rintro ⟨c, rfl⟩
    rw [ofCode_code]; rfl

/-- The codes of Table 10-3 are 01 to 0A and 10 to 19. -/
theorem exists_code_iff (v : Byte) :
    (∃ c : Cmd, c.code = v) ↔ (0x01#8 ≤ v ∧ v ≤ 0x0A#8) ∨ (0x10#8 ≤ v ∧ v ≤ 0x19#8) := by
  constructor
  · rintro ⟨c, rfl⟩
    cases c <;> decide
  · intro h
    have hall : ∀ k : Nat, k < 26 → (1 ≤ k ∧ k ≤ 10) ∨ 16 ≤ k → ∃ c ∈ Cmd.all, c.code = BitVec.ofNat 8 k := by decide
    simp only [BitVec.le_def, BitVec.toNat_ofNat] at h
    obtain ⟨c, -, hc⟩ := hall v.toNat (by omega) (by omega)
    exact ⟨c, by rw [hc, BitVec.ofNat_toNat, BitVec.setWidth_eq]⟩

theorem append_bytes32 (x : BitVec 32) :
    x.extractLsb' 24 8 ++ x.extractLsb' 16 8 ++ x.extractLsb' 8 8 ++ x.extractLsb' 0 8 = x := by
  ext i hi
  simp only [BitVec.getElem_append, BitVec.getElem_extractLsb']
  split_ifs <;> exact (congrArg _ (by omega)).trans (BitVec.getLsbD_eq_getElem hi)

theorem append_bytes16 (x : BitVec 16) : x.extractLsb' 8 8 ++ x.extractLsb' 0 8 = x := by
  ext i hi
  simp only [BitVec.getElem_append, BitVec.getElem_extractLsb']
  split_ifs <;> exact (congrArg _ (by omega)).trans (BitVec.getLsbD_eq_getElem hi)

theorem parse_encode (h : Hdr) : Hdr.parse h.encode = h := by
  obtain ⟨code, tag, flags, param, len⟩ := h
  exact congr_arg₂ (Hdr.mk code tag flags) (append_bytes32 param) (append_bytes16 len)

/-- A byte field of an appended pair, taken from its upper or its lower part. -/
theorem extractLsb'_append_upper {m n : Nat} (x : BitVec m) (y : BitVec n) (k : Nat) :
    (x ++ y).extractLsb' (n + k) 8 = x.extractLsb' k 8 := by
  ext i hi
  simp only [BitVec.getElem_extractLsb', BitVec.getLsbD_append]
  rw [if_neg (by omega)]
  exact congrArg _ (by omega)

theorem extractLsb'_append_lower {m : Nat} (x : BitVec m) (y : Byte) : (x ++ y).extractLsb' 0 8 = y := by
  ext i hi
  simp only [BitVec.getElem_extractLsb', BitVec.getLsbD_append, Nat.zero_add, hi, if_true]
  exact BitVec.getLsbD_eq_getElem hi

theorem extractLsb'_byte (x : Byte) : x.extractLsb' 0 8 = x := by
  ext i hi
  simp only [BitVec.getElem_extractLsb', Nat.zero_add]
  exact BitVec.getLsbD_eq_getElem hi

theorem encode_parse {l : List Byte} (h : l.length = 9) : (Hdr.parse l).encode = l := by
  match l, h with
  | [a, b, c, d, e, f, g, x, y], _ =>
    have hd : (d ++ e ++ f ++ g).extractLsb' 24 8 = d :=
      (extractLsb'_append_upper _ g 16).trans ((extractLsb'_append_upper _ f 8).trans
        ((extractLsb'_append_upper _ e 0).trans (extractLsb'_byte d)))
    have he : (d ++ e ++ f ++ g).extractLsb' 16 8 = e :=
      (extractLsb'_append_upper _ g 8).trans ((extractLsb'_append_upper _ f 0).trans (extractLsb'_append_lower d e))
    have hf : (d ++ e ++ f ++ g).extractLsb' 8 8 = f :=
      (extractLsb'_append_upper _ g 0).trans (extractLsb'_append_lower _ f)
    have hx : (x ++ y).extractLsb' 8 8 = x := (extractLsb'_append_upper x y 0).trans (extractLsb'_byte x)
    show [a, b, c, (d ++ e ++ f ++ g).extractLsb' 24 8, (d ++ e ++ f ++ g).extractLsb' 16 8,
      (d ++ e ++ f ++ g).extractLsb' 8 8, (d ++ e ++ f ++ g).extractLsb' 0 8, (x ++ y).extractLsb' 8 8,
      (x ++ y).extractLsb' 0 8] = _
    rw [hd, he, hf, hx, extractLsb'_append_lower, extractLsb'_append_lower]

/-- Settles O42: the fields of a header are bytes of it and bytes again a field; the codes by Table 10-3. -/
theorem headerRoundTrip : Obligations.HeaderRoundTrip :=
  ⟨fun h => ⟨parse_encode h, rfl⟩, fun _ h => encode_parse h, ofCode_code,
    fun v => (ofCode_isSome_iff v).trans (exists_code_iff v)⟩

/-! ## The check fields -/

section
variable {w : Nat} {g : BitVec w}

theorem getLsbD_feedBit (c : BitVec w) (b : Bool) (i : Nat) : (feedBit g c b).getLsbD i =
    ((decide (i < w) && (!decide (i < 1) && c.getLsbD (i - 1))) ^^ ((c.msb != b) && g.getLsbD i)) := by
  unfold feedBit
  split <;> rename_i h <;> simp [h, Bool.and_assoc]

/-- The lowest bit after a step shows the bit that left. -/
theorem getLsbD_feedBit_zero (hg : g.getLsbD 0 = true) (c : BitVec w) (b : Bool) :
    (feedBit g c b).getLsbD 0 = (c.msb != b) := by
  rw [getLsbD_feedBit, hg]
  simp

/-- Two registers that agree in their low bits after a step agreed in all of those but the highest before it. -/
theorem low_of_feedBit (hg : g.getLsbD 0 = true) {c d : BitVec w} {a b : Bool} {n : Nat} (hn : n < w)
    (h : ∀ i < n + 1, (feedBit g c a).getLsbD i = (feedBit g d b).getLsbD i) : ∀ i < n, c.getLsbD i = d.getLsbD i := by
  intro i hi
  have hout : (c.msb != a) = (d.msb != b) := by
    rw [← getLsbD_feedBit_zero hg, ← getLsbD_feedBit_zero hg]
    exact h 0 (by omega)
  have hnext := h (i + 1) (by omega)
  rw [getLsbD_feedBit, getLsbD_feedBit, hout, Bool.xor_left_inj] at hnext
  simpa [show i + 1 < w by omega] using hnext

/-- A step with a given bit loses nothing of the register. -/
theorem feedBit_injective (hg : g.getLsbD 0 = true) {c d : BitVec w} {b : Bool} (h : feedBit g c b = feedBit g d b) :
    c = d := by
  have hw : 0 < w := by
    by_contra h0
    obtain rfl : w = 0 := by omega
    simp at hg
  have hlow := low_of_feedBit (n := w - 1) hg (a := b) (b := b) (c := c) (d := d) (by omega) (fun i _ => by rw [h])
  have hmsb : c.msb = d.msb := by
    have hout := congrArg (fun x => x.getLsbD 0) h
    simp only [getLsbD_feedBit_zero hg] at hout
    simpa using hout
  refine BitVec.eq_of_getLsbD_eq (fun i hi => ?_)
  by_cases hlt : i < w - 1
  · exact hlow i hlt
  · obtain rfl : i = w - 1 := by omega
    rwa [← BitVec.msb_eq_getLsbD_last, ← BitVec.msb_eq_getLsbD_last]

theorem foldl_feedBit_injective (hg : g.getLsbD 0 = true) (l : List Bool) {c d : BitVec w}
    (h : l.foldl (feedBit g) c = l.foldl (feedBit g) d) : c = d := by
  induction l generalizing c d with
  | nil => exact h
  | cons b l ih => exact feedBit_injective hg (ih h)

/-- After no more bits than the register is wide, registers that have become the same agreed in the bits not yet shifted out. -/
theorem foldl_feedBit_low (hg : g.getLsbD 0 = true) : ∀ (l m : List Bool) (c d : BitVec w), l.length = m.length →
    l.length ≤ w → l.foldl (feedBit g) c = m.foldl (feedBit g) d → ∀ i < w - l.length, c.getLsbD i = d.getLsbD i
  | [], [], _, _, _, _, h => fun i _ => congrArg (fun x => BitVec.getLsbD x i) h
  | a :: l, b :: m, c, d, hlen, hw, h => by
    have hlow := foldl_feedBit_low hg l m (feedBit g c a) (feedBit g d b) (Nat.succ.inj hlen) (Nat.le_of_succ_le hw) h
    rw [List.length_cons] at hw ⊢
    exact low_of_feedBit hg (by omega) (fun i hi => hlow i (by omega))

/-- No more bits than the register is wide can be told apart by what they leave in it. -/
theorem foldl_feedBit_bits (hg : g.getLsbD 0 = true) : ∀ (l m : List Bool) (c : BitVec w), l.length = m.length →
    l.length ≤ w → l.foldl (feedBit g) c = m.foldl (feedBit g) c → l = m
  | [], [], _, _, _, _ => rfl
  | a :: l, b :: m, c, hlen, hw, h => by
    have hlow := foldl_feedBit_low hg l m (feedBit g c a) (feedBit g c b) (Nat.succ.inj hlen) (Nat.le_of_succ_le hw) h
    rw [List.length_cons] at hw
    have hout := hlow 0 (by omega)
    rw [getLsbD_feedBit_zero hg, getLsbD_feedBit_zero hg] at hout
    obtain rfl : a = b := by simpa using hout
    rw [foldl_feedBit_bits hg l m (feedBit g c a) (Nat.succ.inj hlen) (Nat.le_of_succ_le hw) h]

/-- A division over bytes tells the bytes apart in which one differs. -/
theorem foldl_bytes_ne (hg : g.getLsbD 0 = true) (hw : 8 ≤ w) {bits : Byte → List Bool} (hlen : ∀ v, (bits v).length = 8)
    (hbits : ∀ v x, bits v = bits x → v = x) (pre post : List Byte) {v x : Byte} (hne : v ≠ x) (c : BitVec w) :
    (pre ++ v :: post).foldl (fun c y => (bits y).foldl (feedBit g) c) c
      ≠ (pre ++ x :: post).foldl (fun c y => (bits y).foldl (feedBit g) c) c := by
  have htail : ∀ (l : List Byte) (c d : BitVec w), l.foldl (fun c y => (bits y).foldl (feedBit g) c) c
      = l.foldl (fun c y => (bits y).foldl (feedBit g) c) d → c = d := by
    intro l
    induction l with
    | nil => exact fun _ _ h => h
    | cons y l ih => exact fun c d h => foldl_feedBit_injective hg (bits y) (ih _ _ h)
  intro h
  rw [List.foldl_append, List.foldl_append, List.foldl_cons, List.foldl_cons] at h
  exact hne (hbits v x (foldl_feedBit_bits hg _ _ _ (by rw [hlen, hlen]) (by rw [hlen]; exact hw) (htail _ _ _ h)))

end

theorem eq_of_bits {v x : Byte} (h : ∀ i : Fin 8, v[i] = x[i]) : v = x :=
  BitVec.eq_of_getElem_eq (fun i hi => h ⟨i, hi⟩)

theorem bitsDown_injective (v x : Byte) (h : bitsDown v = bitsDown x) : v = x := by
  simp only [bitsDown, List.cons.injEq, and_true] at h
  obtain ⟨h₇, h₆, h₅, h₄, h₃, h₂, h₁, h₀⟩ := h
  refine eq_of_bits (fun i => ?_)
  fin_cases i <;> assumption

theorem bitsUp_injective (v x : Byte) (h : bitsUp v = bitsUp x) : v = x := by
  simp only [bitsUp, List.cons.injEq, and_true] at h
  obtain ⟨h₀, h₁, h₂, h₃, h₄, h₅, h₆, h₇⟩ := h
  refine eq_of_bits (fun i => ?_)
  fin_cases i <;> assumption

theorem check16_ne (pre post : List Byte) {v x : Byte} (h : v ≠ x) :
    check16 (pre ++ v :: post) ≠ check16 (pre ++ x :: post) :=
  foldl_bytes_ne (by decide) (by decide) (fun _ => rfl) bitsDown_injective pre post h _

theorem check32_ne (pre post : List Byte) {v x : Byte} (h : v ≠ x) :
    check32 (pre ++ v :: post) ≠ check32 (pre ++ x :: post) := by
  intro he
  refine foldl_bytes_ne (g := 0x04C11DB7#32) (by decide) (by decide) (fun _ => rfl) bitsUp_injective pre post h 0xFFFFFFFF#32 ?_
  have hr := BitVec.not_inj.mp he
  refine BitVec.eq_of_getMsbD_eq (fun i _ => ?_)
  have hi := congrArg (fun y => BitVec.getLsbD y i) hr
  simp only [BitVec.getLsbD_reverse] at hi
  exact hi

/-! ## The block seen -/

/-- A check field shows the check value whole. -/
theorem checkField_injective {k : CheckKind} {l m : List Byte} (h : checkField k l = checkField k m) :
    match k with | .k16 => check16 l = check16 m | .k32 => check32 l = check32 m := by
  cases k
  · simp only [checkField, List.cons.injEq, and_true] at h
    show check16 l = check16 m
    rw [← append_bytes16 (check16 l), ← append_bytes16 (check16 m), h.1, h.2]
  · simp only [checkField, List.cons.injEq, and_true] at h
    obtain ⟨h₀, h₁, h₂, h₃⟩ := h
    show check32 l = check32 m
    rw [← append_bytes32 (check32 l), ← append_bytes32 (check32 m), h₀, h₁, h₂, h₃]

theorem checkField_ne {k : CheckKind} (pre post : List Byte) {v x : Byte} (h : v ≠ x) :
    checkField k (pre ++ v :: post) ≠ checkField k (pre ++ x :: post) := by
  intro he
  have hc := checkField_injective he
  cases k
  · exact check16_ne pre post h hc
  · exact check32_ne pre post h hc

@[simp] theorem length_checkField (k : CheckKind) (l : List Byte) : (checkField k l).length = k.size := by cases k <;> rfl

section
variable {k : CheckKind} {x : Seen} {data field : List Byte}

/-- A block whose bytes are data and a field of the kind's size has that data. -/
theorem dataLen_of_bytes (hc : x.count = x.bytes.length) (hb : x.bytes = data ++ field) (hf : field.length = k.size) :
    x.dataLen k = data.length ∧ x.data k = data ∧ x.bytes.drop (x.dataLen k) = field := by
  have hl : x.dataLen k = data.length := by
    unfold Seen.dataLen
    rw [hc, hb, List.length_append, hf]
    omega
  unfold Seen.data
  rw [hl, hb]
  exact ⟨rfl, List.take_left, List.drop_left⟩

theorem isMark_eq_false (hm : x.mark = false) : x.isMark = false := by simp [Seen.isMark, hm]

/-- Without the mark pattern a check is good exactly when the length is proper and the field is that of the data. -/
theorem good_iff (hm : x.mark = false) :
    x.good k = true ↔ x.lenOk k = true ∧ x.bytes.drop (x.dataLen k) = checkField k (x.data k) := by
  simp [Seen.good, isMark_eq_false hm]

theorem lenOk_iff : x.lenOk k = true ↔ k.size < x.count ∧ x.count - k.size ≤ 16384 ∧ x.limited = false := by
  simp [Seen.lenOk, and_assoc]

end

/-- Settles O31: the data of a block are the bytes before its field. -/
theorem writtenBytesReadBackGood : Obligations.WrittenBytesReadBackGood := by
  intro k x hm hlim hc
  have hwhole : ∀ data : List Byte, 1 ≤ data.length → data.length ≤ 16384 → x.bytes = data ++ checkField k data →
      x.lenOk k = true := by
    intro data h₁ h₂ hb
    have hn : x.count = data.length + k.size := by rw [hc, hb, List.length_append, length_checkField]
    exact lenOk_iff.mpr ⟨by omega, by omega, hlim⟩
  refine ⟨⟨fun hg => ?_, fun ⟨data, h₁, h₂, hb⟩ => ?_⟩, fun data h₁ h₂ hb => ?_⟩
  · obtain ⟨hok, hfield⟩ := (good_iff hm).mp hg
    obtain ⟨hlt, hle, -⟩ := lenOk_iff.mp hok
    have hlen : (x.data k).length = x.count - k.size := by
      unfold Seen.data Seen.dataLen
      rw [List.length_take, hc]
      omega
    exact ⟨x.data k, by omega, by omega, by rw [← hfield]; exact (List.take_append_drop _ _).symm⟩
  · obtain ⟨-, hdata, hdrop⟩ := dataLen_of_bytes hc hb (length_checkField k data)
    exact (good_iff hm).mpr ⟨hwhole data h₁ h₂ hb, by rw [hdrop, hdata]⟩
  · obtain ⟨hlen, hdata, -⟩ := dataLen_of_bytes hc hb (length_checkField k data)
    refine ⟨hdata, ?_, ?_⟩
    · simp only [Seen.reportLen, isMark_eq_false hm, hlen, Bool.false_eq_true, if_false]
      show max 1 (min 16384 data.length) = _
      omega
    · simp [Seen.reportExtent, isMark_eq_false hm, hwhole data h₁ h₂ hb, hlen]

/-- Settles O32: the bytes after the data are the field of other data. -/
theorem aChangedByteFailsTheCheck : Obligations.AChangedByteFailsTheCheck := by
  intro pre post v w hne
  refine ⟨⟨check16_ne pre post hne, check32_ne pre post hne⟩, fun k x hm hc hb => ?_⟩
  obtain ⟨-, hdata, hdrop⟩ := dataLen_of_bytes hc hb (length_checkField k _)
  rw [Bool.eq_false_iff]
  intro hg
  have hfield := ((good_iff hm).mp hg).2
  rw [hdrop, hdata] at hfield
  exact checkField_ne pre post hne hfield

end Sys2Proof.Machine

/-! PROOF. The directory: what a lookup answers (R105) and what a traversal report does (R98, R102 to R104). -/

namespace Sys2Proof.Machine

/-! ## Lookup -/

theorem num_injOn {l : List Entry} (h : l.Pairwise Entry.before) {e f : Entry} (he : e ∈ l) (hf : f ∈ l)
    (hn : e.num = f.num) : e = f := by
  have hnd : (l.map Entry.num).Nodup := List.pairwise_map.mpr (h.imp (fun hb => Nat.ne_of_lt hb.1))
  exact List.inj_on_of_nodup_map hnd he hf hn

/-- The last entry of an ordered list is the one of the largest number. -/
theorem getLast?_eq_some_iff {l : List Entry} (h : l.Pairwise Entry.before) (e : Entry) :
    l.getLast? = some e ↔ e ∈ l ∧ ∀ x ∈ l, x.num ≤ e.num := by
  constructor
  · intro hl
    obtain ⟨m, rfl⟩ := List.getLast?_eq_some_iff.mp hl
    refine ⟨by simp, fun x hx => ?_⟩
    rcases List.mem_append.mp hx with hx | hx
    · exact Nat.le_of_lt ((List.pairwise_append.mp h).2.2 x hx e (by simp)).1
    · rw [List.mem_singleton.mp hx]
  · rintro ⟨he, hmax⟩
    obtain ⟨m, f, rfl⟩ : ∃ m f, l = m ++ [f] := ⟨_, _, (List.dropLast_append_getLast (List.ne_nil_of_mem he)).symm⟩
    have hf : f ∈ m ++ [f] := by simp
    rcases List.mem_append.mp he with hm | hm
    · exact absurd (hmax f hf) (Nat.not_le.mpr ((List.pairwise_append.mp h).2.2 e hm f (by simp)).1)
    · rw [List.mem_singleton.mp hm, List.getLast?_concat]

theorem getLast?_below_iff {d : Bdr} (h : d.wf) (n : Nat) (e : Entry) :
    (d.entries.filter (fun e => e.num ≤ n)).getLast? = some e
      ↔ e ∈ d.entries ∧ e.num ≤ n ∧ ∀ x ∈ d.entries, x.num ≤ n → x.num ≤ e.num := by
  rw [getLast?_eq_some_iff (h.1.filter _)]
  simp [and_assoc]

/-- Settles O40: the last of the entries at or below the number is the one of the largest number. -/
theorem lookupFindsTheEntryBelow : Obligations.LookupFindsTheEntryBelow := by
  intro d n hwf
  have hlast := getLast?_below_iff hwf n
  cases hl : (d.entries.filter (fun e => e.num ≤ n)).getLast? with
  | none =>
    have hL : d.lookup n = .loadPoint := by simp only [Bdr.lookup, hl]
    have hnone : ∀ x ∈ d.entries, n < x.num := by
      have hnil := List.getLast?_eq_none_iff.mp hl
      simpa [List.filter_eq_nil_iff] using hnil
    rw [hL]
    refine ⟨fun e => ⟨nofun, fun ⟨he, hn⟩ => ?_⟩, fun e => ⟨nofun, fun ⟨he, hn, _⟩ => ?_⟩, iff_of_true rfl hnone⟩
    · exact absurd (hnone e he) (by omega)
    · exact absurd (hnone e he) (by omega)
  | some f =>
    obtain ⟨hf, hle, hmax⟩ := (hlast f).mp hl
    have hL : d.lookup n = if f.num = n then .exact f else .lower f := by simp only [Bdr.lookup, hl]
    have huniq : ∀ e ∈ d.entries, e.num ≤ n → (∀ x ∈ d.entries, x.num ≤ n → x.num ≤ e.num) → f = e :=
      fun e he hn hm => num_injOn hwf.1 hf he (Nat.le_antisymm (hm f hf hle) (hmax e he hn))
    have hnotAll : ¬ ∀ x ∈ d.entries, n < x.num := fun h => absurd (h f hf) (by omega)
    rw [hL]
    by_cases hn : f.num = n
    · rw [if_pos hn]
      refine ⟨fun e => ⟨?_, fun ⟨he, hne⟩ => ?_⟩, fun e => ⟨nofun, fun ⟨he, hlt, hm⟩ => ?_⟩, iff_of_false nofun hnotAll⟩
      · rintro ⟨⟩; exact ⟨hf, hn⟩
      · exact congrArg _ (num_injOn hwf.1 hf he (hn.trans hne.symm))
      · exact absurd (huniq e he hlt.le hm) (fun h => absurd hlt (by rw [← h]; omega))
    · rw [if_neg hn]
      refine ⟨fun e => ⟨nofun, fun ⟨he, hne⟩ => ?_⟩, fun e => ⟨?_, fun ⟨he, hlt, hm⟩ => ?_⟩, iff_of_false nofun hnotAll⟩
      · have := hmax e he (by omega)
        omega
      · rintro ⟨⟩; exact ⟨hf, by omega, hmax⟩
      · exact congrArg _ (huniq e he hlt.le hm)

/-! ## Traversal -/

theorem takes_iff (d : Bdr) (k : Nat) : d.takes k = true ↔ ¬ ((∃ e, d.eod = some e ∧ e ≤ k) ∨ d.known + 1 < k) := by
  unfold Bdr.takes
  cases d.eod <;> simp

theorem placeEntry_eq (e : Entry) (l : List Entry) : placeEntry e l =
    l.filter (fun x => x.num < e.num ∧ x.start < e.start) ++ e :: l.filter (fun x => e.num < x.num ∧ e.start < x.start) := by
  simp only [placeEntry, Bool.decide_and]

/-- A report that is taken, from the known limit it leaves on (R102). -/
theorem traverse_of_takes {d : Bdr} {t : Traversal} (h : d.takes t.num = true) : d.traverse t =
    let u : Bdr := { d with known := if (t.num : Int) = d.known + 1 then (t.num : Int) else d.known }
    match d.entry t.num with
    | some old => { u with entries := retraverse t old d.entries }
    | none => if t.num % d.stride = 0 then u.add t else u := by
  have hle : (t.num : Int) ≤ d.known + 1 := by
    have := (takes_iff d t.num).mp h
    omega
  have hk : max d.known t.num = if (t.num : Int) = d.known + 1 then (t.num : Int) else d.known := by
    split <;> omega
  unfold Bdr.traverse
  rw [if_pos h, hk]
  rfl

/-- Settles O41: by the tests of the report in order, then by whether the block has an entry and the list is full. -/
theorem fullDirectoryDecimates : Obligations.FullDirectoryDecimates := by
  intro d t u refused known new placed
  have hplaced : ∀ l, placed l = placeEntry t.entry l := fun l => (placeEntry_eq t.entry l).symm
  refine ⟨fun h => ?_, fun h old ho => ⟨fun hd => ?_, fun hd => ?_⟩, fun h hn => ⟨fun hm => ?_, fun hm hl => ?_, fun hm hl hs => ?_⟩⟩
  · exact if_neg (fun ht => (takes_iff d t.num).mp ht h)
  all_goals
    have hu : u = _ := traverse_of_takes ((takes_iff d t.num).mpr h)
    rw [hu]
  · rw [ho]
    have hr : retraverse t old d.entries = _ := if_neg (by show ¬ ((200 : Int) < _); omega)
    simp only [hr]
    rfl
  · rw [ho]
    have hr : retraverse t old d.entries = _ := if_pos (by show (200 : Int) < _; omega)
    simp only [hr, hplaced]
    rfl
  · rw [hn]
    exact if_neg hm
  · rw [hn]
    simp only [if_pos hm]
    have hfull : ¬ Config.maxEntries ≤ d.entries.length := Nat.not_le.mpr hl
    simp only [Bdr.add, if_neg hfull, if_pos (show t.num % d.stride = 0 ∧ d.entries.length < Config.maxEntries from ⟨hm, hl⟩),
      hplaced]
    rfl
  · intro kept
    rw [hn]
    simp only [if_pos hm]
    have hfull : Config.maxEntries ≤ d.entries.length := hl
    have hstride : d.stride < Config.maxStride := hs
    simp only [Bdr.add, if_pos hfull, Bdr.decimate, if_pos hstride, hplaced]
    split <;> rfl

end Sys2Proof.Machine

/-! PROOF. The outputs and the input lines of the deck sequencer, the travel limits and the write gate (R7, R13, R14, R16 to
R20, R117, R119). -/

namespace Sys2Proof.Machine

/-- Settles O22: by the deck state. -/
theorem outputsFollowTheDeckState : Obligations.OutputsFollowTheDeckState := by
  intro s hr d
  have hlamps : s.lamps = 
      { rdy := (d = .ready), onl := s.dsq.online
        ld := (d = .vacuumUp || d = .loopForm || d = .loadPointSearch || (d = .rezero && s.dsq.flash))
        flt := (d = .faultedSoft || ((d = .faultStop || d = .faultedHard) && s.dsq.flash))
        fpr := d.isLoaded && !s.dsq.writeEnable } := by
    simp only [State.lamps, hr, Bool.not_false, Bool.true_and]
    rfl
  rw [hlamps]
  refine ⟨?_, ?_, by simp, Iff.rfl, by simp [or_assoc], by simp, ?_⟩
  · cases d <;> decide
  · cases d <;> decide
  · cases d <;> simp [Deck.isLoaded]

/-! ## The travel limits -/

theorem searchFailed_eq (p : SearchPass) (s : State) : s.searchFailed p =
    { s with dsq := { s.dsq with search := some ⟨p, .failed⟩ },
             tsv := { s.tsv with order := .stop s.tsv.order.isFast .deck, target := 0, report := none } } := rfl

/-- Settles O25: each limit by its own test. -/
theorem travelLimitsFailTheSearch : Obligations.TravelLimitsFailTheSearch := by
  intro s hr stopped
  simp only [Becomes, exec, execLoadPointSearchLimit, execRezeroTravelLimit, taken_running _ hr, searchFailed_eq]
  refine ⟨fun h hl => ?_, fun h hl => ?_, fun h => ?_, fun h hl => ?_, fun h hl => ?_, fun h hl => ?_, fun h hl => ?_,
    fun h₁ h₂ => ?_⟩
  · rw [if_pos ⟨h, hl⟩]
  · rw [if_neg (fun hc => absurd hc.2 (Int.not_le.mpr hl))]
  · rw [if_neg (fun hc => h hc.1)]
  · rw [if_pos ⟨h, hl⟩]
  · rw [if_neg (fun hc => absurd hc.2 (Int.not_le.mpr hl)), if_neg (by rw [h]; exact nofun)]
  · rw [if_neg (by rw [h]; exact nofun), if_pos ⟨h, hl⟩]
  · rw [if_neg (by rw [h]; exact nofun), if_neg (fun hc => absurd hc.2 (Int.not_le.mpr hl))]
  · rw [if_neg (fun hc => h₁ hc.1), if_neg (fun hc => h₂ hc.1)]

/-! ## Input lines -/

theorem flashes_iff (d : Deck) : d.flashes = true ↔ d = .rezero ∨ d = .faultStop ∨ d = .faultedHard := by
  cases d <;> decide

theorem detectsVacuumLoss_iff (d : Deck) : d.detectsVacuumLoss = true ↔
    d ∈ [.loopForm, .loadPointSearch, .rezero, .ready, .rewindOut, .faultStop, .faultedSoft] := by
  cases d <;> decide

theorem reportWhen_eq (b : Bool) (x : FaultReport) (s : State) :
    s.reportWhen b x = { s with dsq := { s.dsq with faults := s.dsq.faults ++ if b then [x] else [] } } := by
  cases b
  · simp [State.reportWhen]
  · rfl

section
variable {s : State}

theorem vacuum_falls (hr : s.inReset = false) (r : Reel) (h : s.dsq.vac r = true) :
    Becomes (.vacuumArrival r false) s
      ((s.onDsq (Dsq.setVac r false)).reportWhen s.dsq.deck.detectsVacuumLoss FaultKind.vacuumLoss.report) := by
  rw [Becomes, exec, execVacuumArrival, taken_running _ hr, if_neg (by rw [h]; exact Bool.noConfusion)]
  cases r <;> rfl

theorem vacuum_rises (hr : s.inReset = false) (r : Reel) (h : s.dsq.vac r = false) :
    Becomes (.vacuumArrival r true) s
      (let t := s.onDsq (Dsq.setVac r true)
       if t.dsq.deck = .vacuumUp ∧ t.dsq.vacS ∧ t.dsq.vacT then t.enterLoopForm else t) := by
  rw [Becomes, exec, execVacuumArrival, taken_running _ hr, if_neg (by rw [h]; exact Bool.noConfusion)]
  rfl

theorem drive_arrives (hr : s.inReset = false) (l : DriveLine) (level : Bool) (h : s.dsq.driveLine l ≠ level) :
    Becomes (.driveArrival l level) s
      ((s.onDsq (Dsq.setDriveLine l level)).reportWhen (driveFails l level && s.dsq.deck ≠ .unloaded)
        FaultKind.drive.report) := by
  rw [Becomes, exec, execDriveArrival, taken_running _ hr, if_neg h]

end

/-- Settles O26: each line by what its arrival does. -/
theorem deckInputLines : Obligations.DeckInputLines := by
  intro s hr d loss fails
  have hloss : (if s.dsq.deck.detectsVacuumLoss then [FaultKind.vacuumLoss.report] else []) = loss :=
    if_congr (detectsVacuumLoss_iff _) rfl rfl
  have hfails : (if (true && decide (s.dsq.deck ≠ .unloaded)) = true then [FaultKind.drive.report] else []) = fails := by
    by_cases hd : s.dsq.deck = .unloaded <;> simp [fails, d, hd]
  refine ⟨fun h => ?_, fun h => ?_, fun h => ?_, fun h => ?_, fun h hd => ?_, fun h hd => ?_, fun h => ?_, fun h => ?_,
    fun h => ?_, fun h => ?_, fun level => ?_, ?_, ?_⟩
  · rw [Becomes, exec, execLampFlashExpiry, taken_running _ hr, if_pos ((flashes_iff _).mpr h)]; rfl
  · rw [Becomes, exec, execLampFlashExpiry, taken_running _ hr, if_neg (mt (flashes_iff _).mp h)]
  · have ht := vacuum_falls hr .supply h
    rw [reportWhen_eq, hloss] at ht
    exact ht
  · have ht := vacuum_falls hr .takeup h
    rw [reportWhen_eq, hloss] at ht
    exact ht
  · have ht := vacuum_rises hr .supply h
    rw [if_neg ?_] at ht
    · exact ht
    · rintro ⟨hv, -, hT⟩
      rcases hd with hd | hd
      · exact hd hv
      · exact absurd (hT.symm.trans hd) Bool.noConfusion
  · have ht := vacuum_rises hr .takeup h
    rw [if_neg ?_] at ht
    · exact ht
    · rintro ⟨hv, hS, -⟩
      rcases hd with hd | hd
      · exact hd hv
      · exact absurd (hS.symm.trans hd) Bool.noConfusion
  · have ht := drive_arrives hr .ampRdy false (by show s.dsq.ampRdy ≠ _; rw [h]; exact Bool.noConfusion)
    rw [reportWhen_eq] at ht
    exact hfails ▸ ht
  · have ht := drive_arrives hr .ampRdy true (by show s.dsq.ampRdy ≠ _; rw [h]; exact Bool.noConfusion)
    exact ht
  · have ht := drive_arrives hr .ampFlt true (by show s.dsq.ampFlt ≠ _; rw [h]; exact Bool.noConfusion)
    rw [reportWhen_eq] at ht
    exact hfails ▸ ht
  · have ht := drive_arrives hr .ampFlt false (by show s.dsq.ampFlt ≠ _; rw [h]; exact Bool.noConfusion)
    exact ht
  · exact taken_running _ hr
  · rw [Settles, exec, execOnlineSwitchArrival, taken_running _ hr, if_neg (by cases s.dsq.online <;> exact Bool.noConfusion)]
    rfl
  · rw [Becomes, exec, execOnlineSwitchArrival, taken_running _ hr, if_pos rfl]

/-! ## The write gate -/

section
variable {s : State} {j : Job}

theorem writeIn_eq (hj : s.ope.job = some j) {ph : Phase} (hs : j.stage = .writing) (hp : s.ope.phase = ph) :
    s.writeIn ph = some j := by
  simp [State.writeIn, hj, hs, hp]

theorem bytesToLay_block (hc : j.op.cmd = .writeBlock) {i : Nat} (hi : j.op.slot = some i) :
    s.bytesToLay j = (s.bbf.slot i).data ++ checkField s.dsq.params.check (s.bbf.slot i).data := by
  simp only [State.bytesToLay, hc, hi]
  rfl

theorem writeExtent_block (hc : j.op.cmd = .writeBlock) {i : Nat} (hi : j.op.slot = some i) :
    s.writeExtent j = dataExtent (s.bbf.slot i).len := by
  simp only [State.writeExtent, hc, hi]
  rfl

end

/-- Settles O30: the gate by its counts, the requests by the bytes left. -/
theorem writeGateAndBytes : Obligations.WriteGateAndBytes := by
  intro s j hr hj
  refine ⟨fun hs hp hw => ?_, fun hs hp hw => ?_, fun hs hp hw => ?_, fun hs hp hw => ?_, fun i hc hi => ?_⟩
  · rw [Becomes, exec, execWriteGateOpen, taken_running _ hr, writeIn_eq hj hs hp]
    exact congrArg _ (if_pos hw)
  · rw [Becomes, exec, execWriteGateOpen, taken_running _ hr, writeIn_eq hj hs hp]
    exact congrArg _ (if_neg (Int.not_le.mpr hw))
  · rw [Becomes, exec, execWriteGateClose, taken_running _ hr, writeIn_eq hj hs hp]
    exact congrArg _ (if_pos hw)
  · rw [Becomes, exec, execWriteGateClose, taken_running _ hr, writeIn_eq hj hs hp]
    exact congrArg _ (if_neg (Int.not_le.mpr hw))
  · intro all k
    refine ⟨writeExtent_block hc hi, fun h hg => ?_, fun h => ?_⟩
    · rw [Becomes, exec, execWriteByteRequest, taken_running _ hr, hj]
      refine congrArg _ ((if_pos hg).trans ?_)
      rw [State.byteRequest, bytesToLay_block hc hi, List.getElem?_eq_getElem h]
      rfl
    · rw [Becomes, exec, execWriteByteRequest, taken_running _ hr, hj]
      refine congrArg _ (?_ : (if s.ope.wrGate then s.byteRequest j else s) = s)
      rcases h with h | h
      · split
        · rw [State.byteRequest, bytesToLay_block hc hi, List.getElem?_eq_none h]
        · rfl
      · exact if_neg (by rw [h]; exact Bool.noConfusion)

end Sys2Proof.Machine

/-! PROOF. The rules of the ports: changes at a port one after another, events, and the end of an event that touches the records
alone (R174, R176, R177). -/

namespace Sys2Proof.Machine

/-! ## Changes at a port -/

theorem onPort_onPort (p : PortId) (f g : Port → Port) (s : State) :
    (s.onPort p f).onPort p g = s.onPort p (fun q => g (f q)) := by
  cases p <;> rfl

theorem onPort_congr {p : PortId} {f g : Port → Port} {s : State} (h : f (s.port p) = g (s.port p)) :
    s.onPort p f = s.onPort p g := by
  cases p
  · exact congrArg (fun q => { s with portA := q }) h
  · exact congrArg (fun q => { s with portB := q }) h

theorem onPort_self {p : PortId} {f : Port → Port} {s : State} (h : f (s.port p) = s.port p) : s.onPort p f = s := by
  cases p
  · exact congrArg (fun q => { s with portA := q }) h
  · exact congrArg (fun q => { s with portB := q }) h

/-- Two states with the same blocks and the same ports are the same. -/
theorem State.ext_port {s t : State} (hd : s.dsq = t.dsq) (hv : s.tsv = t.tsv) (he : s.ope = t.ope) (ha : s.arb = t.arb)
    (hb : s.bbf = t.bbf) (hr : s.bdr = t.bdr) (hp : ∀ p, s.port p = t.port p) (hi : s.inReset = t.inReset)
    (hn : s.draws = t.draws) (hq : s.pending = t.pending) : s = t := by
  have hA := hp .a
  have hB := hp .b
  cases s
  cases t
  simp_all [State.port]

/-! ## Events -/

section
variable (k : EventKind) (s : State)

@[simp] theorem addEvent_ope (p : PortId) : (s.addEvent k p).ope = s.ope := by
  unfold State.addEvent; split <;> simp

@[simp] theorem addEvent_arb (p : PortId) : (s.addEvent k p).arb = s.arb := by
  unfold State.addEvent; split <;> simp

@[simp] theorem addEvent_bbf (p : PortId) : (s.addEvent k p).bbf = s.bbf := by
  unfold State.addEvent; split <;> simp

@[simp] theorem addEvent_bdr (p : PortId) : (s.addEvent k p).bdr = s.bdr := by
  unfold State.addEvent; split <;> simp

@[simp] theorem addEvent_inReset (p : PortId) : (s.addEvent k p).inReset = s.inReset := by
  unfold State.addEvent; split <;> simp

@[simp] theorem addEvent_draws (p : PortId) : (s.addEvent k p).draws = s.draws := by
  unfold State.addEvent; split <;> simp

@[simp] theorem addEvent_pending (p : PortId) : (s.addEvent k p).pending = s.pending := by
  unfold State.addEvent; split <;> simp

@[simp] theorem addEvents_dsq : (s.addEvents k).dsq = s.dsq := (addEvents_fields k s).1
@[simp] theorem addEvents_tsv : (s.addEvents k).tsv = s.tsv := (addEvents_fields k s).2.1
@[simp] theorem addEvents_ope : (s.addEvents k).ope = s.ope := (addEvents_fields k s).2.2.1
@[simp] theorem addEvents_bdr : (s.addEvents k).bdr = s.bdr := (addEvents_fields k s).2.2.2.1
@[simp] theorem addEvents_bbf : (s.addEvents k).bbf = s.bbf := (addEvents_fields k s).2.2.2.2.1
@[simp] theorem addEvents_arb : (s.addEvents k).arb = s.arb := (addEvents_fields k s).2.2.2.2.2
@[simp] theorem addEvents_inReset : (s.addEvents k).inReset = s.inReset := by simp [State.addEvents]
@[simp] theorem addEvents_draws : (s.addEvents k).draws = s.draws := by simp [State.addEvents]
@[simp] theorem addEvents_pending : (s.addEvents k).pending = s.pending := by simp [State.addEvents]

theorem enabled_of_dsq {s t : State} (h : s.dsq = t.dsq) (p : PortId) : s.enabled p = t.enabled p := by
  cases p
  · rfl
  · exact congrArg Dsq.portbEn h

/-- A port with a kind added to its pending set. -/
def Port.raise (b : EventSet) (q : Port) : Port := { q with pendingEv := q.pendingEv ||| b }

@[simp] theorem addEvent_enabled (p q : PortId) : (s.addEvent k p).enabled q = s.enabled q :=
  enabled_of_dsq (addEvent_dsq_tsv k p s).1 q

@[simp] theorem addEvents_enabled (q : PortId) : (s.addEvents k).enabled q = s.enabled q :=
  enabled_of_dsq (addEvents_dsq k s) q

theorem addEvent_port (p q : PortId) :
    (s.addEvent k p).port q = if q = p ∧ s.enabled p = true then (s.port q).raise k.bit else s.port q := by
  unfold State.addEvent
  by_cases he : s.enabled p = true
  · rw [if_pos he, State.onPort_port_eq]
    simp only [he, and_true]
    rfl
  · rw [if_neg he, if_neg (fun h => he h.2)]

@[simp] theorem addEvent_port_other (p : PortId) : (s.addEvent k p).port p.other = s.port p.other := by
  rw [addEvent_port, if_neg (fun h => PortId.other_ne p h.1)]

theorem addEvents_port (q : PortId) :
    (s.addEvents k).port q = if s.enabled q = true then (s.port q).raise k.bit else s.port q := by
  unfold State.addEvents
  rw [addEvent_port, addEvent_port, addEvent_enabled]
  cases q <;> simp

/-- An event added at both ports changes the pending sets alone. -/
theorem addEvents_port_eq (q : PortId) :
    (s.addEvents k).port q = { s.port q with pendingEv := ((s.addEvents k).port q).pendingEv } := by
  rw [addEvents_port]
  split <;> rfl

end

/-- A change at a port that leaves its pending set may come before an event or after it. -/
theorem addEvents_onPort (k : EventKind) (p : PortId) {f : Port → Port} (s : State)
    (hf : ∀ q b, f (Port.raise b q) = (f q).raise b) : (s.onPort p f).addEvents k = (s.addEvents k).onPort p f := by
  refine State.ext_port ?_ ?_ ?_ ?_ ?_ ?_ (fun q => ?_) ?_ ?_ ?_ <;> try simp
  rw [addEvents_port, State.onPort_port_eq, State.onPort_port_eq, addEvents_port, State.onPort_enabled]
  split <;> split <;> simp_all

/-! ## The end of an event that touches the records alone -/

/-- The event record test at a port in a state. -/
def State.tested (s : State) (p : PortId) : Port := if s.enabled p && (s.port p).eventDue then (s.port p).deliver else s.port p

theorem eventTest_eq (p : PortId) (s : State) : s.eventTest p = s.onPort p (fun _ => s.tested p) := by
  unfold State.eventTest State.tested
  split
  · exact onPort_congr rfl
  · exact (onPort_self rfl).symm

theorem stampOf_deliver (q : Port) : q.deliver.deferred = q.deferred ∧ q.deliver.overflow = q.overflow ∧ q.deliver.next = q.next :=
  ⟨rfl, rfl, rfl⟩

theorem stampOf_eq {s t : State} {p : PortId} (hd : s.dsq = t.dsq) (he : s.ope = t.ope) (ha : s.arb = t.arb)
    (hq : (s.port p).deferred = (t.port p).deferred ∧ (s.port p).overflow = (t.port p).overflow
      ∧ (s.port p).next = (t.port p).next) : s.stampOf p = t.stampOf p := by
  obtain ⟨hdef, hover, hnext⟩ := hq
  simp only [State.stampOf, hd, he, ha, hdef, hover, hnext]

theorem tested_stamp (s : State) (p : PortId) : (s.tested p).deferred = (s.port p).deferred
    ∧ (s.tested p).overflow = (s.port p).overflow ∧ (s.tested p).next = (s.port p).next := by
  unfold State.tested
  split <;> exact ⟨rfl, rfl, rfl⟩

/-- Each port after the end of the event: tested, then stamped with the values as they stood. -/
theorem seal_port (s : State) (p : PortId) :
    s.seal.port p = { s.tested p with status := (s.tested p).status.map (Rec.stamped (s.stampOf p)) } := by
  have htest : ∀ p, ((s.eventTest .a).eventTest .b).port p = s.tested p := by
    intro p
    rw [eventTest_eq, eventTest_eq]
    cases p <;> rfl
  have hstamp : ∀ p, ((s.eventTest .a).eventTest .b).stampOf p = s.stampOf p := by
    intro p
    refine stampOf_eq ?_ ?_ ?_ (by rw [htest]; exact tested_stamp s p) <;> rw [eventTest_eq, eventTest_eq] <;> simp
  unfold State.seal State.stampPort
  cases p
  · have h := hstamp .a
    rw [← htest .a, ← h]
    rfl
  · have h := hstamp .b
    rw [← htest .b, ← h]
    rfl

theorem seal_frame (s : State) : s.seal = { s with portA := s.seal.portA, portB := s.seal.portB } := by
  refine State.ext_port ?_ ?_ ?_ ?_ ?_ ?_ (fun p => by cases p <;> rfl) ?_ ?_ ?_ <;>
    simp [State.seal, State.stampPort, eventTest_eq]

theorem byteOf_flags (a b c d e : Bool) : byteOf a b c d e false false false =
    (if a then 1#8 else 0) ||| (if b then 2#8 else 0) ||| (if c then 4#8 else 0) ||| (if d then 8#8 else 0)
      ||| (if e then 16#8 else 0) := by
  revert a b c d e
  decide

/-- Settles O48: the event record test, and the stamp of the state as it stands. -/
theorem eventRecordsAndStamps : Obligations.EventRecordsAndStamps := by
  intro s p q t due stamp stamped event
  have hstamp : s.stampOf p = stamp := by
    have hflags := byteOf_flags s.ope.eotLatch s.dsq.online (s.arb.writer = some p) q.deferred.isSome q.overflow
    simp only [decide_eq_true_eq] at hflags
    exact congrArg (fun x => Stamp.mk s.dsq.deck.byte x q.next) hflags
  have hdue : due ↔ (s.enabled p && q.eventDue) = true := by
    simp [due, Port.eventDue, Port.recordCount, and_assoc]
    exact fun _ _ _ _ => decide_eq_true_iff.symm
  have hport := seal_port s p
  rw [hstamp] at hport
  refine ⟨fun h => ?_, fun h => ?_, seal_frame s⟩
  · have ht : s.tested p = q.deliver := if_pos (hdue.mp h)
    rw [ht] at hport
    refine hport.trans ?_
    simp only [Port.deliver, List.map_append]
    rfl
  · have ht : s.tested p = q := if_neg (mt hdue.mpr h)
    rw [ht] at hport
    exact hport

end Sys2Proof.Machine

/-! PROOF. The takes of frames: the tests, the answers of the immediate commands, and damaged and unknown frames (R21, R152 to
R156, R172, R178, R179). -/

namespace Sys2Proof.Machine

/-! ## Answers -/

/-- A port whose frame is answered with a record. -/
def Port.answers (r : Rec) (q : Port) : Port := { q.nextFrame with status := q.status ++ [r] }

theorem answer_nextFrame (p : PortId) (h : Hdr) (c : Code) (detail : Nat) (data : List Byte) (s : State) :
    (s.onPort p Port.nextFrame).answer p h c detail data = s.onPort p (Port.answers (completeRec h.tag h.code c detail data)) :=
  onPort_onPort p Port.nextFrame (fun q => { q with status := q.status ++ [completeRec h.tag h.code c detail data] }) s

/-- A refusal answers the frame, frees its slot, and takes a deferred error away with its code. -/
theorem refuse_nextFrame (p : PortId) (h : Hdr) (slot : Option Nat) (c : Code) (detail : Nat) (s : State) :
    (s.onPort p Port.nextFrame).refuse p h slot c detail =
      (s.onBbf (Bbf.freeOpt slot)).onPort p (fun q =>
        { q.answers (completeRec h.tag h.code c detail []) with deferred := if c = .deferredError then none else q.deferred }) := by
  have hc : (s.onPort p Port.nextFrame).onBbf (Bbf.freeOpt slot) = (s.onBbf (Bbf.freeOpt slot)).onPort p Port.nextFrame := by
    cases p <;> rfl
  unfold State.refuse
  dsimp only
  rw [hc, answer_nextFrame]
  split
  · exact onPort_onPort p _ _ _
  · rfl

section
variable {s : State} {p : PortId} {c : Cmd}

/-- The take of an immediate command that has a deferred error. -/
theorem takeImmediate_deferred {n : Nat} (body : Hdr → State → State) (readies : State → State → Bool)
    (ht : s.takes p c = true) (hd : (s.port p).deferred = some n) :
    s.takeImmediate p c body readies = (s.onPort p (fun q =>
      { q.nextFrame with
        status := q.status ++ [completeRec q.rx.header.tag q.rx.header.code .deferredError n []], deferred := none })).settle s := by
  unfold State.takeImmediate State.immediateFrame
  simp only [ht, hd, if_true, Option.isSome_some, Bool.true_or, refuse_nextFrame]
  refine congrArg (fun t => State.settle t s) ?_
  exact onPort_congr rfl

/-- The take of an immediate command that is answered by its own rule. -/
theorem takeImmediate_answered (ha : Answered s p c) (body : Hdr → State → State) (readies : State → State → Bool) :
    s.takeImmediate p c body readies =
      let t := body (s.port p).rx.header (s.onPort p Port.nextFrame)
      if readies s t then t.settle s else t.seal := by
  unfold State.takeImmediate State.immediateFrame
  simp only [ha.takes, ha.noError, if_true, Option.isSome_none, Bool.false_or]

theorem seals_of_answered {i : Instr} {body : Hdr → State → State} {readies : State → State → Bool} {u : State}
    (ha : Answered s p c) (hx : exec i s = taken s (State.takeImmediate p c body readies))
    (hb : body (s.port p).rx.header (s.onPort p Port.nextFrame) = u) (hr : readies s u = false) : Seals i s u := by
  rw [Seals, hx, taken_running _ ha.running, takeImmediate_answered ha, hb]
  simp only [hr, Bool.false_eq_true, if_false]

theorem settles_of_answered {i : Instr} {body : Hdr → State → State} {readies : State → State → Bool} {u : State}
    (ha : Answered s p c) (hx : exec i s = taken s (State.takeImmediate p c body readies))
    (hb : body (s.port p).rx.header (s.onPort p Port.nextFrame) = u) (hr : readies s u = true) : Settles i s u := by
  rw [Settles, hx, taken_running _ ha.running, takeImmediate_answered ha, hb]
  simp only [hr, if_true]

end

/-! ## The writer -/

theorem setWriter_nextFrame (w : Option PortId) (p : PortId) (s : State) :
    (s.onPort p Port.nextFrame).setWriter w = (s.setWriter w).onPort p Port.nextFrame := by
  have hc : (s.onPort p Port.nextFrame).onArb (Arb.setWriter w) = (s.onArb (Arb.setWriter w)).onPort p Port.nextFrame := by
    cases p <;> rfl
  unfold State.setWriter
  rw [hc]
  exact addEvents_onPort _ _ _ (fun _ _ => rfl)

theorem writer_onPort (p : PortId) (f : Port → Port) (s : State) : (s.onPort p f).arb.writer = s.arb.writer := by simp

theorem writesIn_pos_iff (l : List Op) : 0 < writesIn l ↔ ∃ o ∈ l, o.cmd.isWrite = true := List.countP_pos_iff

theorem assignCode_nextFrame (p : PortId) (s : State) : (s.onPort p Port.nextFrame).assignCode p = s.assignCode p := by
  unfold State.assignCode
  simp

/-- A port's assignment as it is answered: the code, and the assignment changed where it is OK and there was no writer. -/
theorem assignWriter_nextFrame (p : PortId) (h : Hdr) (s : State) :
    (s.onPort p Port.nextFrame).assignWriter p h =
      (if s.assignCode p = .ok ∧ s.arb.writer = none then s.setWriter (some p) else s).onPort p
        (Port.answers (completeRec h.tag h.code (s.assignCode p) 0 [])) := by
  unfold State.assignWriter
  simp only [assignCode_nextFrame, writer_onPort, setWriter_nextFrame]
  split <;> rw [answer_nextFrame]

theorem releaseWriter_nextFrame (p : PortId) (h : Hdr) (s : State) :
    (s.onPort p Port.nextFrame).releaseWriter p h =
      if 0 < writesIn (s.port p).queue then s.onPort p (Port.answers (completeRec h.tag h.code .wrongState 0 []))
      else (if s.arb.writer = some p then s.setWriter none else s).onPort p (Port.answers (completeRec h.tag h.code .ok 0 [])) := by
  have hq : ((s.onPort p Port.nextFrame).port p).queue = (s.port p).queue := by simp [Port.nextFrame]
  unfold State.releaseWriter
  simp only [hq, writer_onPort, setWriter_nextFrame]
  split
  · rw [answer_nextFrame]
  · split <;> rw [answer_nextFrame]

/-- Settles O56: each clause by the answer of its test. -/
theorem writerAssignment : Obligations.WriterAssignment := by
  intro s p answered
  refine ⟨fun ha => ?_, fun ha => ?_⟩
  · have hseals : ∀ u, (s.onPort p Port.nextFrame).assignWriter p (s.port p).rx.header = u → Seals (.assignWriter p) s u :=
      fun u hu => seals_of_answered ha rfl hu rfl
    refine ⟨fun hw => hseals _ ?_, fun hw h => hseals _ ?_, fun hw ho h => hseals _ ?_, fun hw ho h => hseals _ ?_⟩ <;>
      rw [assignWriter_nextFrame]
    · have hc : s.assignCode p = .writeProtected := if_pos (by simp [hw])
      rw [hc, if_neg (fun h => Code.noConfusion h.1)]
      rfl
    · have hc : s.assignCode p = .writerBusy := by
        rcases h with h | h <;> simp [State.assignCode, hw, h]
      rw [hc, if_neg (fun h => Code.noConfusion h.1)]
      rfl
    · have hc : s.assignCode p = .ok := by simp [State.assignCode, hw, ho, h]
      rw [hc, if_neg (by rw [h]; exact fun h => nomatch h.2)]
      rfl
    · have hc : s.assignCode p = .ok := by simp [State.assignCode, hw, ho, h]
      rw [hc, if_pos ⟨rfl, h⟩]
      rfl
  · refine ⟨fun hq => ?_, fun hq hw => ?_, fun hq hw => ?_⟩
    · refine seals_of_answered ha rfl ((releaseWriter_nextFrame _ _ _).trans (if_pos ((writesIn_pos_iff _).mpr hq))) ?_
      simp [answered]
    · refine seals_of_answered ha rfl ((releaseWriter_nextFrame _ _ _).trans ((if_neg ?_).trans ?_)) ?_
      · exact fun h => by
          obtain ⟨o, ho, hw⟩ := (writesIn_pos_iff _).mp h
          rw [hq o ho] at hw
          exact Bool.noConfusion hw
      · rw [if_neg hw]
        rfl
      · simp [answered]
    · refine settles_of_answered ha rfl ((releaseWriter_nextFrame _ _ _).trans ((if_neg ?_).trans ?_)) ?_
      · exact fun h => by
          obtain ⟨o, ho, hw⟩ := (writesIn_pos_iff _).mp h
          rw [hq o ho] at hw
          exact Bool.noConfusion hw
      · rw [if_pos hw]
        rfl
      · simp [answered, hw]

/-! ## Options, events and parameters -/

theorem paramsOf_eq (p : BitVec 32) (k : CheckKind) : paramsOf p k =
    { gain := max 1 (p.extractLsb' 0 4).toNat, check := k, retryLimit := (p.extractLsb' 16 4).toNat
      failLimit := max 1 (min 64 (p.extractLsb' 24 7).toNat), autoClear := p[31] } := by
  have hg := (p.extractLsb' 0 4).isLt
  have hr := (p.extractLsb' 16 4).isLt
  have hgain : limitNat 1 15 (p.extractLsb' 0 4).toNat = max 1 (p.extractLsb' 0 4).toNat := by unfold limitNat; omega
  have hretry : limitNat 0 15 (p.extractLsb' 16 4).toNat = (p.extractLsb' 16 4).toNat := by unfold limitNat; omega
  unfold paramsOf
  rw [hgain, hretry]
  rfl

/-- Settles O57: each command by its own rule. -/
theorem optionsEventsAndParameters : Obligations.OptionsEventsAndParameters := by
  intro s p h answered
  refine ⟨fun ha => ?_, fun ha => ?_, fun ha => ⟨fun hd => ?_, fun hd h16 h32 => ?_, fun k hd hk => ?_⟩⟩
  · exact seals_of_answered ha rfl (by cases p <;> rfl) rfl
  · exact seals_of_answered ha rfl (by cases p <;> rfl) rfl
  · refine seals_of_answered ha rfl ?_ rfl
    have hd' : (s.onPort p Port.nextFrame).dsq.deck ≠ .unloaded := by simpa using hd
    rw [State.setDeckParameters, if_pos hd', answer_nextFrame]
    rfl
  · refine seals_of_answered ha rfl ?_ rfl
    have hd' : ¬ (s.onPort p Port.nextFrame).dsq.deck ≠ .unloaded := by simpa using hd
    have hk : checkKindOf (s.port p).rx.header.param = none := (if_neg h16).trans (if_neg h32)
    rw [State.setDeckParameters, if_neg hd', hk]
    exact answer_nextFrame _ _ _ _ _ _
  · refine seals_of_answered ha rfl ?_ rfl
    have hd' : ¬ (s.onPort p Port.nextFrame).dsq.deck ≠ .unloaded := by simpa using hd
    have hk : checkKindOf (s.port p).rx.header.param = some k := by
      rcases hk with ⟨hb, rfl⟩ | ⟨hb, rfl⟩
      · exact if_pos hb
      · exact (if_neg (by show ¬ h.param.extractLsb' 8 8 = 16#8; rw [hb]; decide)).trans (if_pos hb)
    rw [State.setDeckParameters, if_neg hd', hk]
    dsimp only
    rw [paramsOf_eq]
    cases p <;> rfl

/-! ## A clear that is refused -/

theorem checksDetail_eq (a b c d e : Bool) : checksDetail [a, b, c, d, e] =
    (if a then 1 else 0) + (if b then 2 else 0) + (if c then 4 else 0) + (if d then 8 else 0) + (if e then 16 else 0) := by
  revert a b c d e
  decide

theorem checksPass_eq_true_iff (s : State) : s.checksPass = true ↔ s.dsq.vacS = true ∧ s.dsq.vacT = true
    ∧ ¬ (s.tsv.supply.loop < 64 ∨ 960 < s.tsv.supply.loop) ∧ ¬ (s.tsv.takeup.loop < 64 ∨ 960 < s.tsv.takeup.loop)
    ∧ s.dsq.ampRdy = true ∧ s.dsq.ampFlt = false := by
  rw [← loopInRange_eq_false, ← loopInRange_eq_false]
  simp [State.checksPass, State.failedChecks, State.driveGood]

theorem clearFault_nextFrame_soft {s : State} {p : PortId} (h : Hdr) (hd : s.dsq.deck = .faultedSoft) :
    (s.onPort p Port.nextFrame).clearFault p h =
      if s.checksPass then (s.onPort p Port.nextFrame).acceptedClear.answer p h .ok 0 []
      else s.onPort p (Port.answers (completeRec h.tag h.code .conditionPersists (checksDetail s.failedChecks) [])) := by
  have hd' : (s.onPort p Port.nextFrame).dsq.deck = .faultedSoft := by simpa using hd
  have hf : (s.onPort p Port.nextFrame).failedChecks = s.failedChecks := by simp [State.failedChecks, State.driveGood]
  have hc : (s.onPort p Port.nextFrame).checksPass = s.checksPass := by rw [State.checksPass, hf]; rfl
  unfold State.clearFault
  rw [hd']
  dsimp only
  rw [hc, hf, answer_nextFrame]

/-- Settles O58: a check that fails refuses the clear, and each has its bit. -/
theorem clearFaultIsRefusedWhileTheConditionPersists : Obligations.ClearFaultIsRefusedWhileTheConditionPersists := by
  intro s p ha hd bad hbad
  have hfail : ¬ s.checksPass = true := by
    rw [checksPass_eq_true_iff]
    rintro ⟨hS, hT, hs, ht, hrdy, hflt⟩
    rcases hbad with h | h | h | h | h | h
    · exact Bool.noConfusion (h.symm.trans hS)
    · exact Bool.noConfusion (h.symm.trans hT)
    · exact hs h
    · exact ht h
    · exact Bool.noConfusion (h.symm.trans hrdy)
    · exact Bool.noConfusion (h.symm.trans hflt)
  refine seals_of_answered ha rfl ((clearFault_nextFrame_soft _ hd).trans ((if_neg hfail).trans ?_)) (by simp)
  refine onPort_congr ?_
  have hdetail : checksDetail s.failedChecks = (if s.dsq.vacS then 0 else 1) + (if s.dsq.vacT then 0 else 2)
      + (if bad s.tsv.supply.loop then 4 else 0) + (if bad s.tsv.takeup.loop then 8 else 0)
      + (if s.dsq.ampRdy ∧ s.dsq.ampFlt = false then 0 else 16) := by
    unfold State.failedChecks
    rw [checksDetail_eq]
    have hs := if_congr (loopInRange_eq_false s.tsv.supply.loop) (rfl : 4 = 4) (rfl : 0 = 0)
    have ht := if_congr (loopInRange_eq_false s.tsv.takeup.loop) (rfl : 8 = 8) (rfl : 0 = 0)
    have hdrive : (if (!s.driveGood) = true then 16 else 0) = if s.dsq.ampRdy = true ∧ s.dsq.ampFlt = false then 0 else 16 := by
      unfold State.driveGood
      cases s.dsq.ampRdy <;> cases s.dsq.ampFlt <;> rfl
    rw [hs, ht, hdrive]
    cases s.dsq.vacS <;> cases s.dsq.vacT <;> rfl
  rw [hdetail]
  rfl

/-! ## Damaged and unknown frames -/

section
variable {s : State} {p : PortId}

theorem endedWithRoom_iff (hi : s.inService p = true) (he : (s.port p).rx.state = .ended) :
    s.endedWithRoom p = true ↔ (s.port p).recordCount < 8 := by
  simp only [State.endedWithRoom, hi, he, decide_true, Bool.true_and]
  exact decide_eq_true_iff

end

/-- Settles O45: the answers where there is room for a record. -/
theorem damagedAndUnknownFrames : Obligations.DamagedAndUnknownFrames := by
  intro s p hr hi he x answered
  have hroom := endedWithRoom_iff hi he
  have hanswer : ∀ c, s.answerFrame p c = answered c := fun c => answer_nextFrame _ _ _ _ _ _
  refine ⟨fun hlt hbad => ?_, fun hlt hbad hcmd => ?_, fun hge => ?_⟩
  · have hdue : s.errorFrameDue p = true := by simp [State.errorFrameDue, hroom.mpr hlt, x, hbad]
    rw [Seals, exec, execFrameError, taken_running _ hr, if_pos hdue, hanswer]
  · have hdue : s.unknownFrameDue p = true := by
      simp [State.unknownFrameDue, hroom.mpr hlt]
      exact ⟨hbad, hcmd⟩
    rw [Seals, exec, execBadCommand, taken_running _ hr, if_pos hdue, hanswer]
  · have hno : s.endedWithRoom p = false := Bool.eq_false_iff.mpr (fun h => absurd (hroom.mp h) (Nat.not_lt.mpr hge))
    refine ⟨?_, ?_⟩
    · rw [Becomes, exec, execFrameError, taken_running _ hr, if_neg (by simp [State.errorFrameDue, hno])]
    · rw [Becomes, exec, execBadCommand, taken_running _ hr, if_neg (by simp [State.unknownFrameDue, hno])]

/-! ## The tests at a take -/

section
variable {s : State} {p : PortId} {c : Cmd}

theorem refusal_deferred {n : Nat} (h : (s.port p).deferred = some n) : s.refusal p c = some (.deferredError, n) := by
  simp only [State.refusal, h]

/-- The tests after the first (R153). -/
def State.refusalAfter (s : State) (p : PortId) (c : Cmd) : Option (Code × Nat) :=
  let d := s.dsq.deck
  if c.isMotion && !s.dsq.online then some (.offline, 0)
  else if c = .load && (d.isUnloading || d = .faultStop || d.isFaulted) then some (.wrongState, 0)
  else if c.isMotion && c ≠ .load && d ≠ .ready then some (.wrongState, 0)
  else if c.isWrite && s.arb.writer ≠ some p then some (.notWriter, 0)
  else if c = .unload && (s.arb.writer = some p.other || !(s.port p.other).queue.isEmpty) then some (.otherPortActive, 0)
  else if c.isWrite && decide (Config.blockLimit ≤ (s.port p).writeNumber) then some (.badParameter, 0)
  else none

theorem refusal_of_no_error (h : (s.port p).deferred = none) : s.refusal p c = s.refusalAfter p c := by
  simp only [State.refusal, h]
  rfl

/-- In READY and online the first tests that are left are the writer's, the other port's and the number's. -/
theorem refusalAfter_ready (ho : s.dsq.online = true) (hd : s.dsq.deck = .ready) : s.refusalAfter p c =
    if c.isWrite && s.arb.writer ≠ some p then some (.notWriter, 0)
    else if c = .unload && (s.arb.writer = some p.other || !(s.port p.other).queue.isEmpty) then some (.otherPortActive, 0)
    else if c.isWrite && decide (Config.blockLimit ≤ (s.port p).writeNumber) then some (.badParameter, 0)
    else none := by
  simp [State.refusalAfter, ho, hd, Deck.isUnloading, Deck.isFaulted]

theorem not_load_of_isWrite (h : c.isWrite = true) : c ≠ .load ∧ c ≠ .unload ∧ c.isMotion = true := by
  cases c <;> first | exact absurd h Bool.false_ne_true | exact ⟨nofun, nofun, rfl⟩

theorem isMotion_iff (c : Cmd) : c.isMotion = true ↔
    c ∈ [.load, .readBlock, .writeBlock, .writeMark, .space, .locate, .rewind, .unload] := by
  cases c <;> decide

theorem refusalAfter_not_motion (h : c.isMotion = false) : s.refusalAfter p c = none := by
  cases c <;> first | exact absurd h.symm Bool.false_ne_true | rfl

theorem refusalAfter_load (ho : s.dsq.online = true) : s.refusalAfter p .load =
    if s.dsq.deck.isUnloading || s.dsq.deck = .faultStop || s.dsq.deck.isFaulted then some (.wrongState, 0) else none := by
  simp [State.refusalAfter, ho, Cmd.isMotion, Cmd.isWrite]

theorem writeNumber_limit : decide (Config.blockLimit ≤ (s.port p).writeNumber) = true ↔
    1048575 < (s.port p).next + (s.port p).queue.countP (fun o => o.cmd.isWrite) := by
  rw [decide_eq_true_iff]
  exact Nat.succ_le_iff

/-- The take of an immediate command with a deferred error, whichever it is. -/
theorem settles_deferred {n : Nat} (hr : s.inReset = false) (hq : c.isQueued = false) (hs : c ≠ .sense) (hp : c ≠ .portReset)
    (ht : s.takes p c = true) (hd : (s.port p).deferred = some n) :
    Settles (takeOf c p) s (s.onPort p (fun q =>
      { q.nextFrame with
        status := q.status ++ [completeRec q.rx.header.tag q.rx.header.code .deferredError n []], deferred := none })) := by
  have himm : ∀ body readies, exec (takeOf c p) s = taken s (State.takeImmediate p c body readies) → exec (takeOf c p) s = _ :=
    fun body readies hx => hx.trans ((taken_running _ hr).trans (congrArg _ (takeImmediate_deferred body readies ht hd)))
  cases c
  case sense => exact absurd rfl hs
  case portReset => exact absurd rfl hp
  case queryDirectory => exact himm _ _ rfl
  case assignWriter => exact himm _ _ rfl
  case releaseWriter => exact himm _ _ rfl
  case setPortOptions => exact himm _ _ rfl
  case setDeckParameters => exact himm _ _ rfl
  case acknowledgeEvents => exact himm _ _ rfl
  case clearFault => exact himm _ _ rfl
  case abort => exact himm _ _ rfl
  all_goals exact absurd hq.symm Bool.false_ne_true

end

/-- Settles O49: the first test that applies. -/
theorem takeTests : Obligations.TakeTests := by
  intro s p c q
  refine ⟨fun n _ _ h => refusal_deferred h, fun h hm ho => ?_, fun h ho hd => ?_, fun h hm ho hl hd => ?_,
    fun h ho hd hw hwr => ?_, fun h ho hd hother => ?_, fun h ho hd hw hwr hn => ?_, fun h ho hd hu hw => ?_,
    fun h ho hd hw hwr hn => ?_, fun h ho hd hwr hq => ?_, fun h ho hd => ?_, fun h hc => ?_,
    fun n hr hq hs hp ht hd => settles_deferred hr hq hs hp ht hd⟩ <;>
    rw [refusal_of_no_error h]
  · exact if_pos (by simp [hm, ho])
  · rw [refusalAfter_load ho]
    refine if_pos ?_
    revert hd
    cases s.dsq.deck <;> decide
  · simp [State.refusalAfter, hm, ho, hl, hd]
  · rw [refusalAfter_ready ho hd, if_pos (by simp [hw, hwr])]
  · rw [refusalAfter_ready ho hd, if_neg (by simp [Cmd.isWrite]), if_pos]
    rcases hother with h | h <;> simp [h]
  · obtain ⟨-, hu, -⟩ := not_load_of_isWrite hw
    rw [refusalAfter_ready ho hd, if_neg (by simp [hwr]), if_neg (by simp [hu]),
      if_pos (by rw [hw, writeNumber_limit.mpr hn]; rfl)]
  · rw [refusalAfter_ready ho hd, if_neg (by simp [hw]), if_neg (by simp [hu]), if_neg (by simp [hw])]
  · obtain ⟨-, hu, -⟩ := not_load_of_isWrite hw
    have hlim : ¬ decide (Config.blockLimit ≤ (s.port p).writeNumber) = true := fun hx =>
      absurd (writeNumber_limit.mp hx) (Nat.not_lt.mpr hn)
    rw [refusalAfter_ready ho hd, if_neg (by simp [hwr]), if_neg (by simp [hu]),
      if_neg (by rw [Bool.and_eq_true]; exact fun hx => hlim hx.2)]
  · rw [refusalAfter_ready ho hd, if_neg (by simp [Cmd.isWrite]), if_neg (by simp [hwr, hq]), if_neg (by simp [Cmd.isWrite])]
  · rw [refusalAfter_load ho]
    refine if_neg ?_
    revert hd
    cases s.dsq.deck <;> decide
  · exact refusalAfter_not_motion (Bool.eq_false_iff.mpr (mt (isMotion_iff c).mp hc))

end Sys2Proof.Machine

/-! PROOF. A frame received byte by byte, its errors, and the admission of write data (R79, R81, R152, R170, R171). -/

namespace Sys2Proof.Machine

/-! ## The lines of a port and its frame -/

/-- A port's CI-FRM and frame set. -/
def State.lines (p : PortId) (level : Bool) (y : Rx) (s : State) : State := s.onPort p (fun q => { q with ciFrm := level, rx := y })

/-- The frame `y` made an error frame with its slot freed. -/
def State.faulted (p : PortId) (level : Bool) (y : Rx) (s : State) : State :=
  { s.lines p level { y with state := if level then .drain else .ended, bad := true, slot := none } with
    bbf := s.bbf.freeOpt (s.port p).rx.slot }

section
variable {s : State} {p : PortId}

theorem lines_self {level : Bool} (h : (s.port p).ciFrm = level) : s.lines p level (s.port p).rx = s := by
  subst h
  exact onPort_self rfl

theorem onPort_ciFrm (level : Bool) : s.onPort p (fun q => { q with ciFrm := level }) = s.lines p level (s.port p).rx :=
  onPort_congr rfl

theorem frameFault_lines (level : Bool) {y : Rx} (h : y.slot = (s.port p).rx.slot) :
    (s.lines p level y).frameFault p = s.faulted p level y := by
  have hslot : ((s.lines p level y).port p).rx.slot = (s.port p).rx.slot := by simp [State.lines, h]
  unfold State.frameFault State.faulted
  dsimp only
  rw [hslot]
  cases p <;> rfl

theorem frameFault_self {level : Bool} (h : (s.port p).ciFrm = level) : s.frameFault p = s.faulted p level (s.port p).rx := by
  have hf := frameFault_lines (s := s) (p := p) level (y := (s.port p).rx) rfl
  rwa [lines_self h] at hf

theorem onRx_lines (level : Bool) (y : Rx) (f : Rx → Rx) : (s.lines p level y).onRx p f = s.lines p level (f y) :=
  onPort_onPort p _ _ s

theorem onRx_self {level : Bool} (h : (s.port p).ciFrm = level) (f : Rx → Rx) :
    s.onRx p f = s.lines p level (f (s.port p).rx) := by
  subst h
  exact onPort_congr rfl

/-- The end of an event looks at the phase alone in the state before. -/
theorem settle_before {a b : State} (u : State) (h : a.ope.phase = b.ope.phase) : u.settle a = u.settle b := by
  unfold State.settle
  rw [h]

theorem dataComplete_iff : s.dataComplete p = true ↔
    ∀ i, (s.port p).rx.slot = some i → (s.bbf.slot i).len ≤ (s.bbf.slot i).data.length := by
  unfold State.dataComplete
  cases (s.port p).rx.slot <;> simp

theorem inError_iff (h : Hdr) : h.inError = true ↔
    16384 < h.dataLen ∨ (h.dataLen ≠ 0 ∧ h.cmd ≠ some .writeBlock ∧ h.cmd ≠ some .portReset) := by
  unfold Hdr.inError
  rw [Bool.or_eq_true, Bool.and_eq_true, Bool.and_eq_true]
  simp only [decide_eq_true_eq, and_assoc]

theorem headerDue_iff (x : Rx) : x.headerDue = true ↔ x.state = .header ∧ 9 ≤ x.bytes.length ∧ x.isRead = false := by
  simp [Rx.headerDue, and_assoc]

/-! ## A byte -/

theorem inboundByte_taken (hr : s.inReset = false) (hi : s.inService p = true) (v : Byte) (par : Bool)
    (hc : (s.port p).ciFrm = true) : exec (.inboundByte p v par) s = .next (s.byteIn p v par) := by
  rw [exec, execInboundByte, taken_running _ hr, if_pos (by rw [hc, hi]; rfl)]

theorem inboundByte_ignored (hr : s.inReset = false) (v : Byte) (par : Bool)
    (h : (s.port p).ciFrm = false ∨ s.byteIn p v par = s) : Becomes (.inboundByte p v par) s s := by
  rw [Becomes, exec, execInboundByte, taken_running _ hr]
  rcases h with h | h
  · rw [if_neg (by rw [h]; exact Bool.false_ne_true)]
  · rw [h, ite_self]

theorem headerByte_eq (hc : (s.port p).ciFrm = true) (v : Byte) (ok : Bool) : s.headerByte p v ok =
    let y : Rx := { (s.port p).rx with bytes := (s.port p).rx.bytes ++ [v] }
    if ok then s.lines p true y else s.faulted p true y := by
  unfold State.headerByte
  dsimp only
  rw [onRx_self hc]
  split
  · rfl
  · exact frameFault_lines true rfl

theorem byteIn_header (hc : (s.port p).ciFrm = true) (hx : (s.port p).rx.state = .header)
    (hl : (s.port p).rx.bytes.length < 9) (v : Byte) (par : Bool) : s.byteIn p v par =
      let y : Rx := { (s.port p).rx with bytes := (s.port p).rx.bytes ++ [v] }
      if oddParity v par then s.lines p true y else s.faulted p true y := by
  simp only [State.byteIn, hx, if_pos hl, headerByte_eq hc]

theorem byteIn_tenth (hc : (s.port p).ciFrm = true) (hx : (s.port p).rx.state = .header)
    (hl : 9 ≤ (s.port p).rx.bytes.length) (v : Byte) (par : Bool) : s.byteIn p v par = s.faulted p true (s.port p).rx := by
  simp only [State.byteIn, hx, if_neg (Nat.not_lt.mpr hl), frameFault_self hc]

theorem byteIn_held (hc : (s.port p).ciFrm = true) (hx : (s.port p).rx.state = .held) (v : Byte) (par : Bool) :
    s.byteIn p v par = s.faulted p true (s.port p).rx := by
  simp only [State.byteIn, hx, frameFault_self hc]

theorem byteIn_data (hc : (s.port p).ciFrm = true) (hx : (s.port p).rx.state = .data) (v : Byte) (par : Bool) :
    s.byteIn p v par = if oddParity v par = true ∧ s.dataComplete p = false then s.storeByte p v
      else (s.faulted p true (s.port p).rx).settle s := by
  simp only [State.byteIn, hx, frameFault_self hc]

theorem byteIn_ended (hc : (s.port p).ciFrm = true) (hx : (s.port p).rx.state = .ended) (hb : (s.port p).rx.bad = false)
    (v : Byte) (par : Bool) : s.byteIn p v par = (s.faulted p true (s.port p).rx).settle s := by
  simp only [State.byteIn, hx, hb, Bool.false_eq_true, if_false, frameFault_self hc]

theorem byteIn_discarded (v : Byte) (par : Bool) (h : (s.port p).rx.state = .idle ∨ (s.port p).rx.state = .drain
    ∨ ((s.port p).rx.state = .ended ∧ (s.port p).rx.bad = true)) : s.byteIn p v par = s := by
  rcases h with hx | hx | ⟨hx, hb⟩
  · simp only [State.byteIn, hx]
  · simp only [State.byteIn, hx]
  · simp only [State.byteIn, hx, hb, if_true]

/-! ## The header and the end of a frame -/

/-- What is read of a header that is not a PORT RESET's (R170, R171). -/
theorem frameHeaderComplete_due (hr : s.inReset = false) (hd : (s.port p).rx.headerDue = true)
    (hc : (s.port p).rx.header.inError = true ∨ (s.port p).rx.header.cmd ≠ some .portReset) :
    Becomes (.frameHeaderComplete p) s
      (let x := (s.port p).rx
       let c := (s.port p).ciFrm
       if x.header.inError then s.faulted p c x
       else if x.header.cmd = some .writeBlock ∧ 0 < x.header.dataLen then
         if c then s.lines p c { x with state := .held, isRead := true } else s.faulted p c x
       else s.lines p c { x with state := if c then .header else .ended, isRead := true }) := by
  rw [Becomes, exec, execFrameHeaderComplete, taken_running _ hr, if_pos hd]
  refine congrArg _ ?_
  unfold State.readHeader
  dsimp only
  rw [frameFault_self rfl, onRx_self rfl, onRx_self rfl]
  by_cases he : (s.port p).rx.header.inError = true
  · rw [if_pos he, if_pos he]
  · rw [if_neg he, if_neg he, if_neg (hc.resolve_left he)]


theorem frameEnd_taken (hr : s.inReset = false) (hc : (s.port p).ciFrm = true) :
    exec (.frameEnd p) s = .next ((s.lines p false (s.port p).rx).frameFall p) := by
  rw [exec, execFrameEnd, taken_running _ hr, if_pos hc, onPort_ciFrm]

theorem lines_rx (level : Bool) (y : Rx) : ((s.lines p level y).port p).rx = y := by simp [State.lines]

theorem lines_dataComplete (level : Bool) : (s.lines p level (s.port p).rx).dataComplete p = s.dataComplete p := by
  have hbbf : (s.lines p level (s.port p).rx).bbf = s.bbf := by simp [State.lines]
  unfold State.dataComplete
  rw [lines_rx, hbbf]

/-- The frame that has ended at the fall of CI-FRM. -/
theorem lines_rxEnd : (s.lines p false (s.port p).rx).rxEnd p = s.lines p false { (s.port p).rx with state := .ended } :=
  onRx_lines false _ _

theorem lines_frameFault : (s.lines p false (s.port p).rx).frameFault p = s.faulted p false (s.port p).rx :=
  frameFault_lines false rfl

theorem frameFall_header (hx : (s.port p).rx.state = .header) : (s.lines p false (s.port p).rx).frameFall p =
    if (s.port p).rx.bytes.length < 9 then s.faulted p false (s.port p).rx
    else if (s.port p).rx.isRead then s.lines p false { (s.port p).rx with state := .ended }
    else s.lines p false (s.port p).rx := by
  simp only [State.frameFall, lines_rx, hx, lines_frameFault, lines_rxEnd]

theorem frameFall_held (hx : (s.port p).rx.state = .held) :
    (s.lines p false (s.port p).rx).frameFall p = s.faulted p false (s.port p).rx := by
  simp only [State.frameFall, lines_rx, hx, lines_frameFault]

theorem frameFall_data (hx : (s.port p).rx.state = .data) : (s.lines p false (s.port p).rx).frameFall p =
    if s.dataComplete p then s.lines p false { (s.port p).rx with state := .ended }
    else (s.faulted p false (s.port p).rx).settle s := by
  have hsettle : ∀ u : State, u.settle (s.lines p false (s.port p).rx) = u.settle s :=
    fun u => settle_before u (by simp [State.lines])
  simp only [State.frameFall, lines_rx, hx, lines_frameFault, lines_rxEnd, lines_dataComplete, hsettle]

theorem frameFall_drain (hx : (s.port p).rx.state = .drain) : (s.lines p false (s.port p).rx).frameFall p =
    if (s.port p).rx.bad then s.lines p false { (s.port p).rx with state := .ended } else s.lines p false Rx.none := by
  simp only [State.frameFall, lines_rx, hx, lines_rxEnd, onRx_lines]

theorem frameFall_outside (hx : (s.port p).rx.state = .idle ∨ (s.port p).rx.state = .ended) :
    (s.lines p false (s.port p).rx).frameFall p = s.lines p false (s.port p).rx := by
  rcases hx with hx | hx <;> simp only [State.frameFall, lines_rx, hx]

end

/-- Settles O43: by the receive state at each arrival. -/
theorem frameReception : Obligations.FrameReception := by
  intro s p hr hi q x h onRx faulty full inError
  have hfull : full ↔ s.dataComplete p = true := dataComplete_iff.symm
  refine ⟨fun hc hx => ?_, fun hc hx => ?_, fun hc => ?_, fun v par => ⟨fun hor => ?_, fun hc =>
    ⟨fun hx hl => ⟨fun hok => ?_, fun hok => ?_⟩, fun hx hl => ?_, fun hx => ?_, fun hx hbad => ?_, fun hx hbad => ?_⟩⟩,
    fun hdue => ?_, fun hdue => ?_, fun hc => ?_, fun hc => ?_⟩
  · rw [Becomes, exec, execCiFrmRises, taken_running _ hr, if_neg (by rw [hc]; exact Bool.false_ne_true), onPort_ciFrm]
    refine congrArg _ ((if_pos ⟨?_, ?_⟩).trans (onRx_lines true _ _))
    · rw [← hi]; cases p <;> rfl
    · rw [lines_rx]; exact hx
  · rw [Becomes, exec, execCiFrmRises, taken_running _ hr, if_neg (by rw [hc]; exact Bool.false_ne_true), onPort_ciFrm]
    exact congrArg _ (if_neg (fun hc => hx (by rw [lines_rx] at hc; exact hc.2)))
  · rw [Becomes, exec, execCiFrmRises, taken_running _ hr, if_pos hc]
  · refine inboundByte_ignored hr v par (hor.imp_right (fun hx => ?_))
    exact byteIn_discarded v par hx
  · refine (inboundByte_taken hr hi v par hc).trans (congrArg _ ((byteIn_header hc hx hl v par).trans ?_))
    exact if_pos hok
  · refine (inboundByte_taken hr hi v par hc).trans (congrArg _ ((byteIn_header hc hx hl v par).trans ?_))
    exact if_neg (by rw [hok]; exact Bool.false_ne_true)
  · exact (inboundByte_taken hr hi v par hc).trans (congrArg _ (byteIn_tenth hc hx hl v par))
  · exact (inboundByte_taken hr hi v par hc).trans (congrArg _ (byteIn_held hc hx v par))
  · refine (inboundByte_taken hr hi v par hc).trans (congrArg _ ((byteIn_data hc hx v par).trans (if_neg ?_)))
    rintro ⟨hodd, hdata⟩
    rcases hbad with hbad | hbad
    · exact Bool.noConfusion (hbad.symm.trans hodd)
    · exact Bool.noConfusion (hdata.symm.trans (hfull.mp hbad))
  · exact (inboundByte_taken hr hi v par hc).trans (congrArg _ (byteIn_ended hc hx hbad v par))
  · have hread := frameHeaderComplete_due hr ((headerDue_iff x).mpr hdue)
    refine ⟨fun he => ?_, fun he hw hl => ⟨fun hc => ?_, fun hc => ?_⟩, fun he hp hor => ?_⟩
    · have herr := (inError_iff h).mpr he
      exact (hread (.inl herr)).trans (congrArg _ (if_pos herr))
    · have herr := mt (inError_iff h).mp he
      refine (hread (.inr (by rw [hw]; decide))).trans (congrArg _ ((if_neg herr).trans ((if_pos ⟨hw, hl⟩).trans ?_)))
      rw [show (s.port p).ciFrm = true from hc]
      rfl
    · have herr := mt (inError_iff h).mp he
      refine (hread (.inr (by rw [hw]; decide))).trans (congrArg _ ((if_neg herr).trans ((if_pos ⟨hw, hl⟩).trans ?_)))
      rw [show (s.port p).ciFrm = false from hc]
      rfl
    · have herr := mt (inError_iff h).mp he
      refine (hread (.inr hp)).trans (congrArg _ ((if_neg herr).trans (if_neg ?_)))
      rintro ⟨hw, hl⟩
      rcases hor with hor | hor
      · exact hor hw
      · exact absurd hl (by rw [show h.dataLen = 0 from hor]; exact Nat.lt_irrefl 0)
  · rw [Becomes, exec, execFrameHeaderComplete, taken_running _ hr, if_neg (mt (headerDue_iff x).mp hdue)]
  · rw [Becomes, exec, execFrameEnd, taken_running _ hr, if_neg (by rw [hc]; exact Bool.false_ne_true)]
  · have hfall : ∀ {t}, (s.lines p false (s.port p).rx).frameFall p = t → exec (.frameEnd p) s = .next t :=
      fun ht => (frameEnd_taken hr hc).trans (congrArg _ ht)
    refine ⟨fun hx hl => ?_, fun hx hl hread => ?_, fun hx hl hread => ?_, fun hx => ?_, fun hx hf => ?_, fun hx hf => ?_,
      fun hx hb => ?_, fun hx hb => ?_, fun hx => ?_⟩
    · exact hfall ((frameFall_header hx).trans (if_pos hl))
    · exact hfall ((frameFall_header hx).trans ((if_neg (Nat.not_lt.mpr hl)).trans (if_pos hread)))
    · exact hfall ((frameFall_header hx).trans ((if_neg (Nat.not_lt.mpr hl)).trans
        (if_neg (by rw [hread]; exact Bool.false_ne_true))))
    · exact hfall (frameFall_held hx)
    · exact hfall ((frameFall_data hx).trans (if_pos (hfull.mp hf)))
    · exact hfall ((frameFall_data hx).trans (if_neg (mt hfull.mpr hf)))
    · exact hfall ((frameFall_drain hx).trans (if_pos hb))
    · exact hfall ((frameFall_drain hx).trans (if_neg (by rw [hb]; exact Bool.false_ne_true)))
    · exact hfall (frameFall_outside hx)

/-! ## The admission of write data -/

theorem isWrite_iff (c : Cmd) : c.isWrite = true ↔ c = .writeBlock ∨ c = .writeMark := by cases c <;> decide

section
variable {s : State} {p : PortId}

theorem mayAdmit_iff (hi : s.inService p = true) : s.mayAdmit p = true ↔ (s.port p).rx.state = .held
    ∧ (s.port p).recordCount < 8 ∧ (s.port p).queue.length < 4
    ∧ (∀ o ∈ (s.port p).queue, o.cmd = .writeBlock ∨ o.cmd = .writeMark) ∧ s.charge p < 8 := by
  simp only [State.mayAdmit, hi, Bool.true_and, Bool.and_eq_true, decide_eq_true_eq, List.all_eq_true, isWrite_iff, and_assoc]

theorem writeDataAdmitted_taken (hr : s.inReset = false) :
    exec (.writeDataAdmitted p) s = .next (if s.mayAdmit p then s.admitData p else s) := taken_running _ hr

theorem admitData_eq {i : Nat} (h : s.bbf.candidate = some i) : s.admitData p =
    { (s.onPort p (fun q => { q with rx := { q.rx with state := .data, slot := some i } })) with
      bbf := s.bbf.take i { Slot.freed with state := .filling, owner := some p, len := (s.port p).rx.header.dataLen,
                                            tag := (s.port p).rx.header.tag } } := by
  unfold State.admitData
  rw [h]
  cases p <;> rfl

end

theorem slot_eq_getElem {b : Bbf} {k : Nat} (h : k < b.slots.length) : b.slot k = b.slots[k] := by
  simp [Bbf.slot, h]

/-- With a FREE slot the candidate is the lowest one. -/
theorem candidate_free (b : Bbf) (i : Nat) (h : ∃ k < b.slots.length, (b.slot k).state = .free) :
    b.candidate = some i ↔ i < b.slots.length ∧ (b.slot i).state = .free ∧ ∀ k < i, (b.slot k).state ≠ .free := by
  obtain ⟨k, hk, hfree⟩ := h
  obtain ⟨m, hm⟩ : ∃ m, b.slots.findIdx? (fun x => x.state = .free) = some m := by
    refine Option.isSome_iff_exists.mp (List.findIdx?_isSome.trans (List.any_eq_true.mpr ⟨b.slots[k], List.getElem_mem hk, ?_⟩))
    rw [← slot_eq_getElem hk, hfree]
    rfl
  have hc : b.candidate = some m := by simp only [Bbf.candidate, hm]
  have hspec : ∀ n, b.slots.findIdx? (fun x => x.state = .free) = some n ↔
      n < b.slots.length ∧ (b.slot n).state = .free ∧ ∀ k < n, (b.slot k).state ≠ .free := by
    intro n
    rw [List.findIdx?_eq_some_iff_getElem]
    constructor
    · rintro ⟨hn, hfree, hlow⟩
      refine ⟨hn, ?_, fun k hk => ?_⟩
      · rw [slot_eq_getElem hn]; exact of_decide_eq_true hfree
      · rw [slot_eq_getElem (hk.trans hn)]
        simpa using hlow k hk
    · rintro ⟨hn, hfree, hlow⟩
      refine ⟨hn, ?_, fun k hk => ?_⟩
      · rw [slot_eq_getElem hn] at hfree; exact decide_eq_true hfree
      · have := hlow k hk
        rw [slot_eq_getElem (hk.trans hn)] at this
        simpa using this
  rw [hc, ← hm, hspec]

/-- Without a FREE slot the candidate is sought on the cache list. -/
theorem candidate_cached (b : Bbf) (h : ∀ k < b.slots.length, (b.slot k).state ≠ .free) :
    b.candidate = b.cache.find? (fun i => (b.slot i).pins = 0) := by
  have hnone : b.slots.findIdx? (fun x => x.state = .free) = none := by
    refine List.findIdx?_eq_none_iff.mpr (fun x hx => ?_)
    obtain ⟨k, hk, rfl⟩ := List.getElem_of_mem hx
    have := h k hk
    rw [slot_eq_getElem hk] at this
    exact decide_eq_false this
  simp only [Bbf.candidate, hnone]

/-- Settles O44: the conditions of the admission, and the slot that R79 gives. -/
theorem writeDataAdmission : Obligations.WriteDataAdmission := by
  intro s p i hr hi
  refine ⟨fun hx hn hq hw hc hcand => ?_, candidate_free s.bbf i, fun h => ?_, fun hx hor => ?_, fun hx => ?_,
    fun v par hc hx hs hl hodd => ?_⟩
  · rw [Becomes, writeDataAdmitted_taken hr, if_pos ((mayAdmit_iff hi).mpr ⟨hx, hn, hq, hw, hc⟩), admitData_eq hcand]
    rfl
  · rw [candidate_cached s.bbf h]
    refine ⟨?_, ?_⟩
    · rw [List.find?_eq_some_iff_append]
      constructor
      · rintro ⟨hp, before, after, heq, hbefore⟩
        exact ⟨before, after, heq, of_decide_eq_true hp, fun k hk => by simpa using hbefore k hk⟩
      · rintro ⟨before, after, heq, hp, hbefore⟩
        exact ⟨decide_eq_true hp, before, after, heq, fun k hk => by simpa using hbefore k hk⟩
    · rw [List.find?_eq_none]
      simp
  · have hno : ¬ s.mayAdmit p = true := by
      rw [mayAdmit_iff hi]
      rintro ⟨-, hn, hq, hw, hc⟩
      rcases hor with h | h | h | ⟨o, ho, h₁, h₂⟩
      · omega
      · omega
      · omega
      · exact (hw o ho).elim h₁ h₂
    rw [Becomes, writeDataAdmitted_taken hr, if_neg hno]
  · rw [Becomes, writeDataAdmitted_taken hr, if_neg (fun h => hx ((mayAdmit_iff hi).mp h).1)]
  · have hdata : s.dataComplete p = false := by
      rw [Bool.eq_false_iff]
      exact fun h => absurd (dataComplete_iff.mp h i hs) (Nat.not_le.mpr hl)
    refine (inboundByte_taken hr hi v par hc).trans (congrArg _ ((byteIn_data hc hx v par).trans ((if_pos ⟨hodd, hdata⟩).trans ?_)))
    simp only [State.storeByte, hs]
    rfl

end Sys2Proof.Machine

/-! PROOF. The EOD bound at the ports, and the takes of queued operations and of writes (R82, R90, R107, R139, R151 to R154, R160,
R161). -/

namespace Sys2Proof.Machine

/-! ## The EOD bound -/

/-- A port bounded by EOD, POSITION_CLAMPED added where that lowers something and the port is not out of service. -/
def Port.boundTo (d : Bdr) (enabled : Bool) (q : Port) : Port :=
  (q.bounded d).raise (if enabled && q.clampedBy d then EventKind.positionClamped.bit else 0)

section
variable (s : State)

theorem raise_zero (q : Port) : q.raise 0 = q := by
  unfold Port.raise
  rw [show q.pendingEv ||| 0 = q.pendingEv from BitVec.or_zero]

theorem boundPort_eq (p : PortId) : s.boundPort p = s.onPort p (Port.boundTo s.bdr (s.enabled p)) := by
  unfold State.boundPort State.addEvent
  dsimp only
  rw [State.onPort_enabled]
  by_cases hc : (s.port p).clampedBy s.bdr = true <;> by_cases he : s.enabled p = true
  · rw [if_pos hc, if_pos he, onPort_onPort]
    exact onPort_congr (by simp only [Port.boundTo, he, hc]; rfl)
  · rw [if_pos hc, if_neg he]
    exact onPort_congr (by rw [Port.boundTo, if_neg (by simp [he]), raise_zero])
  · rw [if_neg hc]
    exact onPort_congr (by rw [Port.boundTo, if_neg (by simp [hc]), raise_zero])
  · rw [if_neg hc]
    exact onPort_congr (by rw [Port.boundTo, if_neg (by simp [hc]), raise_zero])

@[simp] theorem boundPorts_dsq : s.boundPorts.dsq = s.dsq := by simp [State.boundPorts]
@[simp] theorem boundPorts_tsv : s.boundPorts.tsv = s.tsv := by simp [State.boundPorts]
@[simp] theorem boundPorts_ope : s.boundPorts.ope = s.ope := by simp [State.boundPorts, boundPort_eq]
@[simp] theorem boundPorts_arb : s.boundPorts.arb = s.arb := by simp [State.boundPorts, boundPort_eq]
@[simp] theorem boundPorts_bbf : s.boundPorts.bbf = s.bbf := by simp [State.boundPorts, boundPort_eq]
@[simp] theorem boundPorts_bdr : s.boundPorts.bdr = s.bdr := by simp [State.boundPorts, boundPort_eq]
@[simp] theorem boundPorts_enabled (p : PortId) : s.boundPorts.enabled p = s.enabled p :=
  enabled_of_dsq (boundPorts_dsq s) p

@[simp] theorem boundPorts_port (p : PortId) : s.boundPorts.port p = (s.port p).boundTo s.bdr (s.enabled p) := by
  unfold State.boundPorts
  rw [boundPort_eq, boundPort_eq, State.onPort_enabled, State.onPort_bdr, State.onPort_port_eq, State.onPort_port_eq]
  cases p <;> simp

end

theorem map_self_iff {f : Nat → Nat} {l : List Nat} : l.map f = l ↔ ∀ m ∈ l, f m = m := by
  have h : l.map f = l.map id ↔ ∀ m ∈ l, f m = id m := List.map_inj_left
  rwa [List.map_id] at h

theorem map_ne_self {f : Nat → Nat} {l : List Nat} : l ≠ l.map f ↔ ∃ m ∈ l, f m ≠ m := by
  rw [ne_comm, Ne, map_self_iff]
  simp only [not_forall, exists_prop, ne_eq]

theorem bound_some {d : Bdr} {e : Nat} (h : d.eod = some e) (n : Nat) : d.bound n = min n e := by
  simp only [Bdr.bound, h]

theorem bound_none {d : Bdr} (h : d.eod = none) (n : Nat) : d.bound n = n := by simp only [Bdr.bound, h]

/-- The bound lowers something exactly where a number or a mark lies above EOD. -/
theorem clampedBy_some {d : Bdr} {e : Nat} (h : d.eod = some e) (q : Port) :
    q.clampedBy d = true ↔ e < q.next ∨ ∃ m ∈ q.marks, e < m := by
  simp only [Port.clampedBy, Bool.or_eq_true, bne_iff_ne, map_ne_self]
  simp only [bound_some h]
  constructor
  · rintro (h | ⟨m, hm, h⟩)
    · exact .inl (by omega)
    · exact .inr ⟨m, hm, by omega⟩
  · rintro (h | ⟨m, hm, h⟩)
    · exact .inl (by omega)
    · exact .inr ⟨m, hm, by omega⟩

theorem boundTo_none {d : Bdr} (h : d.eod = none) (b : Bool) (q : Port) : q.boundTo d b = q := by
  have hb : q.bounded d = q := by
    unfold Port.bounded
    rw [bound_none h, map_self_iff.mpr (fun m _ => bound_none h m)]
  have hc : q.clampedBy d = false := by
    rw [Port.clampedBy, bound_none h, map_self_iff.mpr (fun m _ => bound_none h m)]
    simp
  unfold Port.boundTo
  rw [hb, hc, Bool.and_false, if_neg Bool.false_ne_true, raise_zero]

/-- What a known EOD leaves of a port. -/
theorem boundTo_some {d : Bdr} {e : Nat} (h : d.eod = some e) (b : Bool) (q : Port) :
    (q.boundTo d b).next = min q.next e ∧ (q.boundTo d b).marks = q.marks.map (fun m => min m e)
      ∧ (q.boundTo d b).pendingEv = q.pendingEv |||
        (if b = true ∧ (e < q.next ∨ ∃ m ∈ q.marks, e < m) then EventKind.positionClamped.bit else 0) := by
  refine ⟨bound_some h _, List.map_congr_left (fun m _ => bound_some h m), ?_⟩
  refine congrArg (fun x => q.pendingEv ||| x) (if_congr ?_ rfl rfl)
  rw [Bool.and_eq_true, clampedBy_some h]

/-- The bound leaves the rest of a port. -/
theorem boundTo_frame (d : Bdr) (b : Bool) (q : Port) : q.boundTo d b =
    { q with next := (q.boundTo d b).next, marks := (q.boundTo d b).marks, pendingEv := (q.boundTo d b).pendingEv } := rfl

/-! ## Queued operations -/

theorem exec_takeOf_queued {c : Cmd} (hq : c.isQueued = true) (hw : c.isWrite = false) (p : PortId) (s : State) :
    exec (takeOf c p) s = taken s (State.takeQueued p c) := by
  cases c
  case writeBlock => exact absurd hw.symm Bool.false_ne_true
  case writeMark => exact absurd hw.symm Bool.false_ne_true
  case load => rfl
  case readBlock => rfl
  case space => rfl
  case locate => rfl
  case rewind => rfl
  case unload => rfl
  case pushMark => rfl
  case returnToMark => rfl
  all_goals exact absurd hq Bool.false_ne_true

theorem holdsFrame_iff (s : State) (p : PortId) (c : Cmd) : s.holdsFrame p c = true ↔ s.inService p = true
    ∧ (s.port p).rx.state = .ended ∧ (s.port p).rx.bad = false ∧ (s.port p).rx.header.cmd = some c
    ∧ (s.port p).recordCount < 8 := by
  have hlt : decide ((s.port p).recordCount < Config.maxRecords) = true ↔ (s.port p).recordCount < 8 := decide_eq_true_iff
  simp only [State.holdsFrame, State.endedWithRoom, Bool.and_eq_true, decide_eq_true_eq, Bool.not_eq_true', hlt]
  tauto

theorem takes_queued_iff {c : Cmd} (hq : c.isQueued = true) (hw : c.isWrite = false) (s : State) (p : PortId) :
    s.takes p c = true ↔ s.inService p = true ∧ (s.port p).rx.state = .ended ∧ (s.port p).rx.bad = false
      ∧ (s.port p).rx.header.cmd = some c ∧ (s.port p).recordCount < 8 ∧ (s.port p).queue.length < 4 := by
  have ht : s.takes p c = (s.holdsFrame p c && (s.port p).queueRoom) := by
    cases c
    case writeBlock => exact absurd hw.symm Bool.false_ne_true
    case writeMark => exact absurd hw.symm Bool.false_ne_true
    all_goals first
      | exact absurd hq Bool.false_ne_true
      | rfl
  have hroom : (s.port p).queueRoom = true ↔ (s.port p).queue.length < 4 := decide_eq_true_iff
  rw [ht, Bool.and_eq_true, holdsFrame_iff, hroom]
  tauto

/-- Settles O50: the operation joins its queue, or its refusal is answered. -/
theorem queuedFramesJoinTheirQueue : Obligations.QueuedFramesJoinTheirQueue := by
  intro s p c hr hq hw h param
  have hx := exec_takeOf_queued hq hw p s
  have hparam : opParam c h.param = param := by
    cases c
    case locate => exact max_eq_right (by omega)
    all_goals rfl
  refine ⟨takes_queued_iff hq hw s p, fun ht hn => ?_, fun code n ht hn => ?_, fun ht => ?_⟩
  · rw [Settles, hx, taken_running _ hr, State.takeQueued, if_pos ht, State.queueFrame]
    simp only [hn]
    refine congrArg (fun u => Host.Outcome.next (State.settle u s)) ?_
    refine (onPort_onPort p _ _ s).trans (onPort_congr ?_)
    rw [← hparam]
    rfl
  · rw [Settles, hx, taken_running _ hr, State.takeQueued, if_pos ht, State.queueFrame]
    simp only [hn]
    refine congrArg (fun u => Host.Outcome.next (State.settle u s)) ?_
    exact (refuse_nextFrame p h none code n s).trans rfl
  · rw [Becomes, hx, taken_running _ hr, State.takeQueued, if_neg (by rw [ht]; exact Bool.false_ne_true)]

/-! ## Writes -/

theorem exec_takeOf_write {c : Cmd} (hw : c.isWrite = true) {s : State} {p : PortId} (hr : s.inReset = false)
    (ht : s.takes p c = true) (hl : c = .writeBlock → 0 < (s.port p).rx.header.dataLen) :
    exec (takeOf c p) s = .next ((s.writeFrame p c).settle s) := by
  rcases (isWrite_iff c).mp hw with rfl | rfl
  · refine (taken_running _ hr).trans (congrArg _ ((if_pos ht).trans (if_neg ?_)))
    exact Nat.pos_iff_ne_zero.mp (hl rfl)
  · exact (taken_running _ hr).trans (congrArg _ (if_pos ht))

section
variable (n : Nat) (slot : Option Nat) (s : State)

theorem makePending_eq : s.makePending slot n = s.onBbf (fun b => match slot with
    | some i => b.modify i (fun x => { x with state := .pending, block := some n, tag := 0 })
    | none => b) := by
  cases slot <;> rfl

/-- The parts of the state after a write taken as block `n` has truncated the volume and its slot is PENDING. -/
theorem truncated_parts :
    let t := (s.truncateAt n).makePending slot n
    t.dsq = s.dsq ∧ t.tsv = s.tsv ∧ t.ope = s.ope ∧ t.arb = s.arb ∧ t.bdr = s.bdr.truncate n
      ∧ t.bbf = (s.bbf.truncate n |> fun b => match slot with
        | some i => b.modify i (fun x => { x with state := .pending, block := some n, tag := 0 })
        | none => b)
      ∧ ∀ p, t.port p = (s.port p).boundTo (s.bdr.truncate n) (s.enabled p) := by
  intro t
  have ht : t = _ := makePending_eq n slot (s.truncateAt n)
  rw [ht]
  unfold State.truncateAt
  refine ⟨?_, ?_, ?_, ?_, ?_, ?_, fun p => ?_⟩
  · simp
  · simp
  · simp
  · simp
  · simp
  · simp
  · cases p <;> simp [State.enabled]

theorem slot_modify_self (f : Slot → Slot) {b : Bbf} {i : Nat} (h : i < b.slots.length) : (b.modify i f).slot i = f (b.slot i) := by
  unfold Bbf.modify Bbf.slot
  simp [List.getD_eq_getElem?_getD, h]

end

section
variable {s : State} {p : PortId} {c : Cmd}

/-- A write taken: what its port's record, queue and slot say, and what is truncated. -/
theorem writeFrame_taken (hn : s.refusal p c = none) :
    s.writeFrame p c = (s.onPort p Port.nextFrame).acceptWrite p c (s.port p).rx.header (s.port p).rx.slot (s.port p).writeNumber := by
  unfold State.writeFrame
  simp only [hn]

theorem writeFrame_refused {code : Code} {n : Nat} (hn : s.refusal p c = some (code, n)) :
    s.writeFrame p c = (s.onPort p Port.nextFrame).refuse p (s.port p).rx.header (s.port p).rx.slot code n := by
  unfold State.writeFrame
  simp only [hn]

/-- The record of a buffered WRITE BLOCK, given at its take. -/
def takeRecords (s : State) (p : PortId) (c : Cmd) (h : Hdr) (n : Nat) : List Rec :=
  if (s.port p).answersAtTake c then [completeRec h.tag h.code (if s.ope.eotLatch then .okEot else .ok) n []] else []

theorem acceptWrite_eq (h : Hdr) (slot : Option Nat) (n : Nat) (s : State) : s.acceptWrite p c h slot n =
    ((s.truncateAt n).makePending slot n).onPort p (fun q =>
      { q with queue := q.queue ++ [writeOp c h n slot ((s.port p).answersAtTake c)]
               status := q.status ++ takeRecords s p c h n }) := by
  have hlatch : ((s.truncateAt n).makePending slot n).ope = s.ope := (truncated_parts n slot s).2.2.1
  unfold State.acceptWrite State.answerBuffered takeRecords
  dsimp only
  by_cases ha : (s.port p).answersAtTake c = true
  · rw [if_pos ha, if_pos ha]
    simp only [State.answer, State.place, State.joinQueue, State.onPort_ope, hlatch, onPort_onPort]
  · rw [if_neg ha, if_neg ha]
    exact onPort_congr (by rw [List.append_nil])

end

/-- Settles O51: the truncation, the slot and the queue by their own rules; a refusal and a length 0 by their answers. -/
theorem writesAreTaken : Obligations.WritesAreTaken := by
  intro s p c hr hw ht h
  refine ⟨fun hn hl => ?_, fun code n hn hl => ?_, fun hc hl => ?_⟩
  · intro n atTake
    have hu : s.writeFrame p c = (s.onPort p Port.nextFrame).acceptWrite p c h (s.port p).rx.slot n := writeFrame_taken hn
    rw [acceptWrite_eq] at hu
    refine ⟨s.writeFrame p c, exec_takeOf_write hw hr ht hl, ?_⟩
    rw [hu]
    obtain ⟨hdsq, htsv, hope, harb, hbdr, hbbf, hport⟩ := truncated_parts n (s.port p).rx.slot (s.onPort p Port.nextFrame)
    simp only [State.onPort_dsq, State.onPort_tsv, State.onPort_ope, State.onPort_arb, State.onPort_bbf, State.onPort_bdr,
      State.onPort_enabled] at hdsq htsv hope harb hbdr hbbf hport
    have hmode : (s.port p).nextFrame.answersAtTake c = decide atTake := (Bool.decide_and _ _).symm
    have hother : ∀ f : Port → Port, ((((s.onPort p Port.nextFrame).truncateAt n).makePending (s.port p).rx.slot n).onPort p f).port
        p.other = (s.port p.other).boundTo (s.bdr.truncate n) (s.enabled p.other) := fun f => by
      rw [State.onPort_port_other, hport, State.onPort_port_other]
    refine ⟨by rw [State.onPort_bdr]; exact hbdr, fun q => ?_, ?_, ?_, ?_, ?_, ?_, fun i hi hlt => ?_, ?_, ?_, ?_, ?_⟩
    · have hbound := boundTo_some (d := s.bdr.truncate n) (e := n + 1) rfl (s.enabled q) (s.port q)
      rcases PortId.eq_or_other p q with rfl | rfl
      · rw [State.onPort_port, hport, State.onPort_port]
        exact hbound
      · rw [hother]
        exact hbound
    · rw [State.onPort_bbf, hbbf]
      cases (s.port p).rx.slot with
      | none => exact truncate_truncatedAt n s.bbf
      | some k => exact TruncatedAt_modify _ (truncate_truncatedAt n s.bbf)
    · rw [State.onPort_port, hport, State.onPort_port]
      refine congrArg (fun o => (s.port p).queue ++ [o]) ?_
      have hparam : opParam c h.param = h.param.toNat := by
        rcases (isWrite_iff c).mp hw with rfl | rfl <;> rfl
      unfold writeOp frameOp
      rw [hmode]
      exact congrArg (fun x => Op.mk c h.tag x h.chain (!decide atTake) (some n) (s.port p).rx.slot false) hparam
    · rw [State.onPort_port, hport, State.onPort_port]
      refine congrArg (fun l => (s.port p).status ++ l) ?_
      unfold takeRecords
      rw [State.onPort_port, hmode, State.onPort_ope]
      exact if_congr decide_eq_true_iff rfl rfl
    · rw [hother]; rfl
    · rw [hother]; rfl
    · have hslot := slot_modify_self (fun x => { x with state := .pending, block := some n, tag := 0 })
        (b := s.bbf.truncate n) (i := i) (by simpa [Bbf.truncate, Bbf.mapSlots] using hlt)
      rw [State.onPort_bbf, hbbf, show (s.port p).rx.slot = some i from hi]
      dsimp only
      rw [hslot]
      refine ⟨rfl, rfl, fun _ hb => ?_⟩
      have hsame : (s.bbf.truncate n).slot i = s.bbf.slot i := by
        rw [Bbf.truncate, slot_mapSlots _ _ _ rfl, Slot.truncated, hb]
      rw [hsame]
    · rw [State.onPort_tsv]; exact htsv
    · rw [State.onPort_dsq]; exact hdsq
    · rw [State.onPort_ope]; exact hope
    · rw [State.onPort_arb]; exact harb
  · rw [Settles, exec_takeOf_write hw hr ht hl, writeFrame_refused hn, refuse_nextFrame]
    refine congrArg (fun u => Host.Outcome.next (State.settle u s)) ?_
    cases p <;> cases (State.port s _).rx.slot <;> rfl
  · subst hc
    refine (taken_running _ hr).trans (congrArg _ ((if_pos ht).trans ((if_pos hl).trans ?_)))
    exact congrArg State.seal (answer_nextFrame _ _ _ _ _ _)

end Sys2Proof.Machine

/-! PROOF. The end of an engine operation, and the deck sequencer's load: its start, its failure, its end in READY, and the end of
WIND_OFF (R4 to R9, R11, R12, R130, R132). -/

namespace Sys2Proof.Machine

/-! ## The end of an operation -/

/-- The engine with its latch tested (R132). -/
def Ope.tested (passed : Bool) (e : Ope) : Ope := { e with eotLatch := e.eotLatch && passed }

/-- The engine with its operation ended. -/
def Ope.dropped (passed : Bool) (e : Ope) : Ope := { e.tested passed with job := none, corrections := 0 }

/-- A port whose executing operation leaves its queue with the records it owes. -/
def Port.leaves (j : Job) (recs : List Rec) (q : Port) : Port :=
  { q with queue := q.queue.tail, status := q.status ++ (if j.op.owed then recs else []) }

section
variable (s : State) (j : Job)

theorem latchTest_eq : s.latchTest = s.onOpe (Ope.tested s.tsv.eotPassed) := by
  unfold State.latchTest Ope.tested
  cases s.tsv.eotPassed
  · simp
  · simp [State.onOpe]

theorem dropJob_eq : s.dropJob = s.onOpe (Ope.dropped s.tsv.eotPassed) := by
  unfold State.dropJob
  rw [latchTest_eq]
  rfl

theorem leaveQueue_of_port (recs : List Rec) {p : PortId} (h : j.port = some p) :
    s.leaveQueue j recs = s.onPort p (Port.leaves j recs) := by
  obtain ⟨ha, ho⟩ := Job.port_eq.mp h
  simp only [State.leaveQueue, ha, ho, Bool.false_eq_true, if_false]
  rfl

theorem leaveQueue_of_none (recs : List Rec) (h : j.port = none) : s.leaveQueue j recs = s := by
  unfold State.leaveQueue
  cases ha : j.actor with
  | panel => rfl
  | port p =>
    cases ho : j.orphan with
    | true => simp
    | false => exact absurd (Job.port_eq.mpr ⟨ha, ho⟩) (by rw [h]; exact nofun)

/-- The operations that leave the queue change ports alone. -/
theorem leaveQueue_frame (recs : List Rec) : s.leaveQueue j recs = s ∨ ∃ p, s.leaveQueue j recs = s.onPort p (Port.leaves j recs) := by
  cases h : j.port with
  | none => exact .inl (leaveQueue_of_none s j recs h)
  | some p => exact .inr ⟨p, leaveQueue_of_port s j recs h⟩

@[simp] theorem leaveQueue_dsq (recs : List Rec) : (s.leaveQueue j recs).dsq = s.dsq := by
  rcases leaveQueue_frame s j recs with h | ⟨p, h⟩ <;> rw [h]; simp
@[simp] theorem leaveQueue_tsv (recs : List Rec) : (s.leaveQueue j recs).tsv = s.tsv := by
  rcases leaveQueue_frame s j recs with h | ⟨p, h⟩ <;> rw [h]; simp
@[simp] theorem leaveQueue_ope (recs : List Rec) : (s.leaveQueue j recs).ope = s.ope := by
  rcases leaveQueue_frame s j recs with h | ⟨p, h⟩ <;> rw [h]; simp
@[simp] theorem leaveQueue_arb (recs : List Rec) : (s.leaveQueue j recs).arb = s.arb := by
  rcases leaveQueue_frame s j recs with h | ⟨p, h⟩ <;> rw [h]; simp
@[simp] theorem leaveQueue_bbf (recs : List Rec) : (s.leaveQueue j recs).bbf = s.bbf := by
  rcases leaveQueue_frame s j recs with h | ⟨p, h⟩ <;> rw [h]; simp
@[simp] theorem leaveQueue_bdr (recs : List Rec) : (s.leaveQueue j recs).bdr = s.bdr := by
  rcases leaveQueue_frame s j recs with h | ⟨p, h⟩ <;> rw [h]; simp
@[simp] theorem leaveQueue_enabled (recs : List Rec) (p : PortId) : (s.leaveQueue j recs).enabled p = s.enabled p :=
  enabled_of_dsq (leaveQueue_dsq s j recs) p

/-- What leaves a queue changes the queue and the status alone. -/
theorem leaveQueue_port_frame (recs : List Rec) (p : PortId) : (s.leaveQueue j recs).port p =
    { s.port p with queue := ((s.leaveQueue j recs).port p).queue, status := ((s.leaveQueue j recs).port p).status } := by
  rcases leaveQueue_frame s j recs with h | ⟨q, h⟩ <;> rw [h]
  rw [State.onPort_port_eq]
  split <;> rfl

@[simp] theorem goIdle_dsq : s.goIdle.dsq = s.dsq := rfl
@[simp] theorem goIdle_tsv : s.goIdle.tsv = s.tsv := rfl
@[simp] theorem goIdle_arb : s.goIdle.arb = s.arb := rfl
@[simp] theorem goIdle_bbf : s.goIdle.bbf = s.bbf := rfl
@[simp] theorem goIdle_bdr : s.goIdle.bdr = s.bdr := rfl
@[simp] theorem goIdle_port (p : PortId) : s.goIdle.port p = s.port p := by cases p <;> rfl
@[simp] theorem goIdle_enabled (p : PortId) : s.goIdle.enabled p = s.enabled p := by cases p <;> rfl
@[simp] theorem goIdle_ope : s.goIdle.ope = { s.ope with phase := .idle, attempt := 0, asking := false } := rfl

variable (c : Code) (detail : Nat)

theorem finishJob_eq : s.finishJob j c detail =
    (s.leaveQueue j [opRec j.op (s.engineCode c) detail]).onOpe (Ope.dropped s.tsv.eotPassed) := by
  unfold State.finishJob
  rw [dropJob_eq, leaveQueue_tsv]

@[simp] theorem finishJob_dsq : (s.finishJob j c detail).dsq = s.dsq := by simp [finishJob_eq]
@[simp] theorem finishJob_tsv : (s.finishJob j c detail).tsv = s.tsv := by simp [finishJob_eq]
@[simp] theorem finishJob_arb : (s.finishJob j c detail).arb = s.arb := by simp [finishJob_eq]
@[simp] theorem finishJob_bbf : (s.finishJob j c detail).bbf = s.bbf := by simp [finishJob_eq]
@[simp] theorem finishJob_bdr : (s.finishJob j c detail).bdr = s.bdr := by simp [finishJob_eq]
@[simp] theorem finishJob_ope : (s.finishJob j c detail).ope = s.ope.dropped s.tsv.eotPassed := by simp [finishJob_eq]
@[simp] theorem finishJob_enabled (p : PortId) : (s.finishJob j c detail).enabled p = s.enabled p :=
  enabled_of_dsq (finishJob_dsq s j c detail) p

theorem finishJob_port (p : PortId) :
    (s.finishJob j c detail).port p = (s.leaveQueue j [opRec j.op (s.engineCode c) detail]).port p := by simp [finishJob_eq]

/-- The port of the operation, when it ends. -/
theorem finishJob_port_own {p : PortId} (h : j.port = some p) :
    (s.finishJob j c detail).port p = (s.port p).leaves j [opRec j.op (s.engineCode c) detail] := by
  rw [finishJob_port, leaveQueue_of_port s j _ h, State.onPort_port]

theorem finishJob_port_other {p : PortId} (h : j.port ≠ some p) : (s.finishJob j c detail).port p = s.port p := by
  rw [finishJob_port]
  cases hj : j.port with
  | none => rw [leaveQueue_of_none s j _ hj]
  | some q =>
    rw [leaveQueue_of_port s j _ hj, State.onPort_port_eq, if_neg]
    rintro rfl
    exact h hj

end

theorem engineCode_ne_ok {s : State} {c : Code} (h : c ≠ .ok) : s.engineCode c = c := if_neg (fun hc => h hc.1)

theorem engineCode_ok (s : State) : s.engineCode .ok = if s.tsv.eotPassed then .okEot else .ok := by
  unfold State.engineCode
  simp

/-! ## An operation that the deck sequencer works for -/

section
variable (s : State) (c : Cmd → Code)

theorem finishDeckJob_of_deck {j : Job} (hj : s.ope.job = some j) (hs : j.stage = .deck) :
    s.finishDeckJob c = (s.finishJob j (c j.op.cmd) 0).goIdle := by
  simp only [State.finishDeckJob, hj, hs, if_true]

theorem finishDeckJob_of_none (hj : s.ope.job = none) : s.finishDeckJob c = s := by simp only [State.finishDeckJob, hj]

theorem finishDeckJob_cases : s.finishDeckJob c = s ∨ ∃ j d, s.finishDeckJob c = (s.finishJob j d 0).goIdle := by
  cases hj : s.ope.job with
  | none => exact .inl (finishDeckJob_of_none s c hj)
  | some j =>
    by_cases hs : j.stage = .deck
    · exact .inr ⟨j, _, finishDeckJob_of_deck s c hj hs⟩
    · exact .inl (by simp only [State.finishDeckJob, hj, hs, if_false])

@[simp] theorem finishDeckJob_dsq : (s.finishDeckJob c).dsq = s.dsq := by
  rcases finishDeckJob_cases s c with h | ⟨j, d, h⟩ <;> rw [h]; simp
@[simp] theorem finishDeckJob_tsv : (s.finishDeckJob c).tsv = s.tsv := by
  rcases finishDeckJob_cases s c with h | ⟨j, d, h⟩ <;> rw [h]; simp
@[simp] theorem finishDeckJob_arb : (s.finishDeckJob c).arb = s.arb := by
  rcases finishDeckJob_cases s c with h | ⟨j, d, h⟩ <;> rw [h]; simp
@[simp] theorem finishDeckJob_bbf : (s.finishDeckJob c).bbf = s.bbf := by
  rcases finishDeckJob_cases s c with h | ⟨j, d, h⟩ <;> rw [h]; simp
@[simp] theorem finishDeckJob_bdr : (s.finishDeckJob c).bdr = s.bdr := by
  rcases finishDeckJob_cases s c with h | ⟨j, d, h⟩ <;> rw [h]; simp
@[simp] theorem finishDeckJob_enabled (p : PortId) : (s.finishDeckJob c).enabled p = s.enabled p :=
  enabled_of_dsq (finishDeckJob_dsq s c) p

/-- The engine's numbers stand when such an operation ends, and the latch is not set by it. -/
theorem finishDeckJob_ope : let e := (s.finishDeckJob c).ope
    e.deckNext = s.ope.deckNext ∧ e.posValid = s.ope.posValid ∧ e.expStart = s.ope.expStart ∧ e.failCount = s.ope.failCount
      ∧ (s.ope.eotLatch = false → e.eotLatch = false) := by
  rcases finishDeckJob_cases s c with h | ⟨j, d, h⟩ <;> rw [h]
  · exact ⟨rfl, rfl, rfl, rfl, id⟩
  · rw [goIdle_ope, finishJob_ope]
    exact ⟨rfl, rfl, rfl, rfl, fun h => by show (s.ope.eotLatch && _) = false; rw [h]; rfl⟩

theorem finishDeckJob_port_frame (p : PortId) : (s.finishDeckJob c).port p =
    { s.port p with queue := ((s.finishDeckJob c).port p).queue, status := ((s.finishDeckJob c).port p).status } := by
  rcases finishDeckJob_cases s c with h | ⟨j, d, h⟩ <;> rw [h]
  rw [goIdle_port, finishJob_port]
  exact leaveQueue_port_frame s j _ p

/-- A LOAD or UNLOAD that ends for its port. -/
theorem finishDeckJob_own {j : Job} {p : PortId} (hj : s.ope.job = some j) (hs : j.stage = .deck) (ha : j.actor = .port p)
    (ho : j.orphan = false) (hw : j.op.owed = true) :
    (s.finishDeckJob c).ope.job = none ∧ (s.finishDeckJob c).ope.phase = .idle ∧ (s.finishDeckJob c).ope.attempt = 0
      ∧ ((s.finishDeckJob c).port p).queue = (s.port p).queue.tail
      ∧ ((s.finishDeckJob c).port p).status = (s.port p).status ++ [opRec j.op (s.engineCode (c j.op.cmd)) 0]
      ∧ (s.finishDeckJob c).port p.other = s.port p.other := by
  have hp : j.port = some p := Job.port_eq.mpr ⟨ha, ho⟩
  rw [finishDeckJob_of_deck s c hj hs, goIdle_port, goIdle_port, finishJob_port_own s j _ _ hp, goIdle_ope, finishJob_ope]
  refine ⟨rfl, rfl, rfl, rfl, ?_, finishJob_port_other s j _ _ ?_⟩
  · simp only [Port.leaves, hw, if_true]
  · rw [hp]
    exact fun h => PortId.ne_other p (Option.some.inj h)

end

/-! ## READY reached from a load -/

/-- The state in which a load has reached READY, but for the LOAD's own end and DECK_READY. -/
def State.atReady (s : State) : State :=
  let s := (s.onBdr (fun _ => Bdr.cleared)).portsAtLoadPoint
  let s := s.onDsq (fun q => { q with writeEnable := q.ring, autoCount := 0 })
  let s := s.onTsv (fun v => { v with glitches := 0 })
  (s.onOpe (fun e => { e.atLoadPoint with failCount := 0, eotLatch := false })).enterReady

theorem readyFromLoad_eq (s : State) : s.readyFromLoad = (s.atReady.finishDeckJob (fun _ => .ok)).addEvents .deckReady := rfl

theorem enterReady_eq (s : State) : s.enterReady =
    ((((s.enterDeck .ready).setTimer none).setSearch none).onTsv Tsv.latchesIn).onOpe (Ope.tested s.tsv.eotPassed) := by
  unfold State.enterReady
  rw [latchTest_eq]
  rfl

theorem atReady_eq (s : State) : s.atReady =
    { s with
      bdr := Bdr.cleared, portA := s.portA.atLoadPoint, portB := s.portB.atLoadPoint
      dsq := { s.dsq with writeEnable := s.dsq.ring, autoCount := 0, deck := .ready, timer := none, search := none }
      tsv := ({ s.tsv with glitches := 0 } : Tsv).latchesIn
      ope := { s.ope.atLoadPoint with failCount := 0, eotLatch := false } } := by
  unfold State.atReady
  rw [enterReady_eq]
  rfl

theorem exec_stopCompletion_deck {s : State} (hr : s.inReset = false) (h : s.tsv.report = some (.stopDone .deck)) :
    Settles .stopCompletion s s.clearReport.deckStopDone := by
  rw [Settles, exec, execStopCompletion, taken_running _ hr, h]

/-- Settles O21: the state at READY, then the LOAD's end and the event. -/
theorem loadReachesReady : Obligations.LoadReachesReady := by
  intro s hr hrep hsearch
  have hdone : s.clearReport.deckStopDone = (s.clearReport.atReady.finishDeckJob (fun _ => .ok)).addEvents .deckReady := by
    have hs : s.clearReport.dsq.search = some ⟨.load, .accepted⟩ := hsearch
    simp only [State.deckStopDone, hs]
    exact readyFromLoad_eq _
  refine ⟨_, hdone ▸ exec_stopCompletion_deck hr hrep, ?_⟩
  have hw := atReady_eq s.clearReport
  have hport : ∀ p, s.clearReport.atReady.port p = (s.port p).atLoadPoint := fun p => by rw [hw]; cases p <;> rfl
  have hope : s.clearReport.atReady.ope = { s.ope.atLoadPoint with failCount := 0, eotLatch := false } := by rw [hw]; rfl
  have htsv : s.clearReport.atReady.tsv = ({ s.clearReport.tsv with glitches := 0 } : Tsv).latchesIn := by rw [hw]
  have hdsq : s.clearReport.atReady.dsq =
      { s.dsq with writeEnable := s.dsq.ring, autoCount := 0, deck := .ready, timer := none, search := none } := by rw [hw]; rfl
  have hbdr : s.clearReport.atReady.bdr = Bdr.cleared := by rw [hw]
  have hbbf : s.clearReport.atReady.bbf = s.bbf := by rw [hw]; rfl
  have harb : s.clearReport.atReady.arb = s.arb := by rw [hw]; rfl
  have henabled : ∀ p, s.clearReport.atReady.enabled p = s.enabled p := fun p => by cases p <;> simp [State.enabled, hdsq]
  clear hw
  generalize s.clearReport.atReady = w at *
  obtain ⟨hnext, hvalid, hstart, hfail, hlatch⟩ := finishDeckJob_ope w (fun _ => .ok)
  rw [hope] at hnext hvalid hstart hfail hlatch
  simp only [addEvents_dsq, addEvents_tsv, addEvents_ope, addEvents_bdr, addEvents_bbf, addEvents_arb, finishDeckJob_dsq,
    finishDeckJob_tsv, finishDeckJob_bdr, finishDeckJob_bbf, finishDeckJob_arb]
  refine ⟨by rw [hdsq], by rw [hdsq], by rw [hdsq], by rw [hdsq], hbdr, hnext, hvalid, hstart, hfail, hlatch rfl, by rw [htsv]; rfl,
    by rw [htsv]; rfl, by rw [htsv]; rfl, hbbf, harb, by rw [hdsq], fun hj => ?_, fun j p hj hs ha ho hw => ?_, fun p => ?_⟩
  · have hnone : w.finishDeckJob (fun _ => .ok) = w := finishDeckJob_of_none w _ (by rw [hope]; exact hj)
    rw [hnone, hope]
    refine ⟨hj, rfl, fun p => ?_⟩
    rw [addEvents_port_eq, hport]
    exact ⟨rfl, rfl⟩
  · obtain ⟨hjob, hphase, hattempt, hqueue, hstatus, hother⟩ :=
      finishDeckJob_own w (fun _ => .ok) (j := j) (p := p) (by rw [hope]; exact hj) hs ha ho hw
    refine ⟨hjob, hphase, hattempt, ?_, ?_, ?_, ?_⟩ <;> rw [addEvents_port_eq]
    · rw [hport] at hqueue; exact hqueue
    · rw [hport, engineCode_ok, htsv] at hstatus; exact hstatus
    · rw [hother, hport]; rfl
    · rw [hother, hport]; rfl
  · have hkeep : (w.finishDeckJob (fun _ => .ok)).port p = _ := finishDeckJob_port_frame w (fun _ => .ok) p
    rw [hport] at hkeep
    rw [addEvents_port, finishDeckJob_enabled, henabled, hkeep]
    split
    · exact ⟨rfl, rfl, rfl, rfl, rfl, fun _ => rfl⟩
    · exact ⟨rfl, rfl, rfl, rfl, rfl, fun h => absurd h ‹_›⟩

/-! ## Failed loads and the end of WIND_OFF -/

/-- A load that has failed, but for the LOAD's own end. -/
def State.failedLoad (s : State) : State :=
  { s with tsv := s.tsv.hardStop, dsq := { s.dsq with deck := .unloaded, timer := none, search := none }
           ope := s.ope.tested s.tsv.eotPassed }

/-- WIND_OFF ended, but for the UNLOAD's own end. -/
def State.woundOff (s : State) : State :=
  { s with tsv := s.tsv.zeroReels.present, dsq := { s.dsq with deck := .unloaded, timer := none }
           ope := s.ope.tested s.tsv.eotPassed }

theorem loadFail_eq (s : State) : s.loadFail = s.failedLoad.finishDeckJob unloadedCode := by
  unfold State.loadFail
  rw [latchTest_eq]
  rfl

theorem windOffEnd_eq (s : State) : s.windOffEnd = s.woundOff.finishDeckJob unloadedCode := by
  unfold State.windOffEnd
  rw [latchTest_eq]
  rfl

section
variable {s w : State}

/-- What a LOAD or UNLOAD that ends in UNLOADED leaves of its port (R9, R11). -/
theorem unloaded_own (hope : w.ope = s.ope.tested s.tsv.eotPassed) (hport : ∀ p, w.port p = s.port p)
    (hpassed : w.tsv.eotPassed = s.tsv.eotPassed) {j : Job} {p : PortId} (hj : s.ope.job = some j) (hs : j.stage = .deck)
    (ha : j.actor = .port p) (ho : j.orphan = false) (hw : j.op.owed = true) :
    let u := w.finishDeckJob unloadedCode
    u.ope.job = none ∧ u.ope.phase = .idle ∧ (u.port p).queue = (s.port p).queue.tail
      ∧ (j.op.cmd = .load → (u.port p).status = (s.port p).status ++ [opRec j.op .loadFailed 0])
      ∧ (j.op.cmd = .unload → s.tsv.eotPassed = false →
          (u.port p).status = (s.port p).status ++ [opRec j.op .ok 0]) := by
  obtain ⟨hjob, hphase, -, hqueue, hstatus, -⟩ :=
    finishDeckJob_own w unloadedCode (j := j) (p := p) (by rw [hope]; exact hj) hs ha ho hw
  rw [hport] at hqueue hstatus
  refine ⟨hjob, hphase, hqueue, fun hc => ?_, fun hc hp => ?_⟩
  · rw [hstatus, hc, show unloadedCode .load = .loadFailed from rfl, engineCode_ne_ok (by decide)]
  · rw [hstatus, hc, show unloadedCode .unload = .ok from rfl, engineCode_ok, hpassed, hp]
    rfl

end

/-- Settles O24: the failed load and the end of WIND_OFF, each with the operation that the engine holds. -/
theorem failedLoadsAndWindOffEndUnloaded : Obligations.FailedLoadsAndWindOffEndUnloaded := by
  intro s i hr loadFails windOffEnds h
  have hdeck : ¬ (loadFails ∧ windOffEnds) := by
    rintro ⟨⟨-, hd, -⟩ | ⟨-, hd, -⟩, hw, -⟩ <;> exact absurd (hd.symm.trans hw) (by decide)
  rcases h with h | h
  · have hx : Settles i s s.loadFail := by
      rcases h with ⟨rfl, hd, ht⟩ | ⟨rfl, hd, ht⟩
      · exact (taken_running _ hr).trans (congrArg _ (if_pos ⟨hd, ht⟩))
      · exact (taken_running _ hr).trans (congrArg _ (if_pos ⟨hd, ht⟩))
    refine ⟨_, hx, ?_⟩
    rw [loadFail_eq]
    simp only [finishDeckJob_dsq, finishDeckJob_tsv, finishDeckJob_bbf, finishDeckJob_bdr, finishDeckJob_arb]
    refine ⟨rfl, rfl, rfl, rfl, rfl, rfl, rfl, rfl, rfl, rfl, fun _ => ⟨rfl, rfl, rfl⟩, fun hw => absurd ⟨h, hw⟩ hdeck,
      fun p j hj hs ha ho hw => ?_⟩
    exact unloaded_own (s := s) (w := s.failedLoad) rfl (fun p => by cases p <;> rfl) rfl hj hs ha ho hw
  · have hx : Settles i s s.windOffEnd := by
      rcases h with ⟨hd, ⟨rfl, hw⟩ | ⟨rfl, ht⟩⟩
      · exact (taken_running _ hr).trans (congrArg _ (if_pos ⟨hd, hw⟩))
      · exact (taken_running _ hr).trans (congrArg _ (if_pos ⟨hd, ht⟩))
    refine ⟨_, hx, ?_⟩
    rw [windOffEnd_eq]
    simp only [finishDeckJob_dsq, finishDeckJob_tsv, finishDeckJob_bbf, finishDeckJob_bdr, finishDeckJob_arb]
    refine ⟨rfl, rfl, rfl, rfl, rfl, rfl, rfl, rfl, rfl, rfl, fun hl => absurd ⟨hl, h⟩ hdeck, fun _ => ⟨rfl, rfl⟩,
      fun p j hj hs ha ho hw => ?_⟩
    exact unloaded_own (s := s) (w := s.woundOff) rfl (fun p => by cases p <;> rfl) rfl hj hs ha ho hw

/-! ## The load sequence -/

theorem driveGood_iff (s : State) : s.driveGood = true ↔ s.dsq.ampRdy = true ∧ s.dsq.ampFlt = false := by
  simp [State.driveGood]

theorem panelActs_iff (s : State) : s.panelActs = true ↔ s.dsq.online = false ∧ s.ope.phase = .idle := by
  simp [State.panelActs]

theorem and_true_of_setMode (m : ReelMode) (h : m ≠ .regulated) (r : ReelState) :
    r.setMode m = { r with mode := m, measuring := false } := by
  simp [ReelState.setMode, h]

theorem setMode_regulated (r : ReelState) : r.setMode .regulated = { r with mode := .regulated } := by
  simp [ReelState.setMode]

/-- Both reels are forming and the window report is gone. -/
theorem enterLoopForm_eq (s : State) : s.enterLoopForm =
    { s with
      dsq := { s.dsq with deck := .loopForm, timer := some .loopForm }
      tsv := { s.tsv with supply := { s.tsv.supply with mode := .forming, measuring := false }
                          takeup := { s.tsv.takeup with mode := .forming, measuring := false }, windowReport := false } } := by
  have hs := and_true_of_setMode .forming (by decide) s.tsv.supply
  have ht := and_true_of_setMode .forming (by decide) s.tsv.takeup
  unfold State.enterLoopForm Tsv.setModes State.onTsv
  simp only [State.enterDeck, State.setTimer, State.onDsq, hs, ht]
  rfl

theorem loadButton_pressed {s : State} (hr : s.inReset = false) (ho : s.dsq.online = false) (hp : s.ope.phase = .idle)
    (hd : s.dsq.deck = .unloaded) : exec .loadButton s = .next (if s.driveGood then s.loadStart else s.loadFail) := by
  refine (taken_running _ hr).trans (congrArg _ (if_pos ?_))
  rw [(panelActs_iff s).mpr ⟨ho, hp⟩, hd]
  rfl

theorem vacuumUp_ends {s : State} (hr : s.inReset = false) (r : Reel) (h : s.dsq.vac r = false) (hd : s.dsq.deck = .vacuumUp)
    (hother : ∀ w, w ≠ r → s.dsq.vac w = true) :
    Becomes (.vacuumArrival r true) s (s.onDsq (Dsq.setVac r true)).enterLoopForm := by
  have ht := vacuum_rises hr r h
  rw [if_pos ?_] at ht
  · exact ht
  · cases r
    · exact ⟨hd, rfl, hother .takeup (by decide)⟩
    · exact ⟨hd, hother .supply (by decide), rfl⟩

/-- Settles O23: the press by the drive lines and the vacuum, then the ends of VACUUM_UP and LOOP_FORM. -/
theorem loadSequence : Obligations.LoadSequence := by
  intro s hr v fresh loaded forming pressed drive
  refine ⟨fun ⟨ho, hp, hd⟩ hdrive hv => ?_, fun ⟨ho, hp, hd⟩ hdrive hS hT => ?_, fun ⟨ho, hp, hd⟩ hdrive hj => ?_, fun h => ?_,
    fun hd hS hT => ?_, fun hd hS hT => ?_, fun hd hw => ?_, fun h => ?_⟩
  · rw [Becomes, loadButton_pressed hr ho hp hd, if_pos ((driveGood_iff s).mpr hdrive), State.loadStart]
    refine congrArg _ (if_neg ?_)
    rw [Bool.and_eq_true]
    exact hv
  · rw [Becomes, loadButton_pressed hr ho hp hd, if_pos ((driveGood_iff s).mpr hdrive), State.loadStart]
    refine congrArg _ ((if_pos ?_).trans (enterLoopForm_eq _))
    rw [Bool.and_eq_true]
    exact ⟨hS, hT⟩
  · rw [Becomes, loadButton_pressed hr ho hp hd, if_neg (mt (driveGood_iff s).mp hdrive), loadFail_eq]
    have hnone : s.failedLoad.ope.job = none := hj
    rw [finishDeckJob_of_none _ _ hnone]
    have hs := and_true_of_setMode .zero (by decide) s.tsv.supply
    have ht := and_true_of_setMode .zero (by decide) s.tsv.takeup
    unfold State.failedLoad
    simp only [Tsv.hardStop, Tsv.zeroReels, hs, ht, ← hd]
    rfl
  · refine (taken_running _ hr).trans (congrArg _ (if_neg ?_))
    rw [Bool.and_eq_true, panelActs_iff, decide_eq_true_iff]
    rintro ⟨⟨ho, hp⟩, hd⟩
    rcases h with h | h | h
    · exact Bool.noConfusion (h.symm.trans ho)
    · exact h hp
    · exact h hd
  · have ht := vacuumUp_ends hr .takeup hT hd (fun w hw => by cases w <;> first | exact hS | exact absurd rfl hw)
    rw [enterLoopForm_eq] at ht
    exact ht
  · have ht := vacuumUp_ends hr .supply hS hd (fun w hw => by cases w <;> first | exact hT | exact absurd rfl hw)
    rw [enterLoopForm_eq] at ht
    exact ht
  · refine (taken_running _ hr).trans (congrArg _ ((if_pos ⟨hd, hw⟩).trans ?_))
    simp only [State.enterLoadPointSearch, Tsv.setModes, setMode_regulated]
    rfl
  · refine (taken_running _ hr).trans (congrArg _ (if_neg ?_))
    rintro ⟨hd, hw⟩
    rcases h with h | h
    · exact h hd
    · exact Bool.noConfusion (h.symm.trans hw)

end Sys2Proof.Machine

/-! PROOF. Unloading, the clears of a fault, and the panel (R10, R15, R71, R73, R74, R91, R145, R156). -/

namespace Sys2Proof.Machine

/-! ## The writer released at an unload -/

/-- The events that the release of the writer adds (R156). -/
def State.writerBits (s : State) : EventSet := if s.arb.writer = none then 0 else EventKind.writerChanged.bit

section
variable (s : State)

theorem loseOps_port (p : PortId) (kept lost : List Op) : (s.loseOps p kept lost).port p =
    { s.port p with queue := kept, status := (s.port p).status ++ owedRecs .cancelled lostDetail lost } := by
  unfold State.loseOps
  rw [State.onPort_port, freeSlots_port]

theorem loseOps_port_other {p q : PortId} (h : q ≠ p) (kept lost : List Op) : (s.loseOps p kept lost).port q = s.port q := by
  unfold State.loseOps
  rw [State.onPort_port_eq, if_neg h, freeSlots_port]

@[simp] theorem freeSlots_ope (l : List Op) : (s.freeSlots l).ope = s.ope := by
  unfold State.freeSlots
  induction l generalizing s with
  | nil => rfl
  | cons o l ih => exact (ih _).trans rfl

@[simp] theorem freeSlots_arb (l : List Op) : (s.freeSlots l).arb = s.arb := by
  unfold State.freeSlots
  induction l generalizing s with
  | nil => rfl
  | cons o l ih => exact (ih _).trans rfl

@[simp] theorem freeSlots_enabled (l : List Op) (p : PortId) : (s.freeSlots l).enabled p = s.enabled p :=
  enabled_of_dsq (freeSlots_dsq_tsv l s).1 p

@[simp] theorem loseOps_dsq (p : PortId) (kept lost : List Op) : (s.loseOps p kept lost).dsq = s.dsq := by
  simp [State.loseOps]
@[simp] theorem loseOps_tsv (p : PortId) (kept lost : List Op) : (s.loseOps p kept lost).tsv = s.tsv := by
  simp [State.loseOps]
@[simp] theorem loseOps_ope (p : PortId) (kept lost : List Op) : (s.loseOps p kept lost).ope = s.ope := by
  simp [State.loseOps]
@[simp] theorem loseOps_arb (p : PortId) (kept lost : List Op) : (s.loseOps p kept lost).arb = s.arb := by
  simp [State.loseOps]
@[simp] theorem loseOps_bdr (p : PortId) (kept lost : List Op) : (s.loseOps p kept lost).bdr = s.bdr := by
  simp [State.loseOps, freeSlots_bdr]
@[simp] theorem loseOps_enabled (p q : PortId) (kept lost : List Op) : (s.loseOps p kept lost).enabled q = s.enabled q :=
  enabled_of_dsq (loseOps_dsq s p kept lost) q

theorem releaseForUnload_of_none (h : s.arb.writer = none) : s.releaseForUnload = s := by
  simp only [State.releaseForUnload, h]

theorem releaseForUnload_of_some {p : PortId} (h : s.arb.writer = some p) : s.releaseForUnload =
    (((s.loseOps p ((s.port p).queue.filter (fun o => !o.cmd.isWrite)) ((s.port p).queue.filter (fun o => o.cmd.isWrite))).onArb
      (Arb.setWriter none)).addEvents .writerChanged) := by
  simp only [State.releaseForUnload, h]

theorem releaseForUnload_blocks : s.releaseForUnload.dsq = s.dsq ∧ s.releaseForUnload.tsv = s.tsv
    ∧ s.releaseForUnload.ope = s.ope := by
  cases h : s.arb.writer with
  | none => rw [releaseForUnload_of_none s h]; exact ⟨rfl, rfl, rfl⟩
  | some p => rw [releaseForUnload_of_some s h]; simp

/-- The writer's port loses its queued writes. -/
theorem releaseForUnload_writer {p : PortId} (h : s.arb.writer = some p) :
    (s.releaseForUnload.port p).queue = (s.port p).queue.filter (fun o => !o.cmd.isWrite)
      ∧ (s.releaseForUnload.port p).status = (s.port p).status
        ++ owedRecs .cancelled lostDetail ((s.port p).queue.filter (fun o => o.cmd.isWrite)) := by
  rw [releaseForUnload_of_some s h, addEvents_port_eq, State.onArb_port, loseOps_port]
  exact ⟨rfl, rfl⟩

/-- A port that is not the writer keeps its queue and its records. -/
theorem releaseForUnload_other {p : PortId} (h : s.arb.writer ≠ some p) :
    (s.releaseForUnload.port p).queue = (s.port p).queue ∧ (s.releaseForUnload.port p).status = (s.port p).status := by
  cases hw : s.arb.writer with
  | none => rw [releaseForUnload_of_none s hw]; exact ⟨rfl, rfl⟩
  | some q =>
    have hne : p ≠ q := fun he => h (by rw [hw, he])
    rw [releaseForUnload_of_some s hw, addEvents_port_eq, State.onArb_port, loseOps_port_other s hne]
    exact ⟨rfl, rfl⟩

theorem releaseForUnload_pendingEv {p : PortId} (he : s.enabled p = true) :
    (s.releaseForUnload.port p).pendingEv = (s.port p).pendingEv ||| s.writerBits := by
  unfold State.writerBits
  cases hw : s.arb.writer with
  | none => rw [releaseForUnload_of_none s hw, if_pos rfl]; exact (BitVec.or_zero).symm
  | some q =>
    have hen : ((s.loseOps q ((s.port q).queue.filter (fun o => !o.cmd.isWrite))
        ((s.port q).queue.filter (fun o => o.cmd.isWrite))).onArb (Arb.setWriter none)).enabled p = true := by
      rw [← he]; exact enabled_of_dsq (by simp) p
    rw [releaseForUnload_of_some s hw, addEvents_port, if_pos hen, State.onArb_port, if_neg nofun]
    rcases PortId.eq_or_other q p with rfl | rfl
    · rw [loseOps_port]; rfl
    · rw [loseOps_port_other s (PortId.other_ne q)]; rfl

/-! ## The effects of an unload's entry -/

theorem unloadEffects_eq : s.unloadEffects =
    { s.releaseForUnload with
      dsq := { s.dsq with writeEnable := false }, bdr := Bdr.cleared
      portA := (s.releaseForUnload.port .a).atLoadPoint, portB := (s.releaseForUnload.port .b).atLoadPoint
      ope := { s.ope with deckNext := 0, posValid := false, failCount := 0 }
      bbf := s.releaseForUnload.bbf.unload } := by
  obtain ⟨hdsq, -, hope⟩ := releaseForUnload_blocks s
  rw [← hdsq, ← hope]
  rfl

theorem unloadEffects_dsq : s.unloadEffects.dsq = { s.dsq with writeEnable := false } := by rw [unloadEffects_eq]
theorem unloadEffects_ope : s.unloadEffects.ope = { s.ope with deckNext := 0, posValid := false, failCount := 0 } := by
  rw [unloadEffects_eq]
theorem unloadEffects_tsv : s.unloadEffects.tsv = s.tsv := by
  rw [unloadEffects_eq]
  exact (releaseForUnload_blocks s).2.1
theorem unloadEffects_port (p : PortId) : s.unloadEffects.port p = (s.releaseForUnload.port p).atLoadPoint := by
  rw [unloadEffects_eq]
  cases p <;> rfl
theorem unloadEffects_enabled (p : PortId) : s.unloadEffects.enabled p = s.enabled p := by
  cases p <;> simp [State.enabled, unloadEffects_dsq]

theorem unloadEffects_pendingEv {p : PortId} (he : s.enabled p = true) :
    (s.unloadEffects.port p).pendingEv = (s.port p).pendingEv ||| s.writerBits := by
  rw [unloadEffects_port]
  exact releaseForUnload_pendingEv s he

end

/-- What an unload leaves is of the volume alone. -/
theorem Unloads.congr {s t v u : State} (h : Unloads t v) (harb : t.arb = s.arb) (hbbf : t.bbf = s.bbf)
    (hqueue : ∀ p, (t.port p).queue = (s.port p).queue) (hwe : u.dsq.writeEnable = v.dsq.writeEnable) (ha : u.arb = v.arb)
    (hb : u.bbf = v.bbf) (hr : u.bdr = v.bdr)
    (hp : ∀ p, (u.port p).next = (v.port p).next ∧ (u.port p).marks = (v.port p).marks
      ∧ (u.port p).overflow = (v.port p).overflow)
    (he : u.ope.deckNext = v.ope.deckNext ∧ u.ope.posValid = v.ope.posValid ∧ u.ope.failCount = v.ope.failCount) :
    Unloads s u := by
  refine ⟨hwe.trans h.writeEnable, by rw [ha]; exact h.writer, hr.trans h.directory, fun p => ?_, ?_, ?_⟩
  · obtain ⟨hn, hm, ho⟩ := hp p
    rw [hn, hm, ho]
    exact h.ports p
  · obtain ⟨hd, hv, hf⟩ := he
    rw [hd, hv, hf]
    exact h.engine
  · have hbuf := h.buffer
    rw [harb, hbbf] at hbuf
    rw [hb]
    cases hw : s.arb.writer with
    | none => simpa only [hw] using hbuf
    | some p => simpa only [hw, hqueue] using hbuf

/-! ## The start of an unload -/

/-- The deck REWIND_OUT, its reverse move ordered. -/
theorem unloadStart_true (s : State) : s.unloadStart true = s.unloadEffects.enterRewindOut.addEvents .deckNotReady := rfl
theorem unloadStart_false (s : State) : s.unloadStart false = s.unloadEffects.enterRewindOut := rfl

section
variable (s : State)

theorem enterRewindOut_port (p : PortId) : s.enterRewindOut.port p = s.port p := by cases p <;> rfl
theorem enterRewindOut_enabled (p : PortId) : s.enterRewindOut.enabled p = s.enabled p := by cases p <;> rfl
theorem enterRewindOut_tsv : s.enterRewindOut.tsv = s.tsv.orderMove (-2000) false .deck := rfl
theorem enterRewindOut_dsq : s.enterRewindOut.dsq = { s.dsq with deck := .rewindOut, timer := none, search := none } := rfl

theorem enterRewindOut_unloads {t v : State} (h : Unloads t v) : Unloads t v.enterRewindOut :=
  h.congr rfl rfl (fun _ => rfl) rfl rfl rfl rfl (fun p => by rw [enterRewindOut_port]; exact ⟨rfl, rfl, rfl⟩) ⟨rfl, rfl, rfl⟩

theorem addEvents_unloads {t v : State} (k : EventKind) (h : Unloads t v) : Unloads t (v.addEvents k) :=
  h.congr rfl rfl (fun _ => rfl) (by rw [addEvents_dsq]) (by rw [addEvents_arb]) (by rw [addEvents_bbf]) (by rw [addEvents_bdr])
    (fun p => by rw [addEvents_port_eq]; exact ⟨rfl, rfl, rfl⟩) (by rw [addEvents_ope]; exact ⟨rfl, rfl, rfl⟩)

/-- The events of an unload's entry, those of the writer's release before any other. -/
theorem addsEvents_of_pendingEv {s u v : State} {k : EventSet} (hv : ∀ p, s.enabled p = true →
    (v.port p).pendingEv = (s.port p).pendingEv ||| s.writerBits)
    (hu : ∀ p, s.enabled p = true → (u.port p).pendingEv = (v.port p).pendingEv ||| k) : AddsEvents s u k := by
  intro p he
  rw [hu p he, hv p he]
  rfl

end

/-! ## The clears -/

section
variable (s : State)

theorem resumeAt_port (d : Deck) (p : PortId) : (s.resumeAt d).port p = s.port p := by
  have hready : ∀ t : State, t.enterReady.port p = t.port p := fun t => by rw [enterReady_eq]; cases p <;> rfl
  cases d <;> first | exact hready s | (cases p <;> rfl)

/-- An accepted clear changes the ports' pending sets alone. -/
theorem acceptedClear_port (p : PortId) : s.acceptedClear.port p = { s.port p with pendingEv := (s.acceptedClear.port p).pendingEv } := by
  have hp : ∀ d, ((((s.onDsq Dsq.noFault).onTsv Tsv.clearCounts).onOpe (fun e => { e with failCount := 0 })).resumeAt d).port p
      = s.port p := fun d => by rw [resumeAt_port]; cases p <;> rfl
  have he := addEvents_port_eq .faultCleared
    ((((s.onDsq Dsq.noFault).onTsv Tsv.clearCounts).onOpe (fun e => { e with failCount := 0 })).resumeAt
      (clearTarget s.dsq.resume s.dsq.faultKind)) p
  rw [hp] at he
  exact he

/-- The fault items absent and the counts 0, before the effects of an unload. -/
def State.hardCleared (s : State) : State := (s.onDsq Dsq.noFault).onTsv Tsv.clearCounts

/-- A hard clear but for its events. -/
def State.hardUnloaded (s : State) : State :=
  ((s.hardCleared.unloadEffects.enterDeck .unloaded).setTimer none).onOpe (Ope.tested s.tsv.eotPassed)

theorem hardClear_eq : s.hardClear =
    (if hardNotReady s.dsq.resume then s.hardUnloaded.addEvents .deckNotReady else s.hardUnloaded).addEvents .faultCleared := by
  have hl : ((s.hardCleared.unloadEffects.enterDeck .unloaded).setTimer none).latchTest = s.hardUnloaded := by
    rw [latchTest_eq]
    have htsv : ((s.hardCleared.unloadEffects.enterDeck .unloaded).setTimer none).tsv.eotPassed = s.tsv.eotPassed := by
      show s.hardCleared.unloadEffects.tsv.eotPassed = _
      rw [unloadEffects_tsv]
      rfl
    rw [htsv]
    rfl
  rw [← hl]
  rfl

theorem hardUnloaded_port (p : PortId) : s.hardUnloaded.port p = s.hardCleared.unloadEffects.port p := by cases p <;> rfl
theorem hardUnloaded_enabled (p : PortId) : s.hardUnloaded.enabled p = s.enabled p := by
  have hd : s.hardUnloaded.dsq.portbEn = s.hardCleared.unloadEffects.dsq.portbEn := rfl
  rw [unloadEffects_dsq] at hd
  cases p
  · rfl
  · exact hd

theorem hardUnloaded_dsq : s.hardUnloaded.dsq.deck = .unloaded ∧ s.hardUnloaded.dsq.faultKind = none
    ∧ s.hardUnloaded.dsq.escKind = none ∧ s.hardUnloaded.dsq.resume = none := by
  have hd : s.hardUnloaded.dsq = { s.hardCleared.unloadEffects.dsq.enter .unloaded with timer := none } := rfl
  rw [hd, unloadEffects_dsq]
  exact ⟨rfl, rfl, rfl, rfl⟩

theorem hardUnloaded_tsv : s.hardUnloaded.tsv = s.tsv.clearCounts := unloadEffects_tsv s.hardCleared

theorem hardUnloaded_unloads : Unloads s s.hardUnloaded :=
  (unloadEffects_unloads s.hardCleared).congr rfl rfl (fun p => by cases p <;> rfl) rfl rfl rfl rfl
    (fun p => by rw [hardUnloaded_port]; exact ⟨rfl, rfl, rfl⟩) ⟨rfl, rfl, rfl⟩

theorem hardUnloaded_pendingEv {p : PortId} (he : s.enabled p = true) :
    (s.hardUnloaded.port p).pendingEv = (s.port p).pendingEv ||| s.writerBits := by
  rw [hardUnloaded_port]
  have h := unloadEffects_pendingEv s.hardCleared (p := p) (by cases p <;> exact he)
  cases p <;> exact h

theorem hardUnloaded_other {p : PortId} (h : s.arb.writer ≠ some p) :
    (s.hardUnloaded.port p).status = (s.port p).status := by
  rw [hardUnloaded_port, unloadEffects_port]
  have hs := (releaseForUnload_other s.hardCleared (p := p) h).2
  cases p <;> exact hs

theorem hardNotReady_iff (r : Option Deck) : hardNotReady r = true ↔ r = some .ready ∨ r = some .rezero := by
  simp [hardNotReady]

/-- What a hard clear leaves (R73). -/
theorem hardClear_leaves : s.hardClear.dsq.deck = .unloaded ∧ s.hardClear.dsq.faultKind = none ∧ s.hardClear.dsq.escKind = none
    ∧ s.hardClear.dsq.resume = none ∧ s.hardClear.tsv.glitches = 0 ∧ s.hardClear.tsv.stall = 0 ∧ Unloads s s.hardClear
    ∧ AddsEvents s s.hardClear ((if s.dsq.resume = some .ready ∨ s.dsq.resume = some .rezero then EventKind.deckNotReady.bit else 0)
        ||| EventKind.faultCleared.bit)
    ∧ ∀ p, s.arb.writer ≠ some p → (s.hardClear.port p).status = (s.port p).status := by
  have hcond := if_congr (hardNotReady_iff s.dsq.resume) (rfl : EventKind.deckNotReady.bit = _) (rfl : (0 : EventSet) = 0)
  obtain ⟨hdeck, hkind, hesc, hresume⟩ := hardUnloaded_dsq s
  rw [hardClear_eq, ← hcond]
  cases hardNotReady s.dsq.resume
  · simp only [Bool.false_eq_true, if_false, addEvents_dsq, addEvents_tsv, hardUnloaded_tsv]
    refine ⟨hdeck, hkind, hesc, hresume, rfl, rfl, addEvents_unloads _ (hardUnloaded_unloads s),
      addsEvents_of_pendingEv (fun p he => hardUnloaded_pendingEv s he) (fun p he => ?_), fun p hp => ?_⟩
    · rw [addEvents_pendingEv _ _ (by rw [hardUnloaded_enabled]; exact he)]
      exact congrArg _ BitVec.zero_or.symm
    · rw [addEvents_port_eq]
      exact hardUnloaded_other s hp
  · simp only [if_true, addEvents_dsq, addEvents_tsv, hardUnloaded_tsv]
    refine ⟨hdeck, hkind, hesc, hresume, rfl, rfl, addEvents_unloads _ (addEvents_unloads _ (hardUnloaded_unloads s)),
      addsEvents_of_pendingEv (fun p he => hardUnloaded_pendingEv s he) (fun p he => ?_), fun p hp => ?_⟩
    · have hen : s.hardUnloaded.enabled p = true := by rw [hardUnloaded_enabled]; exact he
      rw [addEvents_pendingEv _ _ (by rw [addEvents_enabled]; exact hen), addEvents_pendingEv _ _ hen, BitVec.or_assoc]
    · rw [addEvents_port_eq, addEvents_port_eq]
      exact hardUnloaded_other s hp

end

/-! ## The panel -/

section
variable {s : State}

theorem unloadButton_pressed (hr : s.inReset = false) (ho : s.dsq.online = false) (hp : s.ope.phase = .idle)
    (hd : s.dsq.deck = .ready) (hw : s.bbf.hasWrite = false) : Settles .unloadButton s (s.unloadStart true) := by
  refine (taken_running _ hr).trans (congrArg _ (if_pos ?_))
  rw [(panelActs_iff s).mpr ⟨ho, hp⟩, hd, hw]
  rfl

theorem rewindButton_pressed (hr : s.inReset = false) (ho : s.dsq.online = false) (hp : s.ope.phase = .idle)
    (hd : s.dsq.deck = .ready) :
    Becomes .rewindButton s (s.moveTo panelJob .rewinding 0 (decide (¬ 0 < s.tsv.counter))) := by
  refine (taken_running _ hr).trans (congrArg _ (if_pos ?_))
  rw [(panelActs_iff s).mpr ⟨ho, hp⟩, hd]
  rfl

/-- A button does not act online, with the engine at work, or out of READY. -/
theorem not_panelActs (h : s.dsq.online = true ∨ s.ope.phase ≠ .idle ∨ s.dsq.deck ≠ .ready) :
    ¬ (s.panelActs && s.dsq.deck = .ready) = true := by
  rw [Bool.and_eq_true, panelActs_iff, decide_eq_true_iff]
  rintro ⟨⟨ho, hp⟩, hd⟩
  rcases h with h | h | h
  · exact absurd h (by rw [ho]; exact Bool.false_ne_true)
  · exact h hp
  · exact h hd

/-- The order of an engine's move, out of the fault ramp. -/
theorem moveTo_eq (j : Job) (st : Stage) (x : Int) (forward : Bool) (h : s.tsv.order ≠ .faultRamp) :
    s.moveTo j st x forward =
      { s with tsv := s.tsv.orderMove x forward .engine
               ope := { s.ope with job := some { j with stage := st, moveTarget := x }, phase := .move, corrections := 0 } } :=
  congrArg (fun v => { s with tsv := v, ope := { s.ope with
    job := some { j with stage := st, moveTarget := x }, phase := .move, corrections := 0 } }) (if_neg h)

theorem exec_resetButton (hr : s.inReset = false) : exec .resetButton s = .next
    (if s.dsq.deck = .faultedSoft then (if s.checksPass then s.acceptedClear.settle s else s)
      else if s.dsq.deck = .faultedHard then s.hardClear.settle s else s) := by
  rw [exec, execResetButton, taken_running _ hr]

theorem resetButton_ignored (hr : s.inReset = false) (h : s.dsq.deck ≠ .faultedSoft ∨ s.checksPass = false)
    (hh : s.dsq.deck ≠ .faultedHard) : Becomes .resetButton s s := by
  refine (exec_resetButton hr).trans (congrArg _ ?_)
  rcases h with h | h
  · rw [if_neg h, if_neg hh]
  · rw [if_neg hh, h]
    exact ite_self _

end

/-- What the UNLOAD button leaves: the writer's queued writes go, and the deck rewinds out. -/
theorem unloadStart_leaves (s : State) : let u := s.unloadStart true
    u.dsq.deck = .rewindOut ∧ Unloads s u ∧ AddsEvents s u EventKind.deckNotReady.bit
      ∧ u.tsv = s.tsv.orderMove (-2000) false .deck
      ∧ u.ope.job = s.ope.job ∧ u.ope.phase = s.ope.phase
      ∧ ∀ p, (u.port p).queue = (s.releaseForUnload.port p).queue ∧ (u.port p).status = (s.releaseForUnload.port p).status := by
  intro u
  have hu : u = _ := unloadStart_true s
  rw [hu, addEvents_dsq, addEvents_tsv, addEvents_ope, enterRewindOut_dsq, enterRewindOut_tsv, unloadEffects_tsv]
  have hope : s.unloadEffects.enterRewindOut.ope = s.unloadEffects.ope := rfl
  rw [hope, unloadEffects_ope]
  refine ⟨rfl, addEvents_unloads _ (enterRewindOut_unloads (unloadEffects_unloads s)),
    addsEvents_of_pendingEv (fun p he => unloadEffects_pendingEv s he) (fun p he => ?_), rfl, rfl, rfl, fun p => ?_⟩
  · rw [addEvents_pendingEv _ _ (by rw [enterRewindOut_enabled, unloadEffects_enabled]; exact he), enterRewindOut_port]
  · rw [addEvents_port_eq, enterRewindOut_port, unloadEffects_port]
    exact ⟨rfl, rfl⟩

/-- Settles O27: each button by what it starts, and by why it does not act. -/
theorem panelButtons : Obligations.PanelButtons := by
  intro s hr
  refine ⟨fun ho hp hd hw => ?_, fun h => ?_, fun ho hp hd hramp => ?_, fun h => ?_, fun hs hh => ?_, fun hs hc => ?_,
    fun hs hc => ?_, fun hh => ?_⟩
  · obtain ⟨hdeck, hunl, hev, htsv, hjob, hphase, hport⟩ := unloadStart_leaves s
    refine ⟨_, unloadButton_pressed hr ho hp hd hw, hdeck, hunl, hev, ?_, hjob, hphase.trans hp, fun p => ⟨fun hwr => ?_, fun hwr => ?_⟩⟩
    · rw [htsv]
      exact ⟨_, rfl, rfl, rfl⟩
    · obtain ⟨hq, hst⟩ := hport p
      obtain ⟨hq', hst'⟩ := releaseForUnload_writer s hwr
      exact ⟨hq.trans hq', hst.trans hst'⟩
    · obtain ⟨hq, hst⟩ := hport p
      obtain ⟨hq', hst'⟩ := releaseForUnload_other s hwr
      exact ⟨hq.trans hq', hst.trans hst'⟩
  · refine (taken_running _ hr).trans (congrArg _ (if_neg ?_))
    rw [Bool.and_eq_true]
    rintro ⟨hact, hwrite⟩
    rcases h with h | h
    · rw [h] at hwrite
      exact Bool.false_ne_true hwrite
    · exact not_panelActs h hact
  · refine ⟨_, _, _, (rewindButton_pressed hr ho hp hd).trans (congrArg _ (moveTo_eq panelJob .rewinding 0 _ hramp)), rfl, rfl, rfl,
      rfl, rfl, ?_, rfl⟩
    exact decide_eq_true_iff.trans Int.not_lt
  · exact (taken_running _ hr).trans (congrArg _ (if_neg (not_panelActs h)))
  · exact resetButton_ignored hr (.inl hs) hh
  · exact resetButton_ignored hr (.inr hc) (by rw [hs]; exact nofun)
  · refine ⟨s.acceptedClear, (exec_resetButton hr).trans (congrArg _ ((if_pos hs).trans (if_pos hc))), acceptedClear_resumes s,
      fun p => ?_⟩
    rw [acceptedClear_port]
    exact ⟨rfl, rfl, rfl, rfl⟩
  · obtain ⟨hdeck, hkind, hesc, hres, -, -, hunl, hev, -⟩ := hardClear_leaves s
    exact ⟨s.hardClear, (exec_resetButton hr).trans (congrArg _ ((if_neg (by rw [hh]; exact nofun)).trans (if_pos hh))), hdeck, hkind,
      hesc, hres, hunl, hev⟩

/-! ## CLEAR FAULT -/

/-- A change at a port that leaves its pending set may come before an accepted clear or after it. -/
theorem acceptedClear_onPort (s : State) (p : PortId) {f : Port → Port} (hf : ∀ q b, f (Port.raise b q) = (f q).raise b) :
    (s.onPort p f).acceptedClear = s.acceptedClear.onPort p f := by
  have hready : ∀ t : State, (t.onPort p f).enterReady = t.enterReady.onPort p f := fun t => by
    rw [enterReady_eq, enterReady_eq]
    cases p <;> rfl
  have hres : ∀ (d : Deck) (t : State), (t.onPort p f).resumeAt d = (t.resumeAt d).onPort p f := fun d t => by
    cases d <;> first | exact hready t | (cases p <;> rfl)
  have hclear : (s.onPort p f).acceptedClear = ((((s.onDsq Dsq.noFault).onTsv Tsv.clearCounts).onOpe
      (fun e => { e with failCount := 0 })).onPort p f |>.resumeAt (clearTarget s.dsq.resume s.dsq.faultKind)).addEvents
        .faultCleared := by cases p <;> rfl
  rw [hclear, hres, addEvents_onPort _ _ _ hf]
  rfl

/-- An accepted clear leaves FAULTED. -/
theorem acceptedClear_deck (s : State) : s.acceptedClear.dsq.deck ≠ .faultedSoft := by
  have hready : ∀ t : State, t.enterReady.dsq.deck = .ready := fun t => by rw [enterReady_eq]; rfl
  have hres : ∀ (d : Deck) (t : State), (t.resumeAt d).dsq.deck ≠ .faultedSoft := fun d t => by
    cases d <;> first | exact Deck.noConfusion | (exact fun h => Deck.noConfusion ((hready t).symm.trans h))
  unfold State.acceptedClear
  rw [addEvents_dsq]
  exact hres _ _

/-- What an accepted clear leaves says nothing of a port but its pending set. -/
theorem Resumes.onPort {s u : State} (h : Resumes s u) (p : PortId) {f : Port → Port} (hf : ∀ q, (f q).pendingEv = q.pendingEv) :
    Resumes s (u.onPort p f) := by
  have hev : ∀ q, ((u.onPort p f).port q).pendingEv = (u.port q).pendingEv := fun q => by
    rw [State.onPort_port_eq]
    split
    · exact hf _
    · rfl
  unfold Resumes at h ⊢
  dsimp only at h ⊢
  simp only [hev, State.onPort_dsq, State.onPort_tsv, State.onPort_ope, State.onPort_arb, State.onPort_bbf, State.onPort_bdr]
  exact h

theorem code_of_cmd {h : Hdr} {c : Cmd} (hc : h.cmd = some c) : h.code = c.code := by
  have hf := List.find?_some hc
  exact (decide_eq_true_iff.mp hf).symm

theorem Answered.code {s : State} {p : PortId} {c : Cmd} (h : Answered s p c) : (s.port p).rx.header.code = c.code := by
  have ht := h.takes
  unfold State.takes at ht
  rw [Bool.and_eq_true] at ht
  obtain ⟨-, -, -, hcmd, -⟩ := (holdsFrame_iff s p c).mp ht.1
  exact code_of_cmd hcmd

/-- A record placed changes a status queue alone. -/
theorem place_port (s : State) (p q : PortId) (r : Rec) : (s.place p r).port q =
    { s.port q with status := (s.port q).status ++ (if q = p then [r] else []) } := by
  unfold State.place
  rw [State.onPort_port_eq]
  split
  · rfl
  · rw [List.append_nil]

/-- What a hard clear leaves where the frame of the CLEAR FAULT has left its port. -/
theorem hardClear_answered_leaves (s : State) (p : PortId) (r : Rec) : let u := (s.onPort p Port.nextFrame).hardClear.place p r
    u.dsq.deck = .unloaded ∧ u.dsq.faultKind = none ∧ u.dsq.escKind = none ∧ u.dsq.resume = none
      ∧ u.tsv.glitches = 0 ∧ u.tsv.stall = 0 ∧ Unloads s u
      ∧ AddsEvents s u ((if s.dsq.resume = some .ready ∨ s.dsq.resume = some .rezero then EventKind.deckNotReady.bit else 0)
          ||| EventKind.faultCleared.bit)
      ∧ (s.arb.writer ≠ some p → (u.port p).status = (s.port p).status ++ [r]) := by
  intro u
  obtain ⟨hdeck, hkind, hesc, hres, hgl, hst, hunl, hev, hstat⟩ := hardClear_leaves (s.onPort p Port.nextFrame)
  have hport := fun q => place_port (s.onPort p Port.nextFrame).hardClear p q r
  have hd : u.dsq = (s.onPort p Port.nextFrame).hardClear.dsq := State.onPort_dsq p _ _
  have hv : u.tsv = (s.onPort p Port.nextFrame).hardClear.tsv := State.onPort_tsv p _ _
  rw [hd, hv]
  refine ⟨hdeck, hkind, hesc, hres, hgl, hst, ?_, fun q he => ?_, fun hw => ?_⟩
  · exact hunl.congr (by simp) (by simp) (fun q => by cases p <;> cases q <;> rfl) (by rw [hd]) (State.onPort_arb p _ _)
      (State.onPort_bbf p _ _) (State.onPort_bdr p _ _) (fun q => by rw [hport]; exact ⟨rfl, rfl, rfl⟩)
      (by rw [show u.ope = _ from State.onPort_ope p _ _]; exact ⟨rfl, rfl, rfl⟩)
  · rw [hport]
    have hq := hev q (by rw [State.onPort_enabled]; exact he)
    cases p <;> cases q <;> exact hq
  · have hq := hstat p (by rw [State.onPort_arb]; exact hw)
    rw [State.onPort_port] at hq
    rw [hport, if_pos rfl]
    exact congrArg (fun l => l ++ [r]) hq

/-- Settles O59: the accepted clear, the hard clear and the refusal, each with the frame gone. -/
theorem clearFaultLeavesTheFault : Obligations.ClearFaultLeavesTheFault := by
  intro s p ha
  have hcode := ha.code
  refine ⟨fun hd hc => ?_, fun hd => ?_, fun hs hh => ?_⟩
  · have hu : (s.onPort p Port.nextFrame).clearFault p (s.port p).rx.header =
        s.acceptedClear.onPort p (Port.answers (completeRec (s.port p).rx.header.tag Cmd.clearFault.code .ok 0 [])) := by
      rw [← hcode, clearFault_nextFrame_soft _ hd, if_pos hc, acceptedClear_onPort s p (fun _ _ => rfl), answer_nextFrame]
    have hdeck : s.dsq.deck ≠ s.acceptedClear.dsq.deck := by rw [hd]; exact (acceptedClear_deck s).symm
    refine ⟨_, settles_of_answered ha rfl hu ?_, (acceptedClear_resumes s).onPort p (fun _ => rfl), ?_, ?_, fun q => ?_⟩
    · rw [State.onPort_dsq, decide_eq_true_iff]
      exact hdeck
    · rw [State.onPort_port, acceptedClear_port]; rfl
    · rw [State.onPort_port_other, acceptedClear_port]
    · rw [State.onPort_port_eq]
      split <;> rw [acceptedClear_port] <;> exact ⟨rfl, rfl, rfl⟩
  · have hd' : (s.onPort p Port.nextFrame).dsq.deck = .faultedHard := by rw [State.onPort_dsq]; exact hd
    have hu : (s.onPort p Port.nextFrame).clearFault p (s.port p).rx.header =
        (s.onPort p Port.nextFrame).hardClear.place p (completeRec (s.port p).rx.header.tag Cmd.clearFault.code .ok 0 []) := by
      rw [← hcode]
      simp only [State.clearFault, hd']
      rfl
    have hleaves := hardClear_answered_leaves s p (completeRec (s.port p).rx.header.tag Cmd.clearFault.code .ok 0 [])
    refine ⟨_, settles_of_answered ha rfl hu ?_, hleaves⟩
    rw [hd, hleaves.1]
    rfl
  · have hu : (s.onPort p Port.nextFrame).clearFault p (s.port p).rx.header =
        s.onPort p (Port.answers (completeRec (s.port p).rx.header.tag (s.port p).rx.header.code .wrongState 0 [])) := by
      rw [← answer_nextFrame]
      have hd' : (s.onPort p Port.nextFrame).dsq = s.dsq := State.onPort_dsq p _ s
      unfold State.clearFault
      rw [hd']
      split
      · exact absurd ‹_› hs
      · exact absurd ‹_› hh
      · rfl
    refine seals_of_answered ha rfl (hu.trans (onPort_congr rfl)) (by simp)

end Sys2Proof.Machine

/-! PROOF. The arrivals at the read head (R116, R125). -/

namespace Sys2Proof.Machine

/-! ## When the engine looks, and what is in progress -/

section
variable {s : State} {j : Job}

theorem looking_of_none (h : s.ope.job = none) : s.looking = false := by simp only [State.looking, h]

theorem looking_iff (hj : s.ope.job = some j) : s.looking = true ↔ j.stage = .reading ∨ j.stage = .scanning ∨ j.stage = .crossing
    ∨ (j.stage = .writing ∧ (s.ope.phase = .transfer ∨ s.ope.phase = .verify)) := by
  simp only [State.looking, hj]
  cases j.stage <;> simp

theorem readingNow_of_job (hj : s.ope.job = some j) : s.readingNow = true ↔ j.stage = .reading := by
  simp only [State.readingNow, hj, decide_eq_true_iff]

theorem inProgress_iff (x : Seen) : x.inProgress = true ↔ 0 < x.rises ∧ x.endAt = none := by
  simp [Seen.inProgress]

theorem inProgress_eq_false (x : Seen) (h : x.rises = 0 ∨ x.endAt.isSome = true) : x.inProgress = false := by
  rw [Bool.eq_false_iff, Ne, inProgress_iff]
  rintro ⟨hr, he⟩
  rcases h with h | h
  · omega
  · rw [he] at h
    exact Bool.false_ne_true h

/-! ## The rise and the fall of RD-SIG -/

theorem rdSigRise_held (hr : s.inReset = false) (h : s.ope.rdSig = true) : Becomes .rdSigRise s s := by
  rw [Becomes, exec, execRdSigRise, taken_running _ hr, if_pos h]

theorem rdSigFall_held (hr : s.inReset = false) (h : s.ope.rdSig = false) : Becomes .rdSigFall s s := by
  rw [Becomes, exec, execRdSigFall, taken_running _ hr, if_neg (by rw [h]; exact Bool.false_ne_true)]

theorem rdSigRise_eq (hr : s.inReset = false) (h : s.ope.rdSig = false) : Becomes .rdSigRise s
    (let t := s.onOpe (fun e => { e with rdSig := true })
     if s.looking then t.signalRise else t) := by
  rw [Becomes, exec, execRdSigRise, taken_running _ hr, if_neg (by rw [h]; exact Bool.false_ne_true)]
  rfl

theorem rdSigFall_eq (hr : s.inReset = false) (h : s.ope.rdSig = true) : Becomes .rdSigFall s
    (let t := s.onOpe (fun e => { e with rdSig := false })
     if s.looking then t.onOpe (fun e => { e with seen := e.seen.close s.tsv.counter }) else t) := by
  rw [Becomes, exec, execRdSigFall, taken_running _ hr, if_pos h]
  rfl

theorem signalRise_reading (h0 : s.ope.seen.rises = 0) (h : s.readingNow = true) : s.signalRise =
    s.onOpe (fun e => { e with seen := e.seen.begin s.tsv.counter e.rdMark, phase := .transfer, expStart := s.tsv.counter - 300 }) := by
  unfold State.signalRise
  rw [if_pos h0, if_pos h]
  rfl

theorem signalRise_first (h0 : s.ope.seen.rises = 0) (h : s.readingNow = false) : s.signalRise =
    s.onOpe (fun e => { e with seen := e.seen.begin s.tsv.counter e.rdMark }) := by
  unfold State.signalRise
  rw [if_pos h0]
  exact if_neg (by rw [h]; exact Bool.false_ne_true)

theorem signalRise_later (h0 : 0 < s.ope.seen.rises) : s.signalRise =
    s.onOpe (fun e => { e with seen := { e.seen with rises := e.seen.rises + 1 } }) := by
  unfold State.signalRise
  rw [if_neg (Nat.pos_iff_ne_zero.mp h0)]

/-! ## Bytes, RD-MARK and the length limit -/

theorem readByteStrobe_eq (hr : s.inReset = false) (v : Byte) : Becomes (.readByteStrobe v) s
    (if s.looking && s.ope.rdSig && s.ope.seen.inProgress then
      (s.onOpe (fun e => { e with seen := e.seen.addByte v })).storeRead else s) := by
  rw [Becomes, exec, execReadByteStrobe, taken_running _ hr]

theorem readByteStrobe_ignored (hr : s.inReset = false) (v : Byte)
    (h : s.looking = false ∨ s.ope.rdSig = false ∨ s.ope.seen.inProgress = false) : Becomes (.readByteStrobe v) s s := by
  refine (readByteStrobe_eq hr v).trans (congrArg _ (if_neg ?_))
  rcases h with h | h | h <;> rw [h] <;> simp

theorem storeRead_reading {i : Nat} (hj : s.ope.job = some j) (hs : j.stage = .reading) (hi : j.op.slot = some i) :
    s.storeRead = s.onBbf (Bbf.modify i (fun x => { x with data := s.ope.seen.bytes })) := by
  simp only [State.storeRead, hj, hs, hi]

theorem storeRead_not_reading (hj : s.ope.job = some j) (hs : j.stage ≠ .reading) : s.storeRead = s := by
  simp only [State.storeRead, hj]
  split
  · exact absurd ‹_› hs
  · rfl

theorem rdMarkArrival_eq (hr : s.inReset = false) (level : Bool) : Becomes (.rdMarkArrival level) s
    (let t := s.onOpe (fun e => { e with rdMark := level })
     if level && s.looking then t.onOpe (fun e => { e with seen := e.seen.sawMark }) else t) := by
  rw [Becomes, exec, execRdMarkArrival, taken_running _ hr]
  rfl

theorem readBlockLengthLimit_eq (hr : s.inReset = false) : Becomes .readBlockLengthLimit s
    (if s.looking && s.ope.seen.inProgress && decide (s.ope.seen.start + 3100 ≤ s.tsv.counter) then
      s.onOpe (fun e => { e with seen := { e.seen with endAt := some s.tsv.counter, limited := true } }) else s) := by
  rw [Becomes, exec, execReadBlockLengthLimit, taken_running _ hr]

/-! ## Arrivals that change the levels held alone -/

/-- With no block in progress, or where the engine does not look, the levels alone change. -/
theorem levels_only (hr : s.inReset = false) (h : s.looking = false ∨ s.ope.seen.inProgress = false) :
    (∀ v, Becomes (.readByteStrobe v) s s)
    ∧ (s.ope.rdSig = true → Becomes .rdSigFall s { s with ope := { s.ope with rdSig := false } })
    ∧ (∀ level, Becomes (.rdMarkArrival level) s { s with ope := { s.ope with rdMark := level } })
    ∧ Becomes .readBlockLengthLimit s s := by
  refine ⟨fun v => readByteStrobe_ignored hr v (h.imp_right .inr), fun hsig => ?_, fun level => ?_, ?_⟩
  · refine (rdSigFall_eq hr hsig).trans (congrArg _ ?_)
    dsimp only
    rcases h with h | h
    · rw [h]; rfl
    · have hc : s.ope.seen.close s.tsv.counter = s.ope.seen := if_neg (by rw [h]; exact Bool.false_ne_true)
      refine (ite_eq_right_iff.mpr fun _ => ?_).trans rfl
      exact congrArg (fun x => { s with ope := { s.ope with rdSig := false, seen := x } }) hc
  · refine (rdMarkArrival_eq hr level).trans (congrArg _ ?_)
    dsimp only
    rcases h with h | h
    · rw [h, Bool.and_false]; rfl
    · have hc : s.ope.seen.sawMark = s.ope.seen := if_neg (by rw [h]; exact Bool.false_ne_true)
      refine (ite_eq_right_iff.mpr fun _ => ?_).trans rfl
      exact congrArg (fun x => { s with ope := { s.ope with rdMark := level, seen := x } }) hc
  · refine (readBlockLengthLimit_eq hr).trans (congrArg _ (if_neg ?_))
    rcases h with h | h <;> rw [h] <;> simp

theorem levels_only_unlooked (hr : s.inReset = false) (h : s.looking = false) :
    (s.ope.rdSig = false → Becomes .rdSigRise s { s with ope := { s.ope with rdSig := true } })
    ∧ (s.ope.rdSig = true → Becomes .rdSigFall s { s with ope := { s.ope with rdSig := false } })
    ∧ (∀ v, Becomes (.readByteStrobe v) s s)
    ∧ (∀ level, Becomes (.rdMarkArrival level) s { s with ope := { s.ope with rdMark := level } })
    ∧ Becomes .readBlockLengthLimit s s := by
  obtain ⟨hbyte, hfall, hmark, hlimit⟩ := levels_only hr (.inl h)
  exact ⟨fun hsig => (rdSigRise_eq hr hsig).trans (congrArg _ (if_neg (by rw [h]; exact Bool.false_ne_true))), hfall, hbyte, hmark, hlimit⟩

end

/-! ## Arrivals while a block is in progress -/

section
variable {s : State} {j : Job} (hr : s.inReset = false) (hj : s.ope.job = some j) (hl : s.looking = true)
include hr hj hl

theorem rises_while_looking (hsig : s.ope.rdSig = false) :
    let begun := { s.ope.seen with rises := 1, start := s.tsv.counter - 300, mark := s.ope.rdMark }
    (s.ope.seen.rises = 0 → j.stage = .reading → Becomes .rdSigRise s
      { s with ope := { s.ope with rdSig := true, phase := .transfer, expStart := s.tsv.counter - 300, seen := begun } })
    ∧ (s.ope.seen.rises = 0 → j.stage ≠ .reading → Becomes .rdSigRise s
        { s with ope := { s.ope with rdSig := true, seen := begun } })
    ∧ (0 < s.ope.seen.rises → Becomes .rdSigRise s
        { s with ope := { s.ope with rdSig := true, seen := { s.ope.seen with rises := s.ope.seen.rises + 1 } } }) := by
  have heq := rdSigRise_eq hr hsig
  refine ⟨fun h0 hs => ?_, fun h0 hs => ?_, fun h0 => ?_⟩ <;> refine heq.trans (congrArg _ ((if_pos hl).trans ?_))
  · exact signalRise_reading (s := s.onOpe (fun e => { e with rdSig := true })) h0 ((readingNow_of_job hj).mpr hs)
  · exact signalRise_first (s := s.onOpe (fun e => { e with rdSig := true })) h0
      (Bool.eq_false_iff.mpr (mt (readingNow_of_job hj).mp hs))
  · exact signalRise_later (s := s.onOpe (fun e => { e with rdSig := true })) h0

theorem bytes_in_progress (h : s.ope.seen.inProgress = true) (v : Byte) (hsig : s.ope.rdSig = true) :
    let taken : State := { s with ope := { s.ope with seen := s.ope.seen.addByte v } }
    (j.stage ≠ .reading → Becomes (.readByteStrobe v) s taken)
    ∧ (∀ i, j.stage = .reading → j.op.slot = some i →
        Becomes (.readByteStrobe v) s { taken with bbf := s.bbf.modify i (fun y => { y with data := taken.ope.seen.bytes }) }) := by
  have heq := (readByteStrobe_eq hr v).trans (congrArg _ (if_pos (by rw [hl, hsig, h]; rfl)))
  refine ⟨fun hs => heq.trans (congrArg _ ?_), fun i hs hi => heq.trans (congrArg _ ?_)⟩
  · exact storeRead_not_reading (s := s.onOpe (fun e => { e with seen := e.seen.addByte v })) hj hs
  · exact storeRead_reading (s := s.onOpe (fun e => { e with seen := e.seen.addByte v })) hj hs hi

omit hj in
theorem ends_in_progress (h : s.ope.seen.inProgress = true) :
    (s.ope.rdSig = true → Becomes .rdSigFall s
      { s with ope := { s.ope with rdSig := false, seen := { s.ope.seen with endAt := some s.tsv.counter } } })
    ∧ Becomes (.rdMarkArrival true) s { s with ope := { s.ope with rdMark := true, seen := { s.ope.seen with mark := true } } }
    ∧ Becomes (.rdMarkArrival false) s { s with ope := { s.ope with rdMark := false } }
    ∧ (s.ope.seen.start + 3100 ≤ s.tsv.counter → Becomes .readBlockLengthLimit s
        { s with ope := { s.ope with seen := { s.ope.seen with endAt := some s.tsv.counter, limited := true } } })
    ∧ (s.tsv.counter < s.ope.seen.start + 3100 → Becomes .readBlockLengthLimit s s) := by
  have hclose : s.ope.seen.close s.tsv.counter = { s.ope.seen with endAt := some s.tsv.counter } := if_pos h
  have hmark : s.ope.seen.sawMark = { s.ope.seen with mark := true } := if_pos h
  refine ⟨fun hsig => ?_, ?_, rdMarkArrival_eq hr false, fun hlim => ?_, fun hlim => ?_⟩
  · refine (rdSigFall_eq hr hsig).trans (congrArg _ ((if_pos hl).trans ?_))
    exact congrArg (fun x => { s with ope := { s.ope with rdSig := false, seen := x } }) hclose
  · refine (rdMarkArrival_eq hr true).trans (congrArg _ ((if_pos (by rw [hl]; rfl)).trans ?_))
    exact congrArg (fun x => { s with ope := { s.ope with rdMark := true, seen := x } }) hmark
  · exact (readBlockLengthLimit_eq hr).trans (congrArg _ (if_pos (by rw [hl, h, decide_eq_true hlim]; rfl)))
  · refine (readBlockLengthLimit_eq hr).trans (congrArg _ (if_neg ?_))
    rw [hl, h, decide_eq_false (by omega)]
    exact Bool.false_ne_true

end

/-- Settles O35: the arrivals by whether the engine looks and a block is in progress. -/
theorem readArrivals : Obligations.ReadArrivals := by
  intro s hr x seen levelsOnly
  refine ⟨rdSigRise_held hr, rdSigFall_held hr, fun j hj hlook => ?_, fun hj => levels_only_unlooked hr (looking_of_none hj),
    fun j hj h₁ h₂ h₃ h₄ => levels_only_unlooked hr ?_⟩
  · intro begun
    have hl := (looking_iff hj).mpr hlook
    refine ⟨fun hsig => (rises_while_looking hr hj hl hsig).1, fun hsig => (rises_while_looking hr hj hl hsig).2.1,
      fun hsig => (rises_while_looking hr hj hl hsig).2.2, fun hsig v => readByteStrobe_ignored hr v (.inr (.inl hsig)),
      fun h0 he => ?_, fun h => levels_only hr (.inr (inProgress_eq_false _ h))⟩
    have hp : s.ope.seen.inProgress = true := (inProgress_iff _).mpr ⟨h0, he⟩
    exact ⟨fun v hsig => bytes_in_progress hr hj hl hp v hsig, ends_in_progress hr hl hp⟩
  · rw [Bool.eq_false_iff, Ne, looking_iff hj]
    rintro (h | h | h | ⟨h, hph⟩)
    · exact h₁ h
    · exact h₂ h
    · exact h₃ h
    · rcases h₄ with h₄ | ⟨ht, hv⟩
      · exact h₄ h
      · exact hph.elim ht hv

end Sys2Proof.Machine

/-! PROOF. The engine's orders, the ends of its operations, and the rollback of EOD: one rule each (R24, R108, R109, R130, R132, R139,
R161 to R163). -/

namespace Sys2Proof.Machine

/-! ## Orders -/

/-- The servo with a STOP of the engine. -/
def Tsv.stopped (v : Tsv) : Tsv := { v with order := .stop v.order.isFast .engine, target := 0, report := none }

/-- The servo with the engine's run forward at NORMAL. -/
def Tsv.runsNormal (v : Tsv) : Tsv := { v with order := .run .normal true .engine, target := 400, report := none }

section
variable {s : State} (h : s.tsv.order ≠ .faultRamp)
include h

theorem engineOrder_stop : s.engineOrder (Tsv.orderStop .engine) = { s with tsv := s.tsv.stopped } :=
  congrArg (fun v => { s with tsv := v }) (if_neg h)

theorem runNormal_eq : s.runNormal = { s with tsv := s.tsv.runsNormal } := congrArg (fun v => { s with tsv := v }) (if_neg h)

theorem stopAt_eq (j : Job) (st : Stage) : s.stopAt j st =
    { s with ope := { s.ope with job := some { j with stage := st }, phase := .stop }, tsv := s.tsv.stopped } :=
  engineOrder_stop (s := s.onOpe (fun e => { e with job := some { j with stage := st }, phase := .stop })) h

end

/-! ## The port of an operation -/

section
variable {j : Job}

theorem port_of_orphan (h : j.orphan = true) : j.port = none := by
  unfold Job.port
  cases j.actor
  · exact if_pos h
  · rfl

theorem port_of_panel (h : j.actor = .panel) : j.port = none := by simp only [Job.port, h]

theorem port_ne_other {p : PortId} (h : j.actor = .port p) : j.port ≠ some p.other := by
  rw [Ne, Job.port_eq, h]
  exact fun he => PortId.ne_other p (Actor.port.inj he.1)

end

section
variable (s : State) (j : Job) (n : Nat)

theorem jobNext_of_port {p : PortId} (h : j.port = some p) :
    s.jobNext j n = s.onPort p (fun q => { q with next := s.bdr.bound n }) := by
  simp only [State.jobNext, h]
  rfl

theorem jobNext_of_none (h : j.port = none) : s.jobNext j n = s := by simp only [State.jobNext, h]

theorem jobNext_frame : s.jobNext j n = s ∨ ∃ p, s.jobNext j n = s.onPort p (fun q => { q with next := s.bdr.bound n }) := by
  cases h : j.port with
  | none => exact .inl (jobNext_of_none s j n h)
  | some p => exact .inr ⟨p, jobNext_of_port s j n h⟩

@[simp] theorem jobNext_dsq : (s.jobNext j n).dsq = s.dsq := by
  rcases jobNext_frame s j n with h | ⟨p, h⟩ <;> rw [h]; simp
@[simp] theorem jobNext_tsv : (s.jobNext j n).tsv = s.tsv := by
  rcases jobNext_frame s j n with h | ⟨p, h⟩ <;> rw [h]; simp
@[simp] theorem jobNext_ope : (s.jobNext j n).ope = s.ope := by
  rcases jobNext_frame s j n with h | ⟨p, h⟩ <;> rw [h]; simp
@[simp] theorem jobNext_arb : (s.jobNext j n).arb = s.arb := by
  rcases jobNext_frame s j n with h | ⟨p, h⟩ <;> rw [h]; simp
@[simp] theorem jobNext_bbf : (s.jobNext j n).bbf = s.bbf := by
  rcases jobNext_frame s j n with h | ⟨p, h⟩ <;> rw [h]; simp
@[simp] theorem jobNext_bdr : (s.jobNext j n).bdr = s.bdr := by
  rcases jobNext_frame s j n with h | ⟨p, h⟩ <;> rw [h]; simp

theorem jobNext_port_own {p : PortId} (h : j.port = some p) :
    (s.jobNext j n).port p = { s.port p with next := s.bdr.bound n } := by
  rw [jobNext_of_port s j n h, State.onPort_port]

theorem jobNext_port_other {p : PortId} (h : j.port ≠ some p) : (s.jobNext j n).port p = s.port p := by
  cases hj : j.port with
  | none => rw [jobNext_of_none s j n hj]
  | some q =>
    rw [jobNext_of_port s j n hj, State.onPort_port_eq, if_neg]
    rintro rfl
    exact h hj

/-! ## After an operation -/

variable (b : Bool)

/-- The engine after an operation, at rest or asking at an end point. -/
def Ope.afterOp (b : Bool) (e : Ope) : Ope :=
  if b then { e with phase := .idle, attempt := 0, asking := false } else { e with asking := true }

theorem after_eq : s.after b = s.onOpe (Ope.afterOp b) := by cases b <;> rfl

@[simp] theorem after_dsq : (s.after b).dsq = s.dsq := by rw [after_eq]; rfl
@[simp] theorem after_tsv : (s.after b).tsv = s.tsv := by rw [after_eq]; rfl
@[simp] theorem after_ope : (s.after b).ope = s.ope.afterOp b := by rw [after_eq]; rfl
@[simp] theorem after_arb : (s.after b).arb = s.arb := by rw [after_eq]; rfl
@[simp] theorem after_bbf : (s.after b).bbf = s.bbf := by rw [after_eq]; rfl
@[simp] theorem after_bdr : (s.after b).bdr = s.bdr := by rw [after_eq]; rfl
@[simp] theorem after_port (p : PortId) : (s.after b).port p = s.port p := by rw [after_eq, State.onOpe_port]

variable (c : Code) (detail : Nat)

@[simp] theorem endOp_dsq : (s.endOp j c detail b).dsq = s.dsq := by simp [State.endOp]
@[simp] theorem endOp_tsv : (s.endOp j c detail b).tsv = s.tsv := by simp [State.endOp]
@[simp] theorem endOp_ope : (s.endOp j c detail b).ope = (s.ope.dropped s.tsv.eotPassed).afterOp b := by simp [State.endOp]
@[simp] theorem endOp_arb : (s.endOp j c detail b).arb = s.arb := by simp [State.endOp]
@[simp] theorem endOp_bbf : (s.endOp j c detail b).bbf = s.bbf := by simp [State.endOp]
@[simp] theorem endOp_bdr : (s.endOp j c detail b).bdr = s.bdr := by simp [State.endOp]

theorem endOp_port_own {p : PortId} (h : j.port = some p) :
    (s.endOp j c detail b).port p = (s.port p).leaves j [opRec j.op (s.engineCode c) detail] := by
  rw [State.endOp, after_port, finishJob_port_own s j c detail h]

theorem endOp_port_other {p : PortId} (h : j.port ≠ some p) : (s.endOp j c detail b).port p = s.port p := by
  rw [State.endOp, after_port, finishJob_port_other s j c detail h]

/-! ## A failure of an operation that is not a write -/

@[simp] theorem freeOwn_dsq : (s.freeOwn j).dsq = s.dsq := rfl
@[simp] theorem freeOwn_tsv : (s.freeOwn j).tsv = s.tsv := rfl
@[simp] theorem freeOwn_ope : (s.freeOwn j).ope = s.ope := rfl
@[simp] theorem freeOwn_arb : (s.freeOwn j).arb = s.arb := rfl
@[simp] theorem freeOwn_bdr : (s.freeOwn j).bdr = s.bdr := rfl
@[simp] theorem freeOwn_bbf : (s.freeOwn j).bbf = s.bbf.freeOpt j.op.slot := rfl
@[simp] theorem freeOwn_port (p : PortId) : (s.freeOwn j).port p = s.port p := State.onBbf_port _ s p

theorem endFailed_eq (hw : j.op.cmd.isWrite = false) : s.endFailed j c detail b = (s.freeOwn j).endOp j c detail b := by
  unfold State.endFailed
  rw [hw]
  rfl

theorem endFailed_write (hw : j.op.cmd.isWrite = true) : s.endFailed j c detail b = (s.failWrite j c detail).after b := by
  unfold State.endFailed
  rw [hw]
  rfl

theorem slot_freeOwn {i : Nat} (h : j.op.slot = some i) : (s.freeOwn j).bbf.slot i = Slot.freed := by
  rw [freeOwn_bbf, slot_freeOpt, if_pos h]

end

/-! ## EOD lowered -/

theorem endsBelow_iff (d : Bdr) (n : Nat) : d.endsBelow n = true ↔ ∃ e, d.eod = some e ∧ e < n := by
  unfold Bdr.endsBelow
  cases d.eod <;> simp

theorem atEnd_iff (d : Bdr) (n : Nat) : d.atEnd n = true ↔ ∃ e, d.eod = some e ∧ e ≤ n := by
  unfold Bdr.atEnd
  cases d.eod <;> simp

/-- EOD lowered to `n`, unless it is lower (R108, R109). -/
theorem lowerEod_eq (d : Bdr) (n : Nat) [Decidable (∃ e, d.eod = some e ∧ e < n)] : d.lowerEod n =
    if (∃ e, d.eod = some e ∧ e < n) then d
    else { d with entries := d.entries.filter (fun e => e.num < n), known := min d.known ((n : Int) - 1), eod := some n } :=
  if_congr (endsBelow_iff d n) rfl rfl

/-- A bound port, whatever EOD is. -/
theorem boundTo_parts (d : Bdr) (b : Bool) (q : Port) : (q.boundTo d b).next = d.bound q.next
    ∧ (q.boundTo d b).marks = q.marks.map d.bound ∧ (q.boundTo d b).queue = q.queue ∧ (q.boundTo d b).status = q.status
    ∧ (q.boundTo d b).deferred = q.deferred :=
  ⟨rfl, rfl, rfl, rfl, rfl⟩

theorem boundTo_pendingEv (d : Bdr) (b : Bool) (q : Port)
    [Decidable (b = true ∧ ∃ m ∈ q.next :: q.marks, d.bound m ≠ m)] :
    (q.boundTo d b).pendingEv = q.pendingEv |||
      (if b = true ∧ ∃ m ∈ q.next :: q.marks, d.bound m ≠ m then EventKind.positionClamped.bit else 0) := by
  refine congrArg (fun x => q.pendingEv ||| x) (if_congr ?_ rfl rfl)
  rw [Bool.and_eq_true, Port.clampedBy, Bool.or_eq_true, bne_iff_ne, bne_iff_ne, map_ne_self]
  simp only [List.mem_cons, exists_eq_or_imp, ne_comm]

section
variable (n : Nat) (s : State)

/-- EOD lowered and both ports bound by it. -/
theorem rollbackOrphan_blocks : (s.rollbackOrphan n).dsq = s.dsq ∧ (s.rollbackOrphan n).tsv = s.tsv
    ∧ (s.rollbackOrphan n).ope = s.ope ∧ (s.rollbackOrphan n).arb = s.arb ∧ (s.rollbackOrphan n).bbf = s.bbf
    ∧ (s.rollbackOrphan n).bdr = s.bdr.lowerEod n := by
  simp [State.rollbackOrphan]

theorem rollbackOrphan_port (p : PortId) :
    (s.rollbackOrphan n).port p = (s.port p).boundTo (s.bdr.lowerEod n) (s.enabled p) := by
  have he : (s.onBdr (Bdr.lowerEod n)).enabled p = s.enabled p := by cases p <;> rfl
  simp [State.rollbackOrphan, he]

/-! ## Blank tape -/

theorem blankReport_of_lower {e : Nat} (h : s.bdr.eod = some e) (hlt : e < n) : s.blankReport n = s :=
  if_pos ((endsBelow_iff _ _).mpr ⟨e, h, hlt⟩)

theorem blankReport_eq (h : ∀ e, s.bdr.eod = some e → n ≤ e) :
    s.blankReport n = s.rollbackOrphan n ∧ s.bdr.lowerEod n = s.bdr.cut n := by
  have hno : ¬ s.bdr.endsBelow n = true := by
    rw [endsBelow_iff]
    rintro ⟨e, he, hlt⟩
    exact absurd (h e he) (Nat.not_le.mpr hlt)
  exact ⟨if_neg hno, if_neg hno⟩

/-- What blank tape met for block `n` leaves (R108, R128, R138, R161). -/
theorem blankReport_parts : let u := s.blankReport n
    u.ope = s.ope ∧ u.tsv = s.tsv ∧ u.bbf = s.bbf
    ∧ ((∀ e, s.bdr.eod = some e → n ≤ e) → u.bdr.eod = some n ∧ u.bdr.known = min s.bdr.known ((n : Int) - 1)
        ∧ u.bdr.entries = s.bdr.entries.filter (fun x => x.num < n)
        ∧ ∀ p, (u.port p).next = min (s.port p).next n ∧ (u.port p).marks = (s.port p).marks.map (fun m => min m n)
            ∧ (u.port p).queue = (s.port p).queue ∧ (u.port p).status = (s.port p).status
            ∧ (u.port p).pendingEv = (s.port p).pendingEv |||
                (if s.enabled p = true ∧ (n < (s.port p).next ∨ ∃ m ∈ (s.port p).marks, n < m)
                  then EventKind.positionClamped.bit else 0))
    ∧ (∀ e, s.bdr.eod = some e → e < n → u.bdr = s.bdr ∧ u.portA = s.portA ∧ u.portB = s.portB) := by
  intro u
  by_cases h : ∀ e, s.bdr.eod = some e → n ≤ e
  · obtain ⟨hu, hcut⟩ := blankReport_eq n s h
    obtain ⟨-, htsv, hope, -, hbbf, hbdr⟩ := rollbackOrphan_blocks n s
    have hport := rollbackOrphan_port n s
    rw [← hu] at htsv hope hbbf hbdr hport
    rw [hcut] at hbdr hport
    refine ⟨hope, htsv, hbbf, fun _ => ⟨?_, ?_, ?_, fun p => ?_⟩, fun e he hlt => absurd (h e he) (Nat.not_le.mpr hlt)⟩
    · rw [hbdr]; rfl
    · rw [hbdr]; rfl
    · rw [hbdr]; rfl
    · obtain ⟨hnext, hmarks, hev⟩ := boundTo_some (d := s.bdr.cut n) (e := n) rfl (s.enabled p) (s.port p)
      rw [hport]
      exact ⟨hnext, hmarks, rfl, rfl, hev⟩
  · have hu : u = s := by
      push Not at h
      obtain ⟨e, he, hlt⟩ := h
      exact blankReport_of_lower n s he hlt
    rw [hu]
    exact ⟨rfl, rfl, rfl, fun hx => absurd hx h, fun _ _ _ => ⟨rfl, rfl, rfl⟩⟩

end

theorem blankDue_iff (s : State) : s.blankDue = true ↔ s.ope.seen.rises = 0 ∧ s.ope.expStart + 30300 ≤ s.tsv.counter := by
  unfold State.blankDue
  rw [Bool.and_eq_true, decide_eq_true_iff, decide_eq_true_iff]

/-- The stop at blank tape, and the report for block `n` (R108, R128, R138). -/
theorem blankStop_parts {s : State} (hramp : s.tsv.order ≠ .faultRamp) (j : Job) (inScan : Bool) (n : Nat) :
    let u := (s.stopAt j (.blankStop inScan)).blankReport n
    u.ope = { s.ope with job := some { j with stage := .blankStop inScan }, phase := .stop }
      ∧ u.tsv.target = 0 ∧ u.tsv.order = .stop s.tsv.order.isFast .engine ∧ u.bbf = s.bbf
      ∧ ((∀ e, s.bdr.eod = some e → n ≤ e) → u.bdr.eod = some n ∧ u.bdr.known = min s.bdr.known ((n : Int) - 1)
          ∧ u.bdr.entries = s.bdr.entries.filter (fun x => x.num < n)
          ∧ ∀ p, (u.port p).next = min (s.port p).next n ∧ (u.port p).marks = (s.port p).marks.map (fun m => min m n)
              ∧ (u.port p).queue = (s.port p).queue ∧ (u.port p).status = (s.port p).status
              ∧ (u.port p).pendingEv = (s.port p).pendingEv |||
                  (if s.enabled p = true ∧ (n < (s.port p).next ∨ ∃ m ∈ (s.port p).marks, n < m)
                    then EventKind.positionClamped.bit else 0))
      ∧ (∀ e, s.bdr.eod = some e → e < n → u.bdr = s.bdr ∧ u.portA = s.portA ∧ u.portB = s.portB) := by
  have hstop := stopAt_eq hramp j (.blankStop inScan)
  obtain ⟨hope, htsv, hbbf, hlow, hkeep⟩ := blankReport_parts n (s.stopAt j (.blankStop inScan))
  have hport : ∀ p, (s.stopAt j (.blankStop inScan)).port p = s.port p := fun p => by rw [hstop]; cases p <;> rfl
  have hen : ∀ p, (s.stopAt j (.blankStop inScan)).enabled p = s.enabled p := fun p => by rw [hstop]; cases p <;> rfl
  have hbdr : (s.stopAt j (.blankStop inScan)).bdr = s.bdr := by rw [hstop]
  simp only [hport, hen, hbdr] at hlow hkeep
  refine ⟨hope.trans ?_, ?_, ?_, hbbf.trans ?_, hlow, fun e he hlt => ?_⟩
  · rw [hstop]
  · rw [htsv, hstop]; rfl
  · rw [htsv, hstop]; rfl
  · rw [hstop]
  · obtain ⟨hb, ha, hb'⟩ := hkeep e he hlt
    exact ⟨hb, ha.trans (hport .a), hb'.trans (hport .b)⟩

theorem readBlankTape_eq {s : State} {j : Job} (hr : s.inReset = false) (hj : s.ope.job = some j) (hs : j.stage = .reading)
    (hp : s.ope.phase = .run) : exec .readBlankTape s =
      .next (if s.blankDue then ((s.stopAt j (.blankStop false)).blankReport j.n).settle s else s) := by
  rw [exec, execReadBlankTape, taken_running _ hr]
  simp only [hj, hs, hp, true_and]

/-- Settles O37: the stop, then the report. -/
theorem blankTapeInARead : Obligations.BlankTapeInARead := by
  intro s j hr hj hs hp h0 hramp
  refine ⟨fun hc => ⟨_, (readBlankTape_eq hr hj hs hp).trans (congrArg _ (if_pos ((blankDue_iff s).mpr ⟨h0, hc⟩))),
    blankStop_parts hramp j false j.n⟩, fun hc => ?_⟩
  refine (readBlankTape_eq hr hj hs hp).trans (congrArg _ (if_neg ?_))
  rw [blankDue_iff]
  omega

end Sys2Proof.Machine

/-! PROOF. The end of a verification that passes, and the end point of a READ (R116, R120, R121, R124 to R127, R129, R133). -/

namespace Sys2Proof.Machine

/-! ## A passed verification -/

/-- The state after a passed verification, but for the operation's own end: its report, its slot in the cache and the engine's
numbers (R121). -/
def State.verified (j : Job) (s : State) : State :=
  { s with
    ope := Ope.passed j.n (s.ope.w + s.writeExtent j) { s.ope with failCount := 0 }
    bdr := s.bdr.traverse (s.writeReport j), bbf := s.bbf.cacheOpt j.op.slot }

theorem writePassed_eq (s : State) (j : Job) :
    s.writePassed j = ((s.verified j).jobNext j (j.n + 1)).endOp j .ok j.n false := rfl

theorem engineCode_of_tsv {s t : State} (h : s.tsv = t.tsv) (c : Code) : s.engineCode c = t.engineCode c := by
  unfold State.engineCode
  rw [h]

section
variable (s : State) (j : Job) (n : Nat) (c : Code) (detail : Nat) (b : Bool)

/-- The port of an operation that ends with its number set. -/
theorem nextEnd_port_own {p : PortId} (h : j.port = some p) : ((s.jobNext j n).endOp j c detail b).port p =
    { s.port p with
      next := s.bdr.bound n, queue := (s.port p).queue.tail
      status := (s.port p).status ++ (if j.op.owed then [opRec j.op (s.engineCode c) detail] else []) } := by
  rw [endOp_port_own _ _ _ _ _ h, jobNext_port_own _ _ _ h, engineCode_of_tsv (jobNext_tsv s j n)]
  rfl

theorem nextEnd_port_other {p : PortId} (h : j.port ≠ some p) : ((s.jobNext j n).endOp j c detail b).port p = s.port p := by
  rw [endOp_port_other _ _ _ _ _ h, jobNext_port_other _ _ _ h]

end

section
variable {s : State} {j : Job}

/-- What a passed verification leaves. -/
theorem writePassed_parts {p : PortId} (ha : j.actor = .port p) : let u := s.writePassed j
    u.ope.failCount = 0 ∧ u.ope.deckNext = j.n + 1 ∧ u.ope.posValid = true ∧ u.ope.job = none ∧ u.ope.asking = true
      ∧ u.ope.expStart = s.ope.w + s.writeExtent j + 600 ∧ u.tsv = s.tsv ∧ u.dsq = s.dsq ∧ u.arb = s.arb
      ∧ u.port p.other = s.port p.other
      ∧ (j.orphan = true → u.port p = s.port p)
      ∧ (j.orphan = false → (u.port p).next = u.bdr.bound (j.n + 1) ∧ (u.port p).queue = (s.port p).queue.tail
          ∧ (u.port p).status = (s.port p).status ++
              (if j.op.owed then [opRec j.op (if s.tsv.eotPassed then .okEot else .ok) j.n] else [])
          ∧ (u.port p).marks = (s.port p).marks ∧ (u.port p).pendingEv = (s.port p).pendingEv) := by
  have hport : ∀ q, (s.verified j).port q = s.port q := fun q => by cases q <;> rfl
  have htsv : (s.verified j).tsv = s.tsv := rfl
  dsimp only
  rw [writePassed_eq, endOp_ope, endOp_tsv, endOp_dsq, endOp_arb, endOp_bdr, jobNext_ope, jobNext_tsv, jobNext_dsq, jobNext_arb,
    jobNext_bdr]
  refine ⟨rfl, rfl, rfl, rfl, rfl, rfl, rfl, rfl, rfl, ?_, fun ho => ?_, fun ho => ?_⟩
  · rw [nextEnd_port_other _ _ _ _ _ _ (port_ne_other ha), hport]
  · rw [nextEnd_port_other _ _ _ _ _ _ (by rw [port_of_orphan ho]; exact nofun), hport]
  · rw [nextEnd_port_own _ _ _ _ _ _ (Job.port_eq.mpr ⟨ha, ho⟩), hport, engineCode_ok, htsv]
    exact ⟨rfl, rfl, rfl, rfl, rfl⟩

theorem writePassed_bdr : (s.writePassed j).bdr = s.bdr.traverse (s.writeReport j) := by
  rw [writePassed_eq, endOp_bdr, jobNext_bdr]; rfl

theorem writePassed_bbf : (s.writePassed j).bbf = s.bbf.cacheOpt j.op.slot := by
  rw [writePassed_eq, endOp_bbf, jobNext_bbf]; rfl

theorem verifyEndPoint_eq (hr : s.inReset = false) (hj : s.ope.job = some j) (hs : j.stage = .writing) (hp : s.ope.phase = .verify) :
    exec .verifyEndPoint s = .next (if s.ope.w + s.writeExtent j + 300 ≤ s.tsv.counter then
      (if s.verifyPasses j then s.writePassed j else s.verifyFailed j).settle s else s) := by
  rw [exec, execVerifyEndPoint, taken_running _ hr, writeIn_eq hj hs hp]

theorem writeExtent_mark (hc : j.op.cmd = .writeMark) : s.writeExtent j = 300 := by simp only [State.writeExtent, hc, if_true]

theorem verifyPasses_mark (hc : j.op.cmd = .writeMark) : s.verifyPasses j = true ↔
    (s.ope.seen.rises = 1 ∧ s.ope.seen.endAt.isSome = true ∧ s.ope.seen.limited = false) ∧ s.ope.seen.mark = true := by
  simp only [State.verifyPasses, hc, if_true, Bool.and_eq_true, decide_eq_true_eq, Bool.not_eq_true']
  tauto

theorem verifyPasses_block (hc : j.op.cmd ≠ .writeMark) {i : Nat} (hi : j.op.slot = some i) :
    let x := s.ope.seen
    let all := (s.bbf.slot i).data ++ checkField s.dsq.params.check (s.bbf.slot i).data
    s.verifyPasses j = true ↔ (x.rises = 1 ∧ x.endAt.isSome = true ∧ x.limited = false) ∧ x.mark = false ∧ x.count = all.length
      ∧ x.bytes = s.ope.handed ∧ s.ope.handed = all := by
  intro x all
  have hall : writtenBytes s.dsq.params.check (s.bbf.slot i).data = all := rfl
  simp only [State.verifyPasses, hc, if_false, hi, hall, Bool.and_eq_true, decide_eq_true_eq, Bool.not_eq_true']
  tauto

theorem verifyPasses_none (hc : j.op.cmd ≠ .writeMark) (hi : j.op.slot = none) : s.verifyPasses j = false := by
  simp only [State.verifyPasses, hc, if_false, hi]

end

/-- Settles O33: the test by kind, then what a passed verification leaves. -/
theorem verificationPasses : Obligations.VerificationPasses := by
  intro s j p hr hj hs hp ha x one done
  have hx := verifyEndPoint_eq hr hj hs hp
  refine ⟨fun i hc hi => ?_, fun hc hi hw hone hm => ?_, fun i hc hi hw => ?_⟩
  · intro all extent hw hone hm hcount hbytes hhanded
    have hext : s.writeExtent j = extent := writeExtent_block hc hi
    have hpass : s.verifyPasses j = true :=
      (verifyPasses_block (by rw [hc]; exact nofun) hi).mpr ⟨hone, hm, hcount, hbytes, hhanded⟩
    have hparts := writePassed_parts (s := s) ha
    rw [hext] at hparts
    refine ⟨_, hx.trans (congrArg _ ((if_pos (by rw [hext]; exact hw)).trans ?_)), hparts, ?_, ?_⟩
    · rw [if_pos hpass]
    · rw [writePassed_bdr]
      refine congrArg (fun t => s.bdr.traverse t) ?_
      simp only [State.writeReport, hext, hc, hi]
      rfl
    · rw [writePassed_bbf, hi]
      exact enterCached_enters i s.bbf
  · have hext : s.writeExtent j = 300 := writeExtent_mark hc
    have hpass : s.verifyPasses j = true := (verifyPasses_mark hc).mpr ⟨hone, hm⟩
    have hparts := writePassed_parts (s := s) ha
    rw [hext] at hparts
    refine ⟨_, hx.trans (congrArg _ ((if_pos (by rw [hext]; exact hw)).trans ?_)), hparts, ?_, ?_⟩
    · rw [if_pos hpass]
    · rw [writePassed_bbf, hi]
      rfl
    · rw [writePassed_bdr]
      refine congrArg (fun t => s.bdr.traverse t) ?_
      simp only [State.writeReport, hext, hc]
      rfl
  · refine hx.trans (congrArg _ (if_neg ?_))
    rw [writeExtent_block hc hi]
    omega

/-! ## The block seen, as it is reported -/

section
variable (k : CheckKind) (x : Seen)

theorem isMark_iff : x.isMark = true ↔ x.mark = true ∧ x.limited = false := by simp [Seen.isMark]

/-- The extent of R116. -/
theorem reportExtent_eq : x.reportExtent k = if x.mark = true ∧ x.limited = false then 300
    else if k.size < x.count ∧ x.count - k.size ≤ 16384 ∧ x.limited = false then dataExtent (x.count - k.size)
    else max 121 (min 2742 (x.endAt.getD 0 - x.start - 280)) :=
  if_congr (isMark_iff x) rfl (if_congr lenOk_iff rfl rfl)

theorem reportLen_eq : x.reportLen k = if x.mark = true ∧ x.limited = false then 0 else max 1 (min 16384 (x.count - k.size)) :=
  if_congr (isMark_iff x) rfl rfl

theorem good_of_isMark {x : Seen} (h : x.isMark = true) : x.good k = true := by
  unfold Seen.good
  rw [h]
  rfl

end

theorem endPointDue_iff (s : State) : s.endPointDue = true ↔ s.ope.seen.endAt.isSome = true
    ∧ s.ope.seen.start + s.ope.seen.reportExtent s.dsq.params.check + 300 ≤ s.tsv.counter := by
  unfold State.endPointDue
  rw [Bool.and_eq_true, decide_eq_true_iff]
  rfl

/-! ## The end point of a READ -/

/-- A READ that ends at its end point: its slot changed by `g`, the records it owes placed, the arbiter asked. -/
def State.readEnds (j : Job) (g : Bbf → Bbf) (recs : List Rec) (s : State) : State :=
  (((s.onBbf g).leaveQueue j recs).dropJob).askAtEnd

section
variable (s : State) (j : Job)

theorem endOp_readEnds (c : Code) (detail : Nat) : (s.freeOwn j).endOp j c detail false =
    s.readEnds j (Bbf.freeOpt j.op.slot) [opRec j.op (s.engineCode c) detail] := rfl

theorem deliver_own {i : Nat} (hi : j.op.slot = some i) (ho : j.orphan = false) (data : List Byte) : s.deliver j data =
    s.readEnds j (Bbf.modify i (Slot.delivered data)) [s.dataRec j i data.length] := by
  simp only [State.deliver, hi, ho, Bool.false_eq_true, if_false]
  rfl

theorem deliver_orphan {i : Nat} (hi : j.op.slot = some i) (ho : j.orphan = true) (data : List Byte) : s.deliver j data =
    s.readEnds j (Bbf.freeOpt j.op.slot) [] := by
  have hl : (s.onBbf (Bbf.freeOpt j.op.slot)).leaveQueue j [] = s.freeOwn j := leaveQueue_of_none _ j _ (port_of_orphan ho)
  simp only [State.deliver, hi, ho, if_true, State.readEnds]
  rw [← hi, hl]

/-- The block of a READ has passed the head: its report, the numbers and the failure count `f`. -/
def State.readPast (j : Job) (f : Nat) (s : State) : State :=
  (((s.onOpe (fun e => { e with failCount := f })).passSeen j.n).jobNext j (j.n + 1))

theorem readGood_eq : s.readGood j =
    if s.ope.seen.isMark then ((s.readPast j 0).freeOwn j).endOp j .tapeMark j.n false
    else (s.readPast j 0).deliver j (s.ope.seen.data s.dsq.params.check) := rfl

theorem readEnds_bbf (f : Nat) (g : Bbf → Bbf) (recs : List Rec) : ((s.readPast j f).readEnds j g recs).bbf = g s.bbf := by
  have hu : ((s.readPast j f).readEnds j g recs).bbf = (((s.readPast j f).onBbf g).leaveQueue j recs).bbf := by
    unfold State.readEnds
    rw [dropJob_eq]
    rfl
  rw [hu, leaveQueue_bbf, State.onBbf_bbf, State.readPast, jobNext_bbf]
  rfl

theorem readPast_dataRec (f i len : Nat) : (s.readPast j f).dataRec j i len =
    { kind := .data, tag := j.op.tag, cmd := j.op.cmd.code, code := if s.tsv.eotPassed then .okEot else .ok
      detail := j.n, payload := .delivering i len, stamp := none } := by
  have htsv : (s.readPast j f).tsv = s.tsv := jobNext_tsv _ j _
  unfold State.dataRec
  rw [engineCode_ok, htsv]

/-- What the end of a READ leaves once its block has passed. -/
theorem readPast_ends {p : PortId} (ha : j.actor = .port p) (hw : j.op.owed = true) (f : Nat) (g : Bbf → Bbf) (r : Rec)
    (recs : List Rec) (hrecs : j.orphan = false → recs = [r]) : let u := (s.readPast j f).readEnds j g recs
    let k := s.dsq.params.check
    u.ope.deckNext = j.n + 1 ∧ u.ope.posValid = true ∧ u.ope.job = none ∧ u.ope.asking = true
      ∧ u.ope.expStart = s.ope.seen.start + s.ope.seen.reportExtent k + 600 ∧ u.ope.failCount = f
      ∧ u.bdr = s.bdr.traverse (s.ope.seen.report k j.n)
      ∧ u.port p.other = s.port p.other ∧ u.tsv = s.tsv ∧ u.dsq = s.dsq ∧ u.arb = s.arb
      ∧ (j.orphan = true → u.port p = s.port p)
      ∧ (j.orphan = false →
          (u.port p).next = u.bdr.bound (j.n + 1) ∧ (u.port p).queue = (s.port p).queue.tail
          ∧ (u.port p).status = (s.port p).status ++ [r]) := by
  intro u k
  have hu : u = (((s.readPast j f).onBbf g).leaveQueue j recs |>.onOpe (Ope.dropped s.tsv.eotPassed)).askAtEnd := by
    show State.askAtEnd _ = _
    rw [dropJob_eq, leaveQueue_tsv, State.onBbf_tsv, State.readPast, jobNext_tsv]
    rfl
  have hport : ∀ q, u.port q = ((((s.readPast j f).onBbf g).leaveQueue j recs).port q) := fun q => by
    rw [hu]; cases q <;> rfl
  have hbdr : u.bdr = s.bdr.traverse (s.ope.seen.report k j.n) := by
    rw [hu]
    show (State.leaveQueue j recs _).bdr = _
    rw [leaveQueue_bdr, State.onBbf_bdr, State.readPast, jobNext_bdr]
    rfl
  have hope : u.ope = { (Ope.passed j.n (s.ope.seen.start + s.ope.seen.reportExtent k) { s.ope with failCount := f }).dropped
      s.tsv.eotPassed with asking := true } := by
    rw [hu]
    show { Ope.dropped _ (State.leaveQueue j recs _).ope with asking := true } = _
    rw [leaveQueue_ope, State.onBbf_ope, State.readPast, jobNext_ope]
    rfl
  have hpast : ∀ q, ((s.onOpe (fun e => { e with failCount := f })).passSeen j.n).port q = s.port q := fun q => by cases q <;> rfl
  rw [hope, hbdr]
  refine ⟨rfl, rfl, rfl, rfl, rfl, rfl, rfl, ?_, ?_, ?_, ?_, fun ho => ?_, fun ho => ?_⟩
  · rw [hport]
    cases hj : j.port with
    | none => rw [leaveQueue_of_none _ _ _ hj, State.onBbf_port, State.readPast, jobNext_of_none _ _ _ hj, hpast]
    | some q =>
      have hq : q = p := Actor.port.inj ((Job.port_eq.mp hj).1.symm.trans ha)
      subst hq
      rw [leaveQueue_of_port _ _ _ hj, State.onPort_port_other, State.onBbf_port, State.readPast,
        jobNext_port_other _ _ _ (port_ne_other ha), hpast]
  · rw [hu]
    show (State.leaveQueue j recs _).tsv = _
    rw [leaveQueue_tsv, State.onBbf_tsv, State.readPast, jobNext_tsv]
    rfl
  · rw [hu]
    show (State.leaveQueue j recs _).dsq = _
    rw [leaveQueue_dsq, State.onBbf_dsq, State.readPast, jobNext_dsq]
    rfl
  · rw [hu]
    show (State.leaveQueue j recs _).arb = _
    rw [leaveQueue_arb, State.onBbf_arb, State.readPast, jobNext_arb]
    rfl
  · have hn := port_of_orphan ho
    rw [hport, leaveQueue_of_none _ _ _ hn, State.onBbf_port, State.readPast, jobNext_of_none _ _ _ hn, hpast]
  · have hn : j.port = some p := Job.port_eq.mpr ⟨ha, ho⟩
    rw [hport, leaveQueue_of_port _ _ _ hn, State.onPort_port, State.onBbf_port, State.readPast, jobNext_port_own _ _ _ hn, hpast,
      hrecs ho]
    refine ⟨rfl, rfl, ?_⟩
    simp only [Port.leaves, hw, if_true]

end

section
variable {s : State} {j : Job}

theorem readEndPoint_eq (hr : s.inReset = false) (hj : s.ope.job = some j) (hs : j.stage = .reading) (hp : s.ope.phase = .transfer) :
    exec .readEndPoint s = .next (if s.endPointDue then
      (if s.ope.seen.good s.dsq.params.check then s.readGood j else s.readBad j).settle s else s) := by
  rw [exec, execReadEndPoint, taken_running _ hr]
  simp only [hj, hs, hp, true_and]

theorem mayRetry_iff : s.mayRetry j = true ↔ s.ope.attempt < s.dsq.params.retryLimit ∧ j.orphan = false := by
  simp [State.mayRetry]

/-- A failure raises the count; at its limit it stands there (R129). -/
theorem raiseFailures_below (h : s.ope.failCount + 1 < s.dsq.params.failLimit) :
    s.raiseFailures = s.onOpe (fun e => { e with failCount := s.ope.failCount + 1 }) := by
  unfold State.raiseFailures
  exact congrArg (fun n => { s with ope := { s.ope with failCount := n } }) (Nat.min_eq_right (Nat.le_of_lt h))

theorem raiseFailures_at (h : s.dsq.params.failLimit ≤ s.ope.failCount + 1) :
    s.raiseFailures = s.onOpe (fun e => { e with failCount := s.dsq.params.failLimit }) := by
  unfold State.raiseFailures
  exact congrArg (fun n => { s with ope := { s.ope with failCount := n } }) (Nat.min_eq_left h)

theorem mediaHold_eq (h : s.tsv.order ≠ .faultRamp) : s.mediaHold j =
    { s with
      ope := { s.ope with job := some { j with stage := .mediaHold }, phase := .stop }, tsv := s.tsv.stopped
      dsq := { s.dsq with faults := s.dsq.faults ++ [FaultKind.media.report] } } := by
  unfold State.mediaHold
  rw [stopAt_eq h]
  rfl

theorem readBad_limit (h : s.dsq.params.failLimit ≤ s.ope.failCount + 1) : s.readBad j =
    ((s.onOpe (fun e => { e with failCount := s.dsq.params.failLimit })).reportSeen j.n).mediaHold j := by
  unfold State.readBad
  rw [raiseFailures_at h]
  exact if_pos (Nat.le_refl _)

theorem readBad_retry (h : s.ope.failCount + 1 < s.dsq.params.failLimit) (hm : s.mayRetry j = true) : s.readBad j =
    (s.onOpe (fun e => { e with failCount := s.ope.failCount + 1 })).stopAt j .retryStop := by
  unfold State.readBad
  rw [raiseFailures_below h]
  exact (if_neg (Nat.not_le.mpr h)).trans (if_pos hm)

theorem readBad_ends (h : s.ope.failCount + 1 < s.dsq.params.failLimit) (hm : s.mayRetry j = false) : s.readBad j =
    ((s.readPast j (s.ope.failCount + 1)).freeOwn j).endOp j .readCheckFailed j.n false := by
  unfold State.readBad
  rw [raiseFailures_below h]
  exact (if_neg (Nat.not_le.mpr h)).trans (if_neg (by rw [Bool.not_eq_true]; exact hm))

end

/-- Settles O36: the end point by whether it is due, the mark, and the check. -/
theorem goodReadIsDelivered : Obligations.GoodReadIsDelivered := by
  intro s j i p hr hj hs hp hi ha hw hlen x kind mark field extent length due data stopped passed
  have hx := readEndPoint_eq hr hj hs hp
  have hext : x.reportExtent kind = extent := reportExtent_eq kind x
  have hdue : s.endPointDue = true ↔ due := by
    have h := endPointDue_iff s
    rw [show s.ope.seen.reportExtent s.dsq.params.check = extent from hext] at h
    exact h
  have hmark : x.isMark = decide mark := by
    rw [Bool.eq_iff_iff, decide_eq_true_iff]
    exact isMark_iff x
  have hreport : ∀ failed, x.good kind = !failed → x.report kind j.n =
      { num := j.n, start := x.start, extent := extent, len := length, mark := decide mark, failed := failed } := by
    intro failed hf
    have hl : x.reportLen kind = length := reportLen_eq kind x
    simp only [Seen.report, hext, hl, hmark, hf, Bool.not_not]
  have hpassed : ∀ (f : Nat) (failed : Bool) (g : Bbf → Bbf) (r : Rec) (recs : List Rec), x.good kind = (!failed) →
      (j.orphan = false → recs = [r]) → (j.orphan = true → (g s.bbf).slot i = Slot.freed) →
      passed ((s.readPast j f).readEnds j g recs) f failed r := by
    intro f failed g r recs hf hrecs hslot
    obtain ⟨h₁, h₂, h₃, h₄, h₅, h₆, hbdr, h₉, h₁₀, h₁₁, h₁₂, horph, hown⟩ := readPast_ends s j ha hw f g r recs hrecs
    rw [show s.ope.seen.reportExtent s.dsq.params.check = extent from hext] at h₅
    have hrep : s.ope.seen.report s.dsq.params.check j.n = _ := hreport failed hf
    exact ⟨h₁, h₂, h₃, h₄, h₅, h₆, hbdr.trans (congrArg s.bdr.traverse hrep), h₉, h₁₀, h₁₁, h₁₂,
      fun ho => ⟨horph ho, by rw [readEnds_bbf]; exact hslot ho⟩, hown⟩
  have hfree : (s.bbf.freeOpt j.op.slot).slot i = Slot.freed := by rw [slot_freeOpt, if_pos hi]
  refine ⟨fun hno => hx.trans (congrArg _ (if_neg (mt hdue.mp hno))), fun hd hg hm => ?_, fun hd hm => ?_, fun hd hg => ⟨fun hl hramp => ?_,
    fun hl ha ho hramp => ?_, fun hl hno => ?_⟩⟩
  · have hdata : s.ope.seen.data s.dsq.params.check = data := rfl
    have hu := readGood_eq s j
    rw [if_neg (show ¬ s.ope.seen.isMark = true by rw [show s.ope.seen.isMark = decide mark from hmark]; simpa using hm), hdata] at hu
    have hset : Settles .readEndPoint s (s.readGood j) :=
      hx.trans (congrArg _ ((if_pos (hdue.mpr hd)).trans (congrArg (fun u => State.settle u s) (if_pos hg))))
    refine ⟨_, hset, ?_, fun ho => ?_⟩
    · cases ho : j.orphan with
      | true =>
        rw [hu, deliver_orphan _ j hi ho]
        exact hpassed 0 false _ _ [] hg (fun h => absurd h (by rw [ho]; exact nofun)) (fun _ => hfree)
      | false =>
        rw [hu, deliver_own _ j hi ho]
        exact hpassed 0 false _ _ _ hg (fun _ => by rw [readPast_dataRec]) (fun h => absurd h (by rw [ho]; exact nofun))
    · rw [hu, deliver_own _ j hi ho, readEnds_bbf, slot_modify_self _ hlen]
      rfl
  · have hm' : s.ope.seen.isMark = true := (isMark_iff _).mpr hm
    have hg : s.ope.seen.good s.dsq.params.check = true := good_of_isMark _ hm'
    have hu := readGood_eq s j
    rw [if_pos hm', endOp_readEnds, engineCode_ne_ok (c := .tapeMark) (by decide)] at hu
    have hset : Settles .readEndPoint s (s.readGood j) :=
      hx.trans (congrArg _ ((if_pos (hdue.mpr hd)).trans (congrArg (fun u => State.settle u s) (if_pos hg))))
    refine ⟨_, hset, ?_, ?_⟩
    · rw [hu]
      exact hpassed 0 false _ _ _ hg (fun _ => rfl) (fun _ => hfree)
    · rw [hu, readEnds_bbf]
      exact hfree
  all_goals
    have hset : Settles .readEndPoint s (s.readBad j) :=
      hx.trans (congrArg _ ((if_pos (hdue.mpr hd)).trans (congrArg (fun u => State.settle u s)
        (if_neg (by rw [show s.ope.seen.good s.dsq.params.check = false from hg]; exact Bool.false_ne_true)))))
  · rw [readBad_limit hl, mediaHold_eq (s := (s.onOpe _).reportSeen j.n) hramp] at hset
    have hrep : s.ope.seen.report s.dsq.params.check j.n = _ := hreport true hg
    rw [← hrep]
    exact hset
  · rw [readBad_retry hl (mayRetry_iff.mpr ⟨ha, ho⟩), stopAt_eq (s := s.onOpe _) hramp] at hset
    exact hset
  · have hmr : s.mayRetry j = false := by
      rw [Bool.eq_false_iff, Ne, mayRetry_iff]
      rintro ⟨hlt, ho⟩
      rcases hno with h | h
      · omega
      · exact absurd h (by rw [ho]; exact nofun)
    have hu := readBad_ends hl hmr
    rw [endOp_readEnds, engineCode_ne_ok (c := .readCheckFailed) (by decide)] at hu
    refine ⟨_, hset, ?_, ?_⟩
    · rw [hu]
      exact hpassed _ true _ _ _ hg (fun _ => rfl) (fun _ => hfree)
    · rw [hu, readEnds_bbf]
      exact hfree

end Sys2Proof.Machine

/-! PROOF. Positioning, and the blocks of a scan (R128, R135 to R143, R146). -/

namespace Sys2Proof.Machine

/-! ## How an operation's end leaves the state -/

theorem endOp_next (s : State) (j : Job) (c : Code) (detail : Nat) (b : Bool) (p : PortId) :
    ((s.endOp j c detail b).port p).next = (s.port p).next := by
  by_cases h : j.port = some p
  · rw [endOp_port_own s j b c detail h]; rfl
  · rw [endOp_port_other s j b c detail h]

theorem engineCode_ite (s : State) {P : Prop} [Decidable P] : s.engineCode (if P then .endOfData else .ok) =
    if P then .endOfData else if s.tsv.eotPassed then .okEot else .ok := by
  by_cases h : P
  · rw [if_pos h, if_pos h]
    exact engineCode_ne_ok nofun
  · rw [if_neg h, if_neg h]
    exact engineCode_ok s

/-- An operation that ends where its port's number alone has been set. -/
theorem endOp_ends {s t : State} {j : Job} (c : Code) (detail : Nat) (b : Bool) (next : Option Nat) {code : Code}
    (hope : t.ope = s.ope) (htsv : t.tsv = s.tsv) (hbdr : t.bdr = s.bdr) (hdsq : t.dsq = s.dsq) (harb : t.arb = s.arb)
    (hown : ∀ p, j.port = some p → t.port p = { s.port p with next := next.getD (s.port p).next })
    (hother : ∀ p, j.port ≠ some p → t.port p = s.port p) (hcode : s.engineCode c = code) :
    let v := t.endOp j c detail b
    v.ope.job = none ∧ (b = true → v.ope.phase = .idle ∧ v.ope.asking = false ∧ v.ope.attempt = 0)
      ∧ (b = false → v.ope.phase = s.ope.phase ∧ v.ope.asking = true)
      ∧ v.tsv = s.tsv ∧ v.bdr = s.bdr ∧ v.dsq = s.dsq ∧ v.arb = s.arb
      ∧ ∀ p, j.actor = .port p → j.orphan = false →
          (v.port p).queue = (s.port p).queue.tail ∧ v.port p.other = s.port p.other
          ∧ (v.port p).next = next.getD (s.port p).next
          ∧ (v.port p).status = (s.port p).status ++ (if j.op.owed then [opRec j.op code detail] else []) := by
  dsimp only
  rw [endOp_ope, endOp_tsv, endOp_bdr, endOp_dsq, endOp_arb, hope, htsv, hbdr, hdsq, harb]
  refine ⟨?_, fun hb => ?_, fun hb => ?_, rfl, rfl, rfl, rfl, fun p ha ho => ?_⟩
  · cases b <;> rfl
  · rw [hb]; exact ⟨rfl, rfl, rfl⟩
  · rw [hb]; exact ⟨rfl, rfl⟩
  · have hp : j.port = some p := Job.port_eq.mpr ⟨ha, ho⟩
    rw [endOp_port_own t j b c detail hp, endOp_port_other t j b c detail (port_ne_other ha), hown p hp,
      hother _ (port_ne_other ha), engineCode_of_tsv htsv, hcode]
    exact ⟨rfl, rfl, rfl, rfl⟩

/-! ## Runs of the engine -/

section
variable {s : State} (h : s.tsv.order ≠ .faultRamp) (j : Job)
include h

theorem runScan_eq (st : Stage) : s.runScan j st =
    { s with
      ope := { s.ope with job := some { j with stage := st }, phase := .scan, wrErase := false, seen := Seen.nothing }
      tsv := s.tsv.runsNormal } :=
  runNormal_eq (s := s.onOpe _) h

theorem runWrite_eq (a : Nat) : s.runWrite j a =
    { s with
      ope := { s.ope with
        job := some { j with stage := .writing }, phase := .run, attempt := a, w := s.ope.expStart + 1200 * (a : Int), wrErase := true
        seen := Seen.nothing, handed := [] }
      tsv := s.tsv.runsNormal } :=
  runNormal_eq (s := s.onOpe _) h

theorem runWrite_first : s.runWrite j 0 =
    { s with
      ope := { s.ope with
        job := some { j with stage := .writing }, phase := .run, attempt := 0, w := s.ope.expStart, wrErase := true
        seen := Seen.nothing, handed := [] }
      tsv := s.tsv.runsNormal } := by
  have hw := runWrite_eq h j 0
  rwa [show s.ope.expStart + 1200 * ((0 : Nat) : Int) = s.ope.expStart from Int.add_zero _] at hw

theorem runRead_eq (a : Nat) {i : Nat} (hi : j.op.slot = some i) : s.runRead j a =
    { s with
      ope := { s.ope with
        job := some { j with stage := .reading }, phase := .run, attempt := a, wrErase := false, seen := Seen.nothing }
      bbf := s.bbf.modify i (fun x => { x with data := [] })
      tsv := s.tsv.runsNormal } := by
  unfold State.runRead
  simp only [hi]
  exact runNormal_eq (s := (s.onBbf _).onOpe _) h

theorem runCrossing_eq (atRest : Bool) : s.runCrossing j atRest =
    { s with
      ope := { s.ope with
        job := some { j with crossed := 0, stage := .crossing }, phase := .scan, wrErase := false, seen := Seen.nothing
        attempt := if atRest then s.ope.attempt else 0 }
      tsv := s.tsv.runsNormal } :=
  runScan_eq (s := s.onOpe (fun e => { e with attempt := if atRest then e.attempt else 0 })) h { j with crossed := 0 } .crossing

/-- A positioning move goes forward to a point above the counter, in reverse to any other (R135). -/
theorem positionMove_eq (w : Way) (x : Int) : s.positionMove j w x =
    { s with
      ope := { s.ope with phase := .move, corrections := 0, job := some { j with stage := .positioning w, moveTarget := x } }
      tsv := { s.tsv with
        report := none
        order := .move
          { target := x, forward := decide (s.tsv.counter < x), latch := false
            speed := classOf (if s.tsv.counter < x then x - s.tsv.counter else s.tsv.counter - x) } .engine } } := by
  have hdist : s.tsv.distance x (decide (s.tsv.counter < x)) =
      if s.tsv.counter < x then x - s.tsv.counter else s.tsv.counter - x := if_congr decide_eq_true_iff rfl rfl
  rw [← hdist]
  exact moveTo_eq j (.positioning w) x _ h

end

/-! ## The ways of a positioning -/

theorem eodEntry_iff (d : Bdr) (t : Nat) (e : Entry) :
    eodEntry d t = some e ↔ d.eod = some t ∧ 0 < t ∧ d.entry (t - 1) = some e := by
  unfold eodEntry
  split
  · simp [*]
  · simp only [reduceCtorEq, false_iff]
    tauto

section
variable {s : State} {j : Job}

theorem positionTo_there (b : Bool) (h : s.ope.posValid = true ∧ s.ope.deckNext = j.goal) : s.positionTo j b = s.positioned j b :=
  if_pos h

variable (h : ¬ (s.ope.posValid = true ∧ s.ope.deckNext = j.goal)) (b : Bool)
include h

theorem positionTo_exact {e : Entry} (he : s.bdr.entry j.goal = some e) :
    s.positionTo j b = s.positionMove j (.exact e.start) (e.start - 250) := by
  refine (if_neg h).trans ?_
  simp only [he]
  rfl

theorem positionTo_afterEod (hn : s.bdr.entry j.goal = none) {e : Entry} (he : eodEntry s.bdr j.goal = some e) :
    s.positionTo j b = s.positionMove j (.afterEod (e.start + e.extent)) (e.start + e.extent + 350) := by
  refine (if_neg h).trans ?_
  simp only [hn, he]
  rfl

theorem positionTo_below (hn : s.bdr.entry j.goal = none) (he : eodEntry s.bdr j.goal = none) {w : Way} {k : Nat} {x : Int}
    (hw : lowerWay s.bdr j.goal = (w, k, x)) : s.positionTo j b =
      if s.ope.posValid = true ∧ s.ope.deckNext = k then s.runScan j .scanning else s.positionMove j w x := by
  refine (if_neg h).trans ?_
  simp only [hn, he, hw]

end

theorem lowerWay_lower {d : Bdr} {t : Nat} {e : Entry} (h : d.lookup t = .lower e) :
    lowerWay d t = (.lower e.num e.start, e.num, e.start - 250) := by
  simp only [lowerWay, h]
  rfl

theorem lowerWay_loadPoint {d : Bdr} {t : Nat} (h : d.lookup t = .loadPoint) : lowerWay d t = (.loadPoint, 0, 0) := by
  simp only [lowerWay, h]

/-! ## How an operation proceeds -/

section
variable {s : State} {j : Job} (b : Bool)

theorem positioned_write (hw : j.op.cmd.isWrite = true) : s.positioned j b = s.runWrite j 0 := by
  unfold State.positioned
  rcases (isWrite_iff _).mp hw with h | h <;> simp only [h]

theorem positioned_read (hc : j.op.cmd = .readBlock) : s.positioned j b =
    if s.bdr.atEnd j.n then (s.freeOwn j).endOp j .endOfData j.n b else s.runRead j 0 := by
  simp only [State.positioned, hc, State.endOfData]

theorem positioned_forward (hc : j.op.cmd = .space) (hf : 0 < j.op.param) : s.positioned j b =
    if s.bdr.atEnd j.n then s.endOp j .endOfData j.op.count b else s.runCrossing j b := by
  simp only [State.positioned, hc, if_pos hf, State.endOfData]

theorem positioned_backward (hc : j.op.cmd = .space) (hf : j.op.param < 0) : s.positioned j b =
    (s.jobNext j j.goal).endOp j (if s.bdr.endsBelow j.goal then .endOfData else .ok) (j.op.count - (j.n - j.goal)) b := by
  simp only [State.positioned, hc, if_neg (Int.not_lt.mpr (Int.le_of_lt hf))]

theorem positioned_locate (hc : j.op.cmd = .locate) : s.positioned j b =
    (s.jobNext j j.goal).endOp j (if j.toEod || s.bdr.endsBelow j.goal then .endOfData else .ok) j.goal b := by
  simp only [State.positioned, hc]

end

/-- Settles O39: the ways by the directory's answer, then how each operation proceeds. -/
theorem positioningWays : Obligations.PositioningWays := by
  intro s j hramp u runs moves scans there eodAfter
  have hmove : ∀ w x, u = s.positionMove j w x → moves w x := fun w x hu => hu.trans (positionMove_eq hramp j w x)
  have hscan : u = s.runScan j .scanning → scans := fun hu => hu.trans (runScan_eq hramp j .scanning)
  refine ⟨fun h => positionTo_there true h, fun h => ⟨fun e he => hmove _ _ (positionTo_exact h true he), fun hn =>
    ⟨fun e he => hmove _ _ (positionTo_afterEod h true hn ((eodEntry_iff _ _ _).mpr he)), fun hno => ?_⟩⟩, fun b => ?_⟩
  · have he : eodEntry s.bdr j.goal = none := Option.eq_none_iff_forall_ne_some.mpr (fun e h => hno e ((eodEntry_iff _ _ _).mp h))
    refine ⟨fun e hl => ⟨fun ht => ?_, fun ht => ?_⟩, fun hl => ⟨fun ht => ?_, fun ht => ?_⟩⟩
    · exact hscan ((positionTo_below h true hn he (lowerWay_lower hl)).trans (if_pos ht))
    · exact hmove _ _ ((positionTo_below h true hn he (lowerWay_lower hl)).trans (if_neg ht))
    · exact hscan ((positionTo_below h true hn he (lowerWay_loadPoint hl)).trans (if_pos ht))
    · exact hmove _ _ ((positionTo_below h true hn he (lowerWay_loadPoint hl)).trans (if_neg ht))
  · intro v beyond below ends okCode
    have hatEnd : ∀ n, s.bdr.atEnd n = true ↔ beyond n := fun n => atEnd_iff s.bdr n
    have hbelow : s.bdr.endsBelow j.goal = true ↔ below := endsBelow_iff s.bdr j.goal
    have hstand : ∀ (t : State) (c : Code) (d : Nat), t.ope = s.ope → t.tsv = s.tsv → t.bdr = s.bdr → t.dsq = s.dsq → t.arb = s.arb →
        (∀ p, t.port p = s.port p) → c ≠ .ok → v = t.endOp j c d b → ends c d none := by
      intro t c d h₁ h₂ h₃ h₄ h₅ hp hc hv
      have hall := endOp_ends (j := j) c d b none h₁ h₂ h₃ h₄ h₅ (fun p _ => hp p) (fun p _ => hp p) (engineCode_ne_ok hc)
      rw [← hv] at hall
      exact hall
    have hnext : ∀ (c : Code) (d : Nat) (code : Code), s.engineCode c = code → v = (s.jobNext j j.goal).endOp j c d b →
        ends code d (some (s.bdr.bound j.goal)) := by
      intro c d code hc hv
      have hall := endOp_ends (t := s.jobNext j j.goal) (j := j) c d b (some (s.bdr.bound j.goal)) (jobNext_ope s j _)
        (jobNext_tsv s j _) (jobNext_bdr s j _) (jobNext_dsq s j _) (jobNext_arb s j _)
        (fun p hp => jobNext_port_own s j _ hp) (fun p hp => jobNext_port_other s j _ hp) hc
      rw [← hv] at hall
      exact hall
    refine ⟨fun hw => ?_, fun hc hb => ?_, fun i hc hb hi => ?_, fun hc hf hb => ?_, fun hc hf hb => ?_, fun hc hf => ?_, fun hc => ?_⟩
    · exact (positioned_write b hw).trans (runWrite_first hramp j)
    · refine hstand (s.freeOwn j) .endOfData j.n rfl rfl rfl rfl rfl (fun p => freeOwn_port s j p) nofun ?_
      exact (positioned_read b hc).trans (if_pos ((hatEnd _).mpr hb))
    · exact (positioned_read b hc).trans ((if_neg (mt (hatEnd _).mp hb)).trans (runRead_eq hramp j 0 hi))
    · refine hstand s .endOfData _ rfl rfl rfl rfl rfl (fun _ => rfl) nofun ?_
      exact (positioned_forward b hc hf).trans (if_pos ((hatEnd _).mpr hb))
    · exact (positioned_forward b hc hf).trans ((if_neg (mt (hatEnd _).mp hb)).trans (runCrossing_eq hramp j b))
    · refine hnext _ _ _ ((engineCode_ite s).trans (if_congr hbelow rfl rfl)) (positioned_backward b hc hf)
    · refine hnext _ _ _ ((engineCode_ite s).trans (if_congr ?_ rfl rfl)) (positioned_locate b hc)
      rw [Bool.or_eq_true, hbelow]

/-! ## The blocks of a scan -/

theorem scans_iff (j : Job) : j.scans = true ↔ j.stage = .scanning ∨ j.stage = .crossing := by
  simp [Job.scans]

section
variable {s : State} {j : Job} (hr : s.inReset = false) (hj : s.ope.job = some j) (hp : s.ope.phase = .scan)
  (hs : j.stage = .scanning ∨ j.stage = .crossing)
include hr hj hp hs

theorem scanEndPoint_eq : exec .scanEndPoint s = .next (if s.endPointDue then (s.scanEnd j).settle s else s) := by
  rw [exec, execScanEndPoint, taken_running _ hr]
  simp only [hj, hp, (scans_iff j).mpr hs, true_and]

theorem scanBlankTape_eq : exec .scanBlankTape s =
    .next (if s.blankDue then ((s.stopAt j (.blankStop true)).blankReport s.ope.deckNext).settle s else s) := by
  rw [exec, execScanBlankTape, taken_running _ hr]
  simp only [hj, hp, (scans_iff j).mpr hs, true_and]

end

/-- The state once the block at the head of a scan has passed: its report, the numbers, and a good check's failure count 0 (R137). -/
def State.scanPast (s : State) : State :=
  { s with
    ope := { s.ope with
      deckNext := s.ope.deckNext + 1, posValid := true, expStart := s.seenEnd + 600
      failCount := if s.ope.seen.good s.dsq.params.check then 0 else s.ope.failCount }
    bdr := s.bdr.traverse (s.ope.seen.report s.dsq.params.check s.ope.deckNext) }

theorem scanEnd_eq (s : State) (j : Job) : s.scanEnd j = s.scanPast.scanned j s.ope.deckNext s.ope.seen.isMark := by
  have hpast : (if s.ope.seen.good s.dsq.params.check then s.noFailures else s).passSeen s.ope.deckNext = s.scanPast := by
    unfold State.scanPast
    split <;> rfl
  rw [← hpast]
  rfl

section
variable (s : State) (j : Job) (k : Nat) (m : Bool)

/-- A job with one block more crossed. -/
def Job.crosses (j : Job) : Job := { j with crossed := j.crossed + 1 }

theorem scanned_ends (hs : j.stage = .crossing) {c : Code} (h : s.crossingEnd j.crosses k m = some c) : s.scanned j k m =
    (s.jobNext j.crosses (k + 1)).endOp j.crosses c (j.op.count - (j.crossed + 1)) false := by
  refine (if_pos hs).trans ?_
  have hc : s.crossingEnd { j with crossed := j.crossed + 1 } k m = some c := h
  simp only [hc]
  rfl

theorem scanned_crosses_on (hs : j.stage = .crossing) (h : s.crossingEnd j.crosses k m = none) :
    s.scanned j k m = s.scanOn j.crosses := by
  refine (if_pos hs).trans ?_
  have hc : s.crossingEnd { j with crossed := j.crossed + 1 } k m = none := h
  simp only [hc]
  rfl

variable (hs : j.stage = .scanning)
include hs

theorem scanned_aborted (ha : j.aborted = true) : s.scanned j k m = s.endFailed j .cancelled j.cancelDetail false :=
  (if_neg (by rw [hs]; exact nofun)).trans (if_pos ha)

theorem scanned_there (ha : j.aborted = false) (h : s.ope.deckNext = j.goal) : s.scanned j k m = s.positioned j false :=
  (if_neg (by rw [hs]; exact nofun)).trans ((if_neg (by rw [ha]; exact Bool.false_ne_true)).trans (if_pos h))

theorem scanned_on (ha : j.aborted = false) (h : s.ope.deckNext ≠ j.goal) : s.scanned j k m = s.scanOn j :=
  (if_neg (by rw [hs]; exact nofun)).trans ((if_neg (by rw [ha]; exact Bool.false_ne_true)).trans (if_neg h))

end

/-- The detail of a cancelled operation that is not a write (R146). -/
theorem cancelDetail_eq {j : Job} (hw : j.op.cmd.isWrite = false) :
    j.cancelDetail = if j.op.cmd = .space then j.op.count - j.crossed else 0 := by
  unfold Job.cancelDetail
  cases hc : j.op.cmd <;> rw [hc] at hw <;> first | exact absurd hw.symm Bool.false_ne_true | rfl

/-- What the end of a forward SPACE leaves. -/
theorem crossing_ends (s : State) (j : Job) (k : Nat) (c : Code) {code : Code} (hcode : s.engineCode c = code) :
    let u := (s.jobNext j.crosses (k + 1)).endOp j.crosses c (j.op.count - (j.crossed + 1)) false
    u.ope = { s.ope with job := none, corrections := 0, asking := true, eotLatch := s.ope.eotLatch && s.tsv.eotPassed }
      ∧ u.bdr = s.bdr ∧ u.bbf = s.bbf ∧ u.tsv = s.tsv ∧ u.dsq = s.dsq ∧ u.arb = s.arb
      ∧ (j.orphan = true → u.port .a = s.port .a ∧ u.port .b = s.port .b)
      ∧ ∀ p, j.actor = .port p → j.orphan = false →
          (u.port p).next = s.bdr.bound (k + 1) ∧ (u.port p).queue = (s.port p).queue.tail
          ∧ (u.port p).status = (s.port p).status ++ (if j.op.owed then [opRec j.op code (j.op.count - (j.crossed + 1))] else [])
          ∧ u.port p.other = s.port p.other := by
  dsimp only
  rw [endOp_ope, endOp_bdr, endOp_bbf, endOp_tsv, endOp_dsq, endOp_arb, jobNext_ope, jobNext_bdr, jobNext_bbf, jobNext_tsv,
    jobNext_dsq, jobNext_arb]
  refine ⟨rfl, rfl, rfl, rfl, rfl, rfl, fun ho => ?_, fun p ha ho => ?_⟩
  · have hn : j.crosses.port = none := port_of_orphan (j := j.crosses) ho
    exact ⟨nextEnd_port_other s _ _ _ _ _ (by rw [hn]; exact nofun), nextEnd_port_other s _ _ _ _ _ (by rw [hn]; exact nofun)⟩
  · rw [nextEnd_port_own s j.crosses _ _ _ _ (Job.port_eq.mpr ⟨ha, ho⟩),
      nextEnd_port_other s j.crosses _ _ _ _ (port_ne_other (j := j.crosses) ha), hcode]
    exact ⟨rfl, rfl, rfl, rfl⟩

/-- Settles O38: the block's end point by what ends there, and blank tape as in a READ. -/
theorem scannedBlocks : Obligations.ScannedBlocks := by
  intro s j hr hj hp k x kind mark field extent length due past goesOn
  have hext : x.reportExtent kind = extent := reportExtent_eq kind x
  have hdue : s.endPointDue = true ↔ due := by
    have h := endPointDue_iff s
    rw [show s.ope.seen.reportExtent s.dsq.params.check = extent from hext] at h
    exact h
  have hmark : x.isMark = decide mark := by
    rw [Bool.eq_iff_iff, decide_eq_true_iff]
    exact isMark_iff x
  have hpast : s.scanPast = past := by
    have hl : x.reportLen kind = length := reportLen_eq kind x
    have hrep : s.ope.seen.report s.dsq.params.check s.ope.deckNext =
        { num := k, start := x.start, extent := extent, len := length, mark := decide mark, failed := !x.good kind } := by
      show Traversal.mk k x.start (x.reportExtent kind) (x.reportLen kind) x.isMark (!x.good kind) = _
      rw [hext, hl, hmark]
    have hend : s.seenEnd = x.start + extent := congrArg (fun e => x.start + e) hext
    unfold State.scanPast
    rw [hrep, hend]
  have hscan : s.scanEnd j = past.scanned j k (decide mark) := by
    rw [scanEnd_eq, hpast, show s.ope.seen.isMark = decide mark from hmark]
  refine ⟨fun hs hno => ?_, fun hs hd => ?_, fun hs hd => ?_, fun hs h0 hramp hc => ?_, fun hs hc => ?_⟩
  · exact (scanEndPoint_eq hr hj hp hs).trans (congrArg _ (if_neg (mt hdue.mp hno)))
  · have hset : Settles .scanEndPoint s (past.scanned j k (decide mark)) := by
      rw [← hscan]
      exact (scanEndPoint_eq hr hj hp (.inr hs)).trans (congrArg _ (if_pos (hdue.mpr hd)))
    intro left ends
    have hends : ∀ c code, past.engineCode c = code → past.crossingEnd j.crosses k (decide mark) = some c → ends code := by
      intro c code hcode hc
      rw [scanned_ends past j k _ hs hc] at hset
      obtain ⟨hope, hbdr, hbbf, htsv, hdsq, harb, horph, hown⟩ := crossing_ends past j k c hcode
      refine ⟨_, hset, hope, hbdr, hbbf, htsv, hdsq, harb, horph, fun p ha ho => ?_⟩
      cases p <;> exact hown _ ha ho
    have hcross : past.crossingEnd j.crosses k (decide mark) =
        if j.aborted then some .cancelled else if decide mark then some .tapeMark
        else if j.crossed + 1 = j.op.count then some .ok else if past.bdr.eod = some (k + 1) then some .endOfData else none := rfl
    have hab : j.aborted = false → ¬ j.aborted = true := fun h => by rw [h]; exact Bool.false_ne_true
    have hnm : ¬ mark → ¬ decide mark = true := fun h => by rwa [decide_eq_true_iff]
    refine ⟨fun ha => hends .cancelled _ (engineCode_ne_ok nofun) ?_, fun ha hm => hends .tapeMark _ (engineCode_ne_ok nofun) ?_,
      fun ha hm hn => hends .ok _ (engineCode_ok past) ?_, fun ha hm hn he => hends .endOfData _ (engineCode_ne_ok nofun) ?_,
      fun ha hm hn he => ?_⟩
    · rw [hcross, if_pos ha]
    · rw [hcross, if_neg (hab ha), if_pos (decide_eq_true hm)]
    · rw [hcross, if_neg (hab ha), if_neg (hnm hm), if_pos hn]
    · rw [hcross, if_neg (hab ha), if_neg (hnm hm), if_neg hn, if_pos he]
    · rw [scanned_crosses_on past j k _ hs (by rw [hcross, if_neg (hab ha), if_neg (hnm hm), if_neg hn, if_neg he])] at hset
      exact hset
  · have hset : Settles .scanEndPoint s (past.scanned j k (decide mark)) := by
      rw [← hscan]
      exact (scanEndPoint_eq hr hj hp (.inl hs)).trans (congrArg _ (if_pos (hdue.mpr hd)))
    refine ⟨fun ha hg => ?_, fun ha hg => ?_, fun ha hw => ?_⟩
    · rw [scanned_there past j k _ hs ha hg] at hset
      exact hset
    · rw [scanned_on past j k _ hs ha hg] at hset
      exact hset
    · rw [scanned_aborted past j k _ hs ha, endFailed_eq past j false _ _ hw] at hset
      refine ⟨_, hset, ?_⟩
      have hport : ∀ p, past.port p = s.port p := fun p => by cases p <;> rfl
      rw [endOp_ope, endOp_bdr, endOp_tsv]
      refine ⟨rfl, rfl, rfl, rfl, rfl, rfl, fun p => ?_, fun p hact ho => ?_⟩
      · rw [endOp_next, freeOwn_port, hport]
      · rw [endOp_port_own _ _ _ _ _ (Job.port_eq.mpr ⟨hact, ho⟩), freeOwn_port, hport, engineCode_ne_ok (c := .cancelled) (by decide),
          cancelDetail_eq hw]
        exact ⟨rfl, rfl⟩
  · obtain ⟨hope, ht, ho, hbbf, hlow, hkeep⟩ := blankStop_parts hramp j true k
    refine ⟨_, (scanBlankTape_eq hr hj hp hs).trans (congrArg _ (if_pos ((blankDue_iff s).mpr ⟨h0, hc⟩))), hope, ht, ho, hbbf,
      fun h => ?_, hkeep⟩
    obtain ⟨he, hk, hen, hports⟩ := hlow h
    refine ⟨he, hk, hen, fun p => ?_⟩
    obtain ⟨hnext, hmarks, -, -, hev⟩ := hports p
    exact ⟨hnext, hmarks, hev⟩
  · refine (scanBlankTape_eq hr hj hp hs).trans (congrArg _ (if_neg ?_))
    rw [blankDue_iff]
    omega

end Sys2Proof.Machine

/-! PROOF. The rollback with its deferred error, a write that has failed, and a verification that fails (R120, R122, R123, R129,
R133, R161 to R163). -/

namespace Sys2Proof.Machine

/-! ## A deferred error -/

/-- A port with a deferred error recorded where there is a block to name, DEFERRED_ERROR_SET added unless it is out of service. -/
def Port.defers (n : Option Nat) (enabled : Bool) (q : Port) : Port :=
  { q with
    deferred := n.elim q.deferred (fun n => some (match q.deferred with | some m => min m n | none => n))
    pendingEv := q.pendingEv ||| (if enabled = true ∧ n.isSome = true then EventKind.deferredErrorSet.bit else 0) }

theorem deferOpt_eq (s : State) (p : PortId) (n : Option Nat) : s.deferOpt p n = s.onPort p (Port.defers n (s.enabled p)) := by
  cases n with
  | none =>
    refine (show s.deferOpt p none = s from rfl).trans (onPort_self ?_).symm
    show (s.port p).raise (if _ ∧ Option.isSome none = true then _ else 0) = _
    rw [if_neg (fun h => Bool.false_ne_true h.2), raise_zero]
  | some n =>
    show s.defer p n = _
    unfold State.defer State.addEvent
    rw [State.onPort_enabled]
    by_cases he : s.enabled p = true
    · rw [if_pos he, onPort_onPort]
      refine onPort_congr ?_
      simp only [Port.defers, he, Option.isSome_some, and_self, if_true]
      rfl
    · rw [if_neg he]
      refine onPort_congr ?_
      simp only [Port.defers, he]
      exact (raise_zero _).symm

/-! ## The rollback -/

theorem bound_bound (d : Bdr) (n : Nat) : d.bound (d.bound n) = d.bound n := by
  cases h : d.eod with
  | none => rw [bound_none h, bound_none h]
  | some e => rw [bound_some h, bound_some h, Nat.min_assoc, Nat.min_self]

section
variable (s : State) (p : PortId) (f ahead : Nat) (n : Option Nat)

theorem rollbackTo_blocks : (s.rollbackTo p f ahead).dsq = s.dsq ∧ (s.rollbackTo p f ahead).tsv = s.tsv
    ∧ (s.rollbackTo p f ahead).ope = s.ope ∧ (s.rollbackTo p f ahead).arb = s.arb ∧ (s.rollbackTo p f ahead).bbf = s.bbf
    ∧ (s.rollbackTo p f ahead).bdr = s.bdr.lowerEod f := by
  simp [State.rollbackTo, State.setNext]

theorem rollbackTo_port (q : PortId) : (s.rollbackTo p f ahead).port q =
    (if q = p then { s.port q with next := (s.bdr.lowerEod f).bound (f - ahead) } else s.port q).boundTo (s.bdr.lowerEod f)
      (s.enabled q) := by
  have he : (s.onBdr (Bdr.lowerEod f)).enabled q = s.enabled q := by cases q <;> rfl
  simp only [State.rollbackTo, State.setNext, boundPorts_port, State.onPort_port_eq, State.onBdr_port, State.onPort_bdr,
    State.onBdr_bdr, State.onPort_enabled, he]

/-- A volume rolled back with its deferred error (R162, R163). -/
theorem rollback_blocks : let u := (s.rollbackTo p f ahead).deferOpt p n
    u.dsq = s.dsq ∧ u.tsv = s.tsv ∧ u.ope = s.ope ∧ u.arb = s.arb ∧ u.bbf = s.bbf ∧ u.bdr = s.bdr.lowerEod f := by
  obtain ⟨hdsq, htsv, hope, harb, hbbf, hbdr⟩ := rollbackTo_blocks s p f ahead
  dsimp only
  rw [deferOpt_eq]
  exact ⟨(State.onPort_dsq _ _ _).trans hdsq, (State.onPort_tsv _ _ _).trans htsv, (State.onPort_ope _ _ _).trans hope,
    (State.onPort_arb _ _ _).trans harb, (State.onPort_bbf _ _ _).trans hbbf, (State.onPort_bdr _ _ _).trans hbdr⟩

/-- The port whose writes are lost. -/
theorem rollback_own : ((s.rollbackTo p f ahead).deferOpt p n).port p =
    ({ s.port p with next := (s.bdr.lowerEod f).bound (f - ahead) }.boundTo (s.bdr.lowerEod f) (s.enabled p)).defers n
      (s.enabled p) := by
  rw [deferOpt_eq, State.onPort_port, rollbackTo_port, if_pos rfl, enabled_of_dsq (rollbackTo_blocks s p f ahead).1]

theorem rollback_other {q : PortId} (h : q ≠ p) : ((s.rollbackTo p f ahead).deferOpt p n).port q =
    (s.port q).boundTo (s.bdr.lowerEod f) (s.enabled q) := by
  rw [deferOpt_eq, State.onPort_port_eq, if_neg h, rollbackTo_port, if_neg h]

end

/-- What the bound and the deferred error leave of the port whose writes are lost, its number set within EOD. -/
theorem boundDefers_parts (d : Bdr) (b : Bool) (q : Port) (k : Nat) (n : Option Nat)
    [Decidable (b = true ∧ ∃ m ∈ q.marks, d.bound m ≠ m)] : let u := ({ q with next := d.bound k }.boundTo d b).defers n b
    u.next = d.bound k ∧ u.marks = q.marks.map d.bound ∧ u.queue = q.queue ∧ u.status = q.status
      ∧ (n = none → u.deferred = q.deferred)
      ∧ (∀ m, n = some m → u.deferred = some (match q.deferred with | some i => min i m | none => m))
      ∧ u.pendingEv = q.pendingEv
          ||| (if b = true ∧ ∃ m ∈ q.marks, d.bound m ≠ m then EventKind.positionClamped.bit else 0)
          ||| (if b = true ∧ n.isSome = true then EventKind.deferredErrorSet.bit else 0) := by
  refine ⟨bound_bound d k, rfl, rfl, rfl, fun h => by rw [h]; rfl, fun m h => by rw [h]; rfl, ?_⟩
  refine congrArg (fun x => x ||| _) (congrArg (fun x => q.pendingEv ||| x) (if_congr ?_ rfl rfl))
  rw [Bool.and_eq_true, Port.clampedBy, Bool.or_eq_true, bne_iff_ne, bne_iff_ne, map_ne_self]
  have hb := bound_bound d k
  constructor
  · rintro ⟨h, hn | hm⟩
    · exact absurd hb.symm hn
    · exact ⟨h, hm⟩
  · exact fun ⟨h, hm⟩ => ⟨h, .inr hm⟩

/-! ## A write that has failed -/

section
variable (s : State) (j : Job) (c : Code) (detail : Nat)

theorem failWrite_of_none (h : j.port = none) :
    s.failWrite j c detail = ((s.freeOwn j).finishJob j c detail).rollbackOrphan j.n := by
  simp only [State.failWrite, h]

theorem failWrite_of_port {p : PortId} (h : j.port = some p) : s.failWrite j c detail =
    ((((s.freeOwn j).finishJob j c detail).loseOps p [] (s.port p).queue.tail).rollbackTo p j.n 0).deferOpt p
      (lowestGiven (j.op :: (s.port p).queue.tail)) := by
  have hq : (((s.freeOwn j).finishJob j c detail).port p).queue = (s.port p).queue.tail := by
    rw [finishJob_port_own _ j c detail h, freeOwn_port]
    rfl
  simp only [State.failWrite, h, hq]

/-- The blocks that a failed write leaves. -/
theorem failWrite_blocks : (s.failWrite j c detail).dsq = s.dsq ∧ (s.failWrite j c detail).tsv = s.tsv
    ∧ (s.failWrite j c detail).ope = s.ope.dropped s.tsv.eotPassed ∧ (s.failWrite j c detail).arb = s.arb
    ∧ (s.failWrite j c detail).bdr = s.bdr.lowerEod j.n := by
  cases h : j.port with
  | none =>
    obtain ⟨hdsq, htsv, hope, harb, -, hbdr⟩ := rollbackOrphan_blocks j.n ((s.freeOwn j).finishJob j c detail)
    rw [failWrite_of_none s j c detail h, hdsq, htsv, hope, harb, hbdr]
    simp
  | some p =>
    obtain ⟨hdsq, htsv, hope, harb, -, hbdr⟩ := rollback_blocks
      (((s.freeOwn j).finishJob j c detail).loseOps p [] (s.port p).queue.tail) p j.n 0
      (lowestGiven (j.op :: (s.port p).queue.tail))
    rw [failWrite_of_port s j c detail h, hdsq, htsv, hope, harb, hbdr]
    simp

/-- The slots that a failed write leaves. -/
theorem failWrite_slot {p : PortId} (h : j.port = some p) (i : Nat) : (s.failWrite j c detail).bbf.slot i =
    if ∃ o ∈ j.op :: (s.port p).queue.tail, o.slot = some i then Slot.freed else s.bbf.slot i := by
  obtain ⟨-, -, -, -, hbbf, -⟩ := rollback_blocks
    (((s.freeOwn j).finishJob j c detail).loseOps p [] (s.port p).queue.tail) p j.n 0
    (lowestGiven (j.op :: (s.port p).queue.tail))
  rw [failWrite_of_port s j c detail h, hbbf]
  unfold State.loseOps
  rw [State.onPort_bbf, freeSlots_slot, finishJob_bbf, freeOwn_bbf, slot_freeOpt]
  simp only [List.mem_cons, exists_eq_or_imp]
  by_cases h₁ : ∃ o ∈ (s.port p).queue.tail, o.slot = some i
  · rw [if_pos h₁, if_pos (.inr h₁)]
  · rw [if_neg h₁]
    exact if_congr ⟨.inl, fun h => h.resolve_right h₁⟩ rfl rfl

/-- The port of a failed write. -/
theorem failWrite_own {p : PortId} (h : j.port = some p) : (s.failWrite j c detail).port p =
    ({ s.port p with
        queue := []
        status := (s.port p).status ++ (if j.op.owed then [opRec j.op (s.engineCode c) detail] else [])
          ++ owedRecs .cancelled lostDetail (s.port p).queue.tail
        next := (s.bdr.lowerEod j.n).bound j.n }.boundTo (s.bdr.lowerEod j.n) (s.enabled p)).defers
      (lowestGiven (j.op :: (s.port p).queue.tail)) (s.enabled p) := by
  have hen : (s.freeOwn j).enabled p = s.enabled p := by cases p <;> rfl
  rw [failWrite_of_port s j c detail h, rollback_own, loseOps_port, loseOps_bdr, finishJob_bdr, freeOwn_bdr, loseOps_enabled,
    finishJob_enabled, hen, finishJob_port_own _ j c detail h, freeOwn_port]
  rfl

theorem failWrite_other {p q : PortId} (h : j.port = some p) (hq : q ≠ p) : (s.failWrite j c detail).port q =
    (s.port q).boundTo (s.bdr.lowerEod j.n) (s.enabled q) := by
  have hen : (s.freeOwn j).enabled q = s.enabled q := by cases q <;> rfl
  have hne : j.port ≠ some q := by
    rw [h]
    exact fun he => hq (Option.some.inj he).symm
  rw [failWrite_of_port s j c detail h, rollback_other _ _ _ _ _ hq, loseOps_port_other _ hq, loseOps_bdr, finishJob_bdr,
    freeOwn_bdr, loseOps_enabled, finishJob_enabled, hen, finishJob_port_other _ j c detail hne, freeOwn_port]

/-- What an orphaned write that has failed leaves (R133). -/
theorem failWrite_orphan (h : j.port = none) : (s.failWrite j c detail).bbf = s.bbf.freeOpt j.op.slot
    ∧ ∀ q, (s.failWrite j c detail).port q = (s.port q).boundTo (s.bdr.lowerEod j.n) (s.enabled q) := by
  obtain ⟨-, -, -, -, hbbf, -⟩ := rollbackOrphan_blocks j.n ((s.freeOwn j).finishJob j c detail)
  rw [failWrite_of_none s j c detail h]
  refine ⟨by rw [hbbf, finishJob_bbf]; rfl, fun q => ?_⟩
  have hen : (s.freeOwn j).enabled q = s.enabled q := by cases q <;> rfl
  rw [rollbackOrphan_port, finishJob_bdr, freeOwn_bdr, finishJob_enabled, hen,
    finishJob_port_other _ j c detail (by rw [h]; exact nofun), freeOwn_port]

end

/-! ## A verification that fails -/

section
variable {s : State} {j : Job}

/-- When a verification passes, by the kind of the write and its slot. -/
theorem verifyPasses_iff (s : State) (j : Job) : s.verifyPasses j = true ↔
    match j.op.cmd, j.op.slot with
    | .writeMark, _ =>
      (s.ope.seen.rises = 1 ∧ s.ope.seen.endAt.isSome = true ∧ s.ope.seen.limited = false) ∧ s.ope.seen.mark = true
    | _, some i =>
      (s.ope.seen.rises = 1 ∧ s.ope.seen.endAt.isSome = true ∧ s.ope.seen.limited = false) ∧ s.ope.seen.mark = false
        ∧ s.ope.seen.count = ((s.bbf.slot i).data ++ checkField s.dsq.params.check (s.bbf.slot i).data).length
        ∧ s.ope.seen.bytes = s.ope.handed
        ∧ s.ope.handed = (s.bbf.slot i).data ++ checkField s.dsq.params.check (s.bbf.slot i).data
    | _, none => False := by
  split
  case h_1 hc => exact verifyPasses_mark hc
  case h_2 hi hc => exact verifyPasses_block hc hi
  case h_3 hi hc => rw [verifyPasses_none hc hi]; exact iff_of_false Bool.false_ne_true id

theorem verifyFailed_limit (h : s.dsq.params.failLimit ≤ s.ope.failCount + 1) :
    s.verifyFailed j = (s.onOpe (fun e => { e with failCount := s.dsq.params.failLimit })).mediaHold j := by
  unfold State.verifyFailed
  rw [raiseFailures_at h]
  exact if_pos (Nat.le_refl _)

theorem verifyFailed_retry (h : s.ope.failCount + 1 < s.dsq.params.failLimit) (hm : s.mayRetry j = true) :
    s.verifyFailed j = (s.onOpe (fun e => { e with failCount := s.ope.failCount + 1 })).stopAt j .retryStop := by
  unfold State.verifyFailed
  rw [raiseFailures_below h]
  exact (if_neg (Nat.not_le.mpr h)).trans (if_pos hm)

theorem verifyFailed_ends (h : s.ope.failCount + 1 < s.dsq.params.failLimit) (hm : s.mayRetry j = false) :
    s.verifyFailed j = (s.onOpe (fun e => { e with failCount := s.ope.failCount + 1 })).writeFailed j := by
  unfold State.verifyFailed
  rw [raiseFailures_below h]
  exact (if_neg (Nat.not_le.mpr h)).trans (if_neg (by rw [Bool.not_eq_true]; exact hm))

theorem writeFailed_own (ho : j.orphan = false) (hramp : s.tsv.order ≠ .faultRamp) :
    let lost := (s.onOpe (fun e => { e with posValid := false })).failWrite j .writeCheckFailed j.n
    s.writeFailed j = { lost with ope := { lost.ope with phase := .stop }, tsv := s.tsv.stopped } := by
  intro lost
  have htsv : lost.tsv = s.tsv := (failWrite_blocks _ j _ _).2.1
  have hstop := engineOrder_stop (s := lost.onOpe (fun e => { e with phase := .stop }))
    (show lost.tsv.order ≠ .faultRamp by rw [htsv]; exact hramp)
  rw [show (lost.onOpe (fun e => { e with phase := .stop })).tsv = s.tsv from htsv] at hstop
  exact (if_neg (by rw [ho]; exact Bool.false_ne_true)).trans hstop

theorem writeFailed_orphan (ho : j.orphan = true) : s.writeFailed j =
    ((s.onOpe (fun e => { e with posValid := false })).failWrite j .writeCheckFailed j.n).askAtEnd := if_pos ho

end

/-- Settles O34: the failure by its limits, then what a failed write leaves. -/
theorem verificationFails : Obligations.VerificationFails := by
  intro s j x one passes stopped
  refine ⟨fun hr hj hs hp hw hno hramp => ?_, fun p c d ha ho hc => ?_⟩
  · have hset : Settles .verifyEndPoint s (s.verifyFailed j) :=
      (verifyEndPoint_eq hr hj hs hp).trans (congrArg _ ((if_pos hw).trans (congrArg (fun u => State.settle u s)
        (if_neg (mt (verifyPasses_iff s j).mp hno)))))
    have hretry : s.dsq.params.retryLimit ≤ s.ope.attempt ∨ j.orphan = true → s.mayRetry j = false := fun h => by
      rw [Bool.eq_false_iff, Ne, mayRetry_iff]
      rintro ⟨hlt, ho⟩
      rcases h with h | h
      · omega
      · exact absurd h (by rw [ho]; exact nofun)
    refine ⟨fun hl => ?_, fun hl ha ho => ?_, fun hl ha ho => ?_, fun hl ho => ?_⟩
    · rw [verifyFailed_limit hl, mediaHold_eq (s := s.onOpe _) hramp] at hset
      exact hset
    · rw [verifyFailed_retry hl (mayRetry_iff.mpr ⟨ha, ho⟩), stopAt_eq (s := s.onOpe _) hramp] at hset
      exact hset
    · rw [verifyFailed_ends hl (hretry (.inl ha)), writeFailed_own (s := s.onOpe _) ho hramp] at hset
      exact hset
    · rw [verifyFailed_ends hl (hretry (.inr ho)), writeFailed_orphan ho] at hset
      refine ⟨_, hset, ?_⟩
      have hn := port_of_orphan ho
      generalize hv : State.failWrite j .writeCheckFailed j.n _ = v
      obtain ⟨hdsq, htsv, hope, harb, hbdr⟩ := failWrite_blocks ((s.onOpe (fun e => { e with failCount := s.ope.failCount + 1 })).onOpe
        (fun e => { e with posValid := false })) j .writeCheckFailed j.n
      obtain ⟨hbbf, hport⟩ := failWrite_orphan ((s.onOpe (fun e => { e with failCount := s.ope.failCount + 1 })).onOpe
        (fun e => { e with posValid := false })) j .writeCheckFailed j.n hn
      rw [hv] at hdsq htsv hope harb hbdr hbbf
      have hport' : ∀ q, v.askAtEnd.port q = (s.port q).boundTo v.bdr (s.enabled q) := fun q => by
        have hq := hport q
        rw [hv, ← hbdr] at hq
        cases q <;> exact hq
      have hope' : v.askAtEnd.ope = { v.ope with asking := true } := rfl
      rw [hope', hope]
      refine ⟨rfl, rfl, rfl, rfl, htsv, hdsq, harb, fun i hi _ => ?_, ?_, fun q => ?_⟩
      · show v.bbf.slot i = _
        rw [hbbf, slot_freeOpt, if_pos hi]
      · exact hbdr.trans (lowerEod_eq s.bdr j.n)
      · rw [hport']
        exact boundTo_parts v.bdr _ _
  · intro clamped u behind given
    have hpt : j.port = some p := Job.port_eq.mpr ⟨ha, ho⟩
    obtain ⟨hdsq, htsv, hope, harb, hbdr⟩ := failWrite_blocks s j c d
    have hown := failWrite_own s j c d hpt
    have hother := failWrite_other s j c d hpt (PortId.other_ne p)
    rw [engineCode_ne_ok hc] at hown
    obtain ⟨hnext, hmarks, hqueue, hstatus, hnone, hsome, hev⟩ := boundDefers_parts (s.bdr.lowerEod j.n) (s.enabled p)
      { s.port p with
        queue := []
        status := (s.port p).status ++ (if j.op.owed then [opRec j.op c d] else []) ++ owedRecs .cancelled lostDetail behind }
      j.n (lowestGiven (j.op :: behind))
    obtain ⟨hnext', hmarks', hqueue', hstatus', hdef'⟩ := boundTo_parts (s.bdr.lowerEod j.n) (s.enabled p.other) (s.port p.other)
    have hev' := boundTo_pendingEv (s.bdr.lowerEod j.n) (s.enabled p.other) (s.port p.other)
    rw [← hown] at hnext hmarks hqueue hstatus hnone hsome hev
    rw [← hother] at hnext' hmarks' hqueue' hstatus' hdef' hev'
    rw [← hbdr] at hnext hmarks hev hnext' hmarks' hev'
    refine ⟨hope, htsv, hdsq, harb, hqueue, hqueue', hstatus, hstatus', fun o ho i hi _ => ?_, hbdr.trans (lowerEod_eq s.bdr j.n),
      hnext, hnext', fun q => ?_, hnone, hsome, hdef', hev, hev'⟩
    · exact (failWrite_slot s j c d hpt i).trans (if_pos ⟨o, ho, hi⟩)
    · rcases PortId.eq_or_other p q with rfl | rfl
      · exact hmarks
      · exact hmarks'

end Sys2Proof.Machine

/-! PROOF. ABORT: the queued operations cancelled, the rollback, and the abort notice (R146, R162 to R164). -/

namespace Sys2Proof.Machine

/-! ## The operations cancelled -/

/-- The operations of a queue that ABORT cancels. -/
def cancelledOf (l : List Op) : List Op := l.filter Op.aborts

/-- The buffered writes lost with the cancelled write `f`. -/
def lostBehindOf (f : Nat) (l : List Op) : List Op := l.filter (Op.lostBehind (some f))

/-- What ABORT leaves of a queue, the lowest cancelled write being `f`. -/
def keptOf (f : Nat) (l : List Op) : List Op := l.filter (fun o => !o.aborts && !o.lostBehind (some f))

/-- A port with `kept` queued and the operations `l` completed CANCELLED (R164). -/
def Port.cancels (kept l : List Op) (q : Port) : Port :=
  { q with queue := kept, status := q.status ++ l.map (fun o => opRec o .cancelled (abortDetail o)) }

section
variable (s : State) (p : PortId)

theorem cancelQueued_none (h : lowestBlock (writesOf (cancelledOf (s.port p).queue)) = none) : s.cancelQueued p =
    (s.freeSlots (cancelledOf (s.port p).queue)).onPort p
      (Port.cancels ((s.port p).queue.filter (fun o => !o.aborts)) (cancelledOf (s.port p).queue)) := by
  have hb : (s.port p).queue.filter (Op.lostBehind none) = [] := List.filter_eq_nil_iff.mpr (fun _ _ => Bool.false_ne_true)
  have hk : (fun o : Op => !o.aborts && !o.lostBehind none) = fun o => !o.aborts := funext fun o => Bool.and_true _
  have h' : lowestBlock (writesOf (List.filter Op.aborts (s.port p).queue)) = none := h
  simp only [State.cancelQueued, h', hb, hk, List.append_nil]
  rfl

theorem cancelQueued_some {f : Nat} (h : lowestBlock (writesOf (cancelledOf (s.port p).queue)) = some f) : s.cancelQueued p =
    ((((s.freeSlots (cancelledOf (s.port p).queue ++ lostBehindOf f (s.port p).queue)).onPort p
      (Port.cancels (keptOf f (s.port p).queue) (cancelledOf (s.port p).queue))).rollbackTo p f
        (writesIn (keptOf f (s.port p).queue))).deferOpt p (lowestGiven (lostBehindOf f (s.port p).queue))) := by
  have h' : lowestBlock (writesOf (List.filter Op.aborts (s.port p).queue)) = some f := h
  simp only [State.cancelQueued, h']
  rfl

theorem cancelQueued_blocks : (s.cancelQueued p).dsq = s.dsq ∧ (s.cancelQueued p).tsv = s.tsv
    ∧ (s.cancelQueued p).ope = s.ope ∧ (s.cancelQueued p).arb = s.arb := by
  cases h : lowestBlock (writesOf (cancelledOf (s.port p).queue)) with
  | none =>
    rw [cancelQueued_none s p h]
    simp
  | some f =>
    rw [cancelQueued_some s p h]
    obtain ⟨hdsq, htsv, hope, harb, -, -⟩ := rollback_blocks
      ((s.freeSlots (cancelledOf (s.port p).queue ++ lostBehindOf f (s.port p).queue)).onPort p
        (Port.cancels (keptOf f (s.port p).queue) (cancelledOf (s.port p).queue))) p f (writesIn (keptOf f (s.port p).queue))
      (lowestGiven (lostBehindOf f (s.port p).queue))
    rw [hdsq, htsv, hope, harb]
    simp

/-- The records of an ABORT's cancelled operations; the other port keeps its queue, its records and its deferred error. -/
theorem cancelQueued_records : ((s.cancelQueued p).port p).status =
      (s.port p).status ++ (cancelledOf (s.port p).queue).map (fun o => opRec o .cancelled (abortDetail o))
    ∧ ((s.cancelQueued p).port p.other).queue = (s.port p.other).queue
    ∧ ((s.cancelQueued p).port p.other).status = (s.port p.other).status
    ∧ ((s.cancelQueued p).port p.other).deferred = (s.port p.other).deferred := by
  cases h : lowestBlock (writesOf (cancelledOf (s.port p).queue)) with
  | none =>
    rw [cancelQueued_none s p h, State.onPort_port, State.onPort_port_other, freeSlots_port, freeSlots_port]
    exact ⟨rfl, rfl, rfl, rfl⟩
  | some f =>
    rw [cancelQueued_some s p h, rollback_own, rollback_other _ _ _ _ _ (PortId.other_ne p), State.onPort_port,
      State.onPort_port_other, freeSlots_port, freeSlots_port]
    exact ⟨rfl, rfl, rfl, rfl⟩

/-- With no write cancelled the rest stands. -/
theorem cancelQueued_stands (h : lowestBlock (writesOf (cancelledOf (s.port p).queue)) = none) : let u := s.cancelQueued p
    u.port p = (s.port p).cancels ((s.port p).queue.filter (fun o => !o.aborts)) (cancelledOf (s.port p).queue)
      ∧ u.port p.other = s.port p.other ∧ u.bdr = s.bdr
      ∧ ∀ i, u.bbf.slot i = if ∃ o ∈ cancelledOf (s.port p).queue, o.slot = some i then Slot.freed else s.bbf.slot i := by
  intro u
  have hu : u = _ := cancelQueued_none s p h
  rw [hu, State.onPort_port, State.onPort_port_other, freeSlots_port, freeSlots_port, State.onPort_bdr, freeSlots_bdr]
  exact ⟨rfl, rfl, rfl, fun i => by rw [State.onPort_bbf, freeSlots_slot]⟩

/-- With a write cancelled the volume is rolled back. -/
theorem cancelQueued_rolls {f : Nat} (h : lowestBlock (writesOf (cancelledOf (s.port p).queue)) = some f) : let u := s.cancelQueued p
    let q := (s.port p).cancels (keptOf f (s.port p).queue) (cancelledOf (s.port p).queue)
    let d := s.bdr.lowerEod f
    u.port p = ({ q with next := d.bound (f - writesIn (keptOf f (s.port p).queue)) }.boundTo d (s.enabled p)).defers
        (lowestGiven (lostBehindOf f (s.port p).queue)) (s.enabled p)
      ∧ u.port p.other = (s.port p.other).boundTo d (s.enabled p.other) ∧ u.bdr = d
      ∧ ∀ i, u.bbf.slot i = if ∃ o ∈ cancelledOf (s.port p).queue ++ lostBehindOf f (s.port p).queue, o.slot = some i
          then Slot.freed else s.bbf.slot i := by
  intro u q d
  have hu : u = _ := cancelQueued_some s p h
  have hbdr : ∀ g, ((s.freeSlots (cancelledOf (s.port p).queue ++ lostBehindOf f (s.port p).queue)).onPort p g).bdr = s.bdr :=
    fun g => by rw [State.onPort_bdr, freeSlots_bdr]
  have hen : ∀ g q, ((s.freeSlots (cancelledOf (s.port p).queue ++ lostBehindOf f (s.port p).queue)).onPort p g).enabled q =
      s.enabled q := fun g q => by rw [State.onPort_enabled, freeSlots_enabled]
  obtain ⟨-, -, -, -, hbbf, hd⟩ := rollback_blocks
    ((s.freeSlots (cancelledOf (s.port p).queue ++ lostBehindOf f (s.port p).queue)).onPort p
      (Port.cancels (keptOf f (s.port p).queue) (cancelledOf (s.port p).queue))) p f (writesIn (keptOf f (s.port p).queue))
    (lowestGiven (lostBehindOf f (s.port p).queue))
  rw [hu, hbbf, hd, rollback_own, rollback_other _ _ _ _ _ (PortId.other_ne p), hbdr, hen, hen, State.onPort_port,
    State.onPort_port_other, freeSlots_port, freeSlots_port]
  exact ⟨rfl, rfl, rfl, fun i => by rw [State.onPort_bbf, freeSlots_slot]⟩

end

/-! ## The abort notice -/

section
variable {s : State} {p : PortId} {j : Job}

theorem abortNotice_own (hj : s.ope.job = some j) (hp : j.port = some p) : s.abortNotice p = s.abortJob j := by
  simp only [State.abortNotice, hj, hp, if_true]

theorem abortNotice_other (hj : s.ope.job = some j) (hp : j.port ≠ some p) : s.abortNotice p = s := by
  simp only [State.abortNotice, hj, hp, if_false]

theorem abortNotice_waiting (hj : s.ope.job = none) (hw : s.ope.waiting = some j) (hp : j.port = some p) : s.abortNotice p =
    if j.op.cmd.abortsWaiting then s.onOpe (fun e => { e with waiting := some { j with aborted := true } }) else s := by
  simp only [State.abortNotice, hj, hw, hp, true_and]

theorem abortJob_moving (h : (∃ w, j.stage = .positioning w) ∨ j.stage = .rewinding) : s.abortJob j = s.stopAt j .abortStop := by
  rcases h with ⟨w, h⟩ | h <;> simp only [State.abortJob, h]

theorem abortJob_crossing (h : j.stage = .crossing) :
    s.abortJob j = s.onOpe (fun e => { e with job := some { j with aborted := true } }) := by
  simp only [State.abortJob, h]

theorem abortJob_scanning (h : j.stage = .scanning) : s.abortJob j =
    if j.op.cmd.abortsInScan then s.onOpe (fun e => { e with job := some { j with aborted := true } }) else s := by
  simp only [State.abortJob, h]

theorem abortJob_stands (h : j.stage = .reading ∨ j.stage = .writing ∨ j.stage = .deck) : s.abortJob j = s := by
  rcases h with h | h | h <;> simp only [State.abortJob, h]

/-- The notice touches the engine and the servo alone. -/
theorem abortNotice_frame (s : State) (p : PortId) :
    s.abortNotice p = { s with ope := (s.abortNotice p).ope, tsv := (s.abortNotice p).tsv } := by
  have hjob : ∀ j, s.abortJob j = { s with ope := (s.abortJob j).ope, tsv := (s.abortJob j).tsv } := fun j => by
    unfold State.abortJob
    split
    case h_3 => split <;> rfl
    all_goals rfl
  unfold State.abortNotice
  split
  · split
    · exact hjob _
    · rfl
  · split
    · split <;> rfl
    · rfl

theorem abortsInScan_iff (c : Cmd) : c.abortsInScan = true ↔ c = .locate ∨ c = .space := by
  simp [Cmd.abortsInScan]

theorem abortsWaiting_of_mem {c : Cmd} (h : c ∈ [.readBlock, .writeBlock, .writeMark, .space, .locate, .rewind]) :
    c.abortsWaiting = true := by
  revert h
  cases c <;> decide

theorem abortsWaiting_of_deck {c : Cmd} (h : c = .load ∨ c = .unload) : c.abortsWaiting = false := by
  rcases h with rfl | rfl <;> rfl

end

/-! ## The whole ABORT -/

/-- The effect of an ABORT's frame, its record placed last. -/
theorem abort_eq (s : State) (p : PortId) (h : Hdr) : s.abort p h = ((s.cancelQueued p).abortNotice p).place p
    (completeRec h.tag h.code .ok (cancelledOf (s.port p).queue).length []) := rfl

theorem aborts_kept (o : Op) : (!o.aborts) = (o.granted || !o.owed) := by
  unfold Op.aborts
  cases o.granted <;> cases o.owed <;> rfl

theorem lost_kept (f : Nat) (o : Op) : (!o.aborts && !o.lostBehind (some f)) =
    (o.granted || ((!o.granted && !o.owed) && !(o.cmd.isWrite && decide (f ≤ o.block.getD 0)))) := by
  have hl : o.lostBehind (some f) = ((!o.granted && !o.owed) && (o.cmd.isWrite && decide (f ≤ o.block.getD 0))) := rfl
  rw [hl, aborts_kept]
  cases o.granted <;> cases o.owed <;> rfl

/-- The lowest lost write whose record was given: of buffered writes, the lowest WRITE BLOCK (R163). -/
theorem lowestGiven_lostBehindOf (f : Nat) (l : List Op) : lowestGiven (lostBehindOf f l) =
    ((lostBehindOf f l).filterMap (fun o => if o.cmd = .writeBlock then o.block else none)).min? := by
  refine congrArg List.min? (List.filterMap_congr (fun o ho => ?_))
  have hl := (List.mem_filter.mp ho).2
  have howed : o.owed = false := by
    unfold Op.lostBehind at hl
    simp only [Bool.and_eq_true, Bool.not_eq_true'] at hl
    exact hl.1.2
  exact if_congr ⟨fun h => h.1, fun h => ⟨h, howed⟩⟩ rfl rfl

/-- Settles O60: the cancelled operations with or without a write among them, then the notice by the stage. -/
theorem abortCancels : Obligations.AbortCancels := by
  intro s p ha h lost clamped writes
  have hdef := ha.noError
  have hset : Settles (.abort p) s ((s.onPort p Port.nextFrame).abort p h) := settles_of_answered ha rfl rfl rfl
  refine ⟨_, hset, ?_⟩
  rw [abort_eq]
  have hq : ((s.onPort p Port.nextFrame).port p) = (s.port p).nextFrame := State.onPort_port _ _ _
  have hqo : ((s.onPort p Port.nextFrame).port p.other) = s.port p.other := State.onPort_port_other _ _ _
  have hen : ∀ q, (s.onPort p Port.nextFrame).enabled q = s.enabled q := fun q => State.onPort_enabled _ _ _ _
  have hbdr0 : (s.onPort p Port.nextFrame).bdr = s.bdr := State.onPort_bdr _ _ _
  have hbbf0 : (s.onPort p Port.nextFrame).bbf = s.bbf := State.onPort_bbf _ _ _
  have hlost : cancelledOf (s.port p).nextFrame.queue = lost := rfl
  obtain ⟨hdsq, htsv, hope, harb⟩ := cancelQueued_blocks (s.onPort p Port.nextFrame) p
  obtain ⟨hstatus, hqueue', hstatus', hdef'⟩ := cancelQueued_records (s.onPort p Port.nextFrame) p
  have hstands := cancelQueued_stands (s.onPort p Port.nextFrame) p
  have hrolls := fun f => cancelQueued_rolls (s.onPort p Port.nextFrame) p (f := f)
  dsimp only at hstands hrolls
  rw [State.onPort_dsq] at hdsq
  rw [State.onPort_tsv] at htsv
  rw [State.onPort_ope] at hope
  rw [State.onPort_arb] at harb
  simp only [hlost, hq, hqo, hen, hbdr0, hbbf0] at hstatus hqueue' hstatus' hdef' hstands hrolls
  rw [hq, hlost]
  generalize (s.onPort p Port.nextFrame).cancelQueued p = w at *
  have hframe := abortNotice_frame w p
  have hnport : ∀ q, (w.abortNotice p).port q = w.port q := fun q => by rw [hframe]; cases q <;> rfl
  have hown := place_port (w.abortNotice p) p p (completeRec h.tag h.code .ok lost.length [])
  have hother := place_port (w.abortNotice p) p p.other (completeRec h.tag h.code .ok lost.length [])
  rw [if_pos rfl, hnport] at hown
  rw [if_neg (PortId.other_ne p), hnport, List.append_nil] at hother
  have hudsq : ((w.abortNotice p).place p (completeRec h.tag h.code .ok lost.length [])).dsq = w.dsq := by
    rw [State.place, State.onPort_dsq, hframe]
  have huarb : ((w.abortNotice p).place p (completeRec h.tag h.code .ok lost.length [])).arb = w.arb := by
    rw [State.place, State.onPort_arb, hframe]
  have hubdr : ((w.abortNotice p).place p (completeRec h.tag h.code .ok lost.length [])).bdr = w.bdr := by
    rw [State.place, State.onPort_bdr, hframe]
  have hubbf : ((w.abortNotice p).place p (completeRec h.tag h.code .ok lost.length [])).bbf = w.bbf := by
    rw [State.place, State.onPort_bbf, hframe]
  have huope : ((w.abortNotice p).place p (completeRec h.tag h.code .ok lost.length [])).ope = (w.abortNotice p).ope :=
    State.onPort_ope _ _ _
  have hutsv : ((w.abortNotice p).place p (completeRec h.tag h.code .ok lost.length [])).tsv = (w.abortNotice p).tsv :=
    State.onPort_tsv _ _ _
  rw [hown, hother, hudsq, huarb, hubdr, hubbf, huope, hutsv]
  have hlow : lowestBlock (writesOf lost) = writes.min? := rfl
  rw [hlow] at hstands hrolls
  refine ⟨?_, hqueue', hstatus', hdsq, harb, fun hw => ?_, fun f hf => ?_, fun j hj hact ho hramp => ⟨fun hst => ?_, fun hst => ?_,
    fun hst => ?_⟩, fun j hj hact ho hst => ?_, fun j hj hst => ?_, fun j hj hwait hact ho => ?_, fun j hj hact => ?_⟩
  · rw [hstatus]
    rfl
  · obtain ⟨hport, hport', hbdr, hslot⟩ := hstands (by rw [hw]; rfl)
    rw [hport, hport', hbdr]
    refine ⟨List.filter_congr (fun o _ => aborts_kept o), rfl, rfl, rfl, rfl, hdef, rfl, fun o hm i hi _ => ?_, fun i hno => ?_⟩
    · rw [hslot, if_pos ⟨o, hm, hi⟩]
    · rw [hslot, if_neg (fun ⟨o, hm, hi⟩ => hno o hm hi)]
  · obtain ⟨hport, hport', hbdr, hslot⟩ := hrolls f hf
    intro buffered beyond behind kept given
    have hkept : keptOf f (s.port p).nextFrame.queue = kept := List.filter_congr (fun o _ => lost_kept f o)
    have hbehind : lostBehindOf f (s.port p).nextFrame.queue = behind := rfl
    have hgiven : lowestGiven behind = given := lowestGiven_lostBehindOf f (s.port p).queue
    rw [hkept, hbehind, hgiven] at hport
    rw [hbehind] at hslot
    obtain ⟨hnext, hmarks, hqueue, -, hnone, hsome, hev⟩ := boundDefers_parts (s.bdr.lowerEod f) (s.enabled p)
      ((s.port p).nextFrame.cancels kept lost) (f - writesIn kept) given
    obtain ⟨hnext', hmarks', -, -, -⟩ := boundTo_parts (s.bdr.lowerEod f) (s.enabled p.other) (s.port p.other)
    have hev' := boundTo_pendingEv (s.bdr.lowerEod f) (s.enabled p.other) (s.port p.other)
    rw [← hport] at hnext hmarks hqueue hnone hsome hev
    rw [← hport'] at hnext' hmarks' hev'
    rw [← hbdr] at hnext hmarks hev hnext' hmarks' hev'
    refine ⟨hbdr.trans (lowerEod_eq s.bdr f), hqueue, hnext, hnext', fun q => ?_, ?_, hdef', hev, hev', fun o hm i hi _ => ?_,
      fun i hno => ?_⟩
    · rcases PortId.eq_or_other p q with rfl | rfl
      · rw [hown]; exact hmarks
      · rw [hother]; exact hmarks'
    · cases hg : given with
      | none => exact (hnone hg).trans hdef
      | some n =>
        refine (hsome n hg).trans ?_
        show some (match (s.port p).deferred with | some i => min i n | none => n) = _
        rw [hdef]
    · rw [hslot, if_pos ⟨o, hm, hi⟩]
    · rw [hslot, if_neg (fun ⟨o, hm, hi⟩ => hno o hm hi)]
  all_goals rw [← hope] at hj
  · rw [abortNotice_own hj (Job.port_eq.mpr ⟨hact, ho⟩), abortJob_moving hst, stopAt_eq (by rw [htsv]; exact hramp), hope, htsv]
    exact ⟨rfl, rfl⟩
  · rw [abortNotice_own hj (Job.port_eq.mpr ⟨hact, ho⟩), abortJob_crossing hst, State.onOpe_ope, State.onOpe_tsv, hope]
    exact ⟨rfl, htsv⟩
  · rw [abortNotice_own hj (Job.port_eq.mpr ⟨hact, ho⟩), abortJob_stands (hst.imp_right .inl)]
    exact ⟨hope, htsv⟩
  · rw [abortNotice_own hj (Job.port_eq.mpr ⟨hact, ho⟩), abortJob_scanning hst, ← hope]
    by_cases hc : j.op.cmd = .locate ∨ j.op.cmd = .space
    · rw [if_pos ((abortsInScan_iff _).mpr hc), if_pos hc]
      exact ⟨rfl, htsv⟩
    · rw [if_neg (mt (abortsInScan_iff _).mp hc), if_neg hc]
      exact ⟨rfl, htsv⟩
  · by_cases hpt : j.port = some p
    · rw [abortNotice_own hj hpt, abortJob_stands (.inr (.inr hst))]
      exact ⟨hope, htsv⟩
    · rw [abortNotice_other hj hpt]
      exact ⟨hope, htsv⟩
  · rw [← hope] at hwait
    rw [abortNotice_waiting hj hwait (Job.port_eq.mpr ⟨hact, ho⟩), ← hope]
    refine ⟨?_, fun hm => ?_, fun hd => ?_⟩
    · split <;> exact htsv
    · rw [if_pos (abortsWaiting_of_mem hm)]
      rfl
    · rw [if_neg (by rw [abortsWaiting_of_deck hd]; exact Bool.false_ne_true)]
  · have hne : j.port ≠ some p := by
      rw [Ne, Job.port_eq, hact]
      exact fun he => PortId.other_ne p (Actor.port.inj he.1)
    rw [abortNotice_other hj hne]
    exact ⟨hope, htsv⟩

end Sys2Proof.Machine

/-! PROOF. The completions of moves (R11, R31, R128, R133, R136, R138, R140, R144, R145). -/

namespace Sys2Proof.Machine

/-! ## The engine's corrections and landings -/

/-- Out of the fault ramp the servo takes the engine's order (R24). -/
theorem engineOrder_eq {s : State} (h : s.tsv.order ≠ .faultRamp) (f : Tsv → Tsv) :
    s.engineOrder f = { s with tsv := f s.tsv } := congrArg (fun v => { s with tsv := v }) (if_neg h)

section
variable {s : State} {j : Job} {e : Int}

theorem exec_moveCompletion_engine (hr : s.inReset = false) (h : s.tsv.report = some (.moveDone .engine e)) :
    Settles .moveCompletion s (s.clearReport.moveDone e) := by
  rw [Settles, exec, execMoveCompletion, taken_running _ hr, h]

theorem moveDone_eq (hj : s.ope.job = some j) : s.moveDone e =
    if e.natAbs ≤ 40 then s.landed j
    else if s.ope.corrections < 3 then
      (s.onOpe (fun x => { x with corrections := x.corrections + 1 })).engineOrder
        (Tsv.orderMoveAt j.moveTarget (decide (e < 0)) .creep .engine)
    else (s.onOpe (fun x => { x with posValid := false })).endFailed j .positioningFailed (s.restBlock j) true := by
  simp only [State.moveDone, hj]
  rfl

theorem moveDone_landed (hj : s.ope.job = some j) (he : e.natAbs ≤ 40) : s.moveDone e = s.landed j :=
  (moveDone_eq hj).trans (if_pos he)

theorem moveDone_corrects (hj : s.ope.job = some j) (he : 40 < e.natAbs) (hc : s.ope.corrections < 3)
    (hramp : s.tsv.order ≠ .faultRamp) : s.moveDone e =
      { s with
        ope := { s.ope with corrections := s.ope.corrections + 1 }
        tsv := s.tsv.orderMoveAt j.moveTarget (decide (e < 0)) .creep .engine } :=
  (moveDone_eq hj).trans ((if_neg (Nat.not_le.mpr he)).trans ((if_pos hc).trans (engineOrder_eq (s := s.onOpe _) hramp _)))

theorem moveDone_failed (hj : s.ope.job = some j) (he : 40 < e.natAbs) (hc : 3 ≤ s.ope.corrections) : s.moveDone e =
    (s.onOpe (fun x => { x with posValid := false })).endFailed j .positioningFailed (s.restBlock j) true :=
  (moveDone_eq hj).trans ((if_neg (Nat.not_le.mpr he)).trans (if_neg (Nat.not_lt.mpr hc)))

/-- The block and the expected start that a positioning's landing takes (R136). -/
def Way.takes (w : Way) (goal : Nat) : Nat × Int :=
  match w with
  | .exact start => (goal, start)
  | .afterEod endPos => (goal, endPos + 600)
  | .lower k start => (k, start)
  | .loadPoint => (0, 3000)

theorem ope_landed_eq (w : Way) (t : Nat) (e : Ope) :
    e.landed w t = { e with deckNext := (w.takes t).1, expStart := (w.takes t).2, posValid := true } := by
  cases w <;> rfl

theorem landed_positioning {w : Way} (hs : j.stage = .positioning w) : s.landed j =
    if (w.takes j.goal).1 = j.goal then (s.onOpe (Ope.landed w j.goal)).positioned j true
    else (s.onOpe (Ope.landed w j.goal)).runScan j .scanning := by
  simp only [State.landed, hs]
  cases w
  case exact => exact (if_pos rfl).symm
  case afterEod => exact (if_pos rfl).symm
  case lower => rfl
  case loadPoint => rfl

theorem landed_retry_write (hs : j.stage = .retryMove) (hw : j.op.cmd.isWrite = true) :
    s.landed j = s.runWrite j (s.ope.attempt + 1) := by
  simp only [State.landed, hs, hw, if_true]

theorem landed_retry_read (hs : j.stage = .retryMove) (hw : j.op.cmd.isWrite = false) :
    s.landed j = s.runRead j (s.ope.attempt + 1) := by
  simp only [State.landed, hs, hw, Bool.false_eq_true, if_false]

theorem landed_blank_read (hs : j.stage = .blankMove false) : s.landed j =
    (s.onOpe (fun e => { e with posValid := true, deckNext := j.n })).endFailed j .blankTape j.n true := by
  simp only [State.landed, hs]
  rfl

theorem landed_blank_scan (hs : j.stage = .blankMove true) (hw : j.op.cmd.isWrite = false) : s.landed j =
    ((s.onOpe (fun e => { e with posValid := true })).jobNext j s.ope.deckNext).endFailed j .endOfData
      (if j.op.cmd = .space ∧ 0 < j.op.param then j.op.count - j.crossed else s.ope.deckNext) true := by
  simp only [State.landed, hs, hw]
  rfl

theorem landed_blank_write (hs : j.stage = .blankMove true) (hw : j.op.cmd.isWrite = true) : s.landed j =
    ((s.onOpe (fun e => { e with posValid := true })).endFailed j .endOfData s.ope.deckNext true).jobNext j s.ope.deckNext := by
  simp only [State.landed, hs, hw]
  rfl

theorem landed_rewinding (hs : j.stage = .rewinding) : s.landed j =
    ((s.onOpe (fun e => { e with deckNext := 0, posValid := true, expStart := s.bdr.blockZeroStart })).jobNext j 0).endOp j .ok 0
      true := by
  simp only [State.landed, hs]

end

/-- What the end of an operation that is not a write leaves at rest, its port's number apart. -/
theorem failedEnd_parts {t : State} {j : Job} {c : Code} (hw : j.op.cmd.isWrite = false) (hc : c ≠ .ok) (detail : Nat) :
    let u := t.endFailed j c detail true
    u.ope = { t.ope.dropped t.tsv.eotPassed with phase := .idle, attempt := 0, asking := false } ∧ u.tsv = t.tsv ∧ u.dsq = t.dsq
      ∧ u.bdr = t.bdr ∧ u.arb = t.arb ∧ (∀ i, j.op.slot = some i → u.bbf.slot i = Slot.freed)
      ∧ (j.port = none → ∀ p, u.port p = t.port p)
      ∧ (∀ p, (u.port p).next = (t.port p).next)
      ∧ ∀ p, j.actor = .port p → j.orphan = false →
          (u.port p).queue = (t.port p).queue.tail
          ∧ (u.port p).status = (t.port p).status ++ (if j.op.owed then [opRec j.op c detail] else []) := by
  intro u
  have hu : u = (t.freeOwn j).endOp j c detail true := endFailed_eq t j true c detail hw
  rw [hu, endOp_ope, endOp_tsv, endOp_dsq, endOp_bdr, endOp_arb, endOp_bbf]
  refine ⟨rfl, rfl, rfl, rfl, rfl, fun i hi => slot_freeOwn t j hi, fun hn p => ?_, fun p => ?_, fun p ha ho => ?_⟩
  · rw [endOp_port_other _ _ _ _ _ (by rw [hn]; exact nofun), freeOwn_port]
  · rw [endOp_next, freeOwn_port]
  · rw [endOp_port_own _ _ _ _ _ (Job.port_eq.mpr ⟨ha, ho⟩), engineCode_ne_ok hc, freeOwn_port]
    exact ⟨rfl, rfl⟩

theorem port_of_orphan_or_panel {j : Job} (h : j.orphan = true ∨ j.actor = .panel) : j.port = none :=
  h.elim port_of_orphan port_of_panel

theorem bound_zero (d : Bdr) : d.bound 0 = 0 := by
  cases h : d.eod with
  | none => exact bound_none h 0
  | some e => rw [bound_some h]; exact Nat.zero_min e

/-- Settles O19: the error, then the landing by what the move was for. -/
theorem moveCompletions : Obligations.MoveCompletions := by
  intro s hr taken
  have htaken : s.clearReport = taken := rfl
  refine ⟨fun e j hrep hj hramp => ?_, fun e hrep hd => ?_, fun hrep => ?_⟩
  · intro runs invalid valid rest ends
    have hset := exec_moveCompletion_engine hr hrep
    rw [htaken] at hset
    have hj' : taken.ope.job = some j := hj
    have hramp' : taken.tsv.order ≠ .faultRamp := hramp
    have hrest : taken.restBlock j = rest := rfl
    have hends : ∀ (v : State) (c : Code) (d : Nat), j.op.cmd.isWrite = false → c ≠ .ok → v.tsv = taken.tsv → v.dsq = s.dsq →
        v.bdr = s.bdr → v.arb = s.arb → v.ope.expStart = s.ope.expStart → v.ope.failCount = s.ope.failCount →
        (∀ p, (v.port p).queue = (s.port p).queue ∧ (v.port p).status = (s.port p).status) →
        (j.port = none → ∀ p, v.port p = s.port p) → ends (v.endFailed j c d true) c d := by
      intro v c d hw hc h₁ h₂ h₃ h₄ h₅ h₆ hq hn
      obtain ⟨hope, htsv, hdsq, hbdr, harb, hslot, hnone, -, hown⟩ := failedEnd_parts (t := v) (j := j) hw hc d
      have hno : j.orphan = true ∨ j.actor = .panel → ∀ p, (v.endFailed j c d true).port p = s.port p := fun h p =>
        (hnone (port_of_orphan_or_panel h) p).trans (hn (port_of_orphan_or_panel h) p)
      refine ⟨by rw [hope]; rfl, by rw [hope], by rw [hope], by rw [hope]; exact h₅, by rw [hope]; exact h₆, htsv.trans h₁,
        hdsq.trans h₂, hbdr.trans h₃, harb.trans h₄, fun i hi _ => hslot i hi, fun h => ⟨hno h .a, hno h .b⟩, fun p ha ho => ?_⟩
      obtain ⟨hqueue, hstatus⟩ := hown p ha ho
      rw [(hq p).1] at hqueue
      rw [(hq p).2] at hstatus
      exact ⟨hqueue, hstatus⟩
    have hnone : ∀ v : State, (∀ p, v.port p = s.port p) →
        (∀ p, (v.port p).queue = (s.port p).queue ∧ (v.port p).status = (s.port p).status) ∧
        (j.port = none → ∀ p, v.port p = s.port p) := fun v hv => ⟨fun p => by rw [hv]; exact ⟨rfl, rfl⟩, fun _ => hv⟩
    refine ⟨fun he hc => ?_, fun he hc => ⟨fun hw => ?_, fun hw => ?_⟩, fun he => ⟨fun w hs => ?_, fun hs hw => ?_, fun i hs hw hi => ?_,
      fun hs hw => ?_, fun hs hw => ?_, fun hs hw => ?_, fun p hs ha ho hw => ?_, fun hs hp => ?_⟩⟩
    · rw [moveDone_corrects hj' he hc hramp'] at hset
      exact hset
    · rw [moveDone_failed hj' he hc, hrest] at hset
      obtain ⟨hq, hn⟩ := hnone (taken.onOpe (fun x => { x with posValid := false })) (fun p => by cases p <;> rfl)
      obtain ⟨hope, -, -, -, -, -, -, hnext, -⟩ := failedEnd_parts (t := taken.onOpe (fun x => { x with posValid := false })) (j := j)
        hw (c := .positioningFailed) (by decide) rest
      refine ⟨_, hset, by rw [hope]; rfl, by rw [hope]; rfl, fun p => (hnext p).trans (by cases p <;> rfl),
        hends _ _ _ hw nofun rfl rfl rfl rfl rfl rfl hq hn⟩
    · rw [moveDone_failed hj' he hc, hrest, endFailed_write _ _ _ _ _ hw] at hset
      exact hset
    all_goals rw [moveDone_landed hj' he] at hset
    · intro at_ rested
      have hat : w.takes j.goal = at_ := rfl
      have hrested : taken.onOpe (Ope.landed w j.goal) = rested := by
        show { taken with ope := taken.ope.landed w j.goal } = _
        rw [ope_landed_eq, hat]
      rw [landed_positioning hs, hat, hrested] at hset
      refine ⟨fun h => ?_, fun h => ?_⟩
      · rw [if_pos h] at hset
        exact hset
      · rw [if_neg h, runScan_eq (s := rested) hramp'] at hset
        exact hset
    · rw [landed_retry_write hs hw, runWrite_eq hramp'] at hset
      exact hset
    · rw [landed_retry_read hs hw, runRead_eq hramp' j _ hi] at hset
      exact hset
    · rw [landed_blank_read hs] at hset
      obtain ⟨hq, hn⟩ := hnone (taken.onOpe (fun e => { e with posValid := true, deckNext := j.n })) (fun p => by cases p <;> rfl)
      obtain ⟨hope, -, -, -, -, -, -, hnext, -⟩ := failedEnd_parts
        (t := taken.onOpe (fun e => { e with posValid := true, deckNext := j.n })) (j := j) hw (c := .blankTape) (by decide) j.n
      refine ⟨_, hset, by rw [hope]; rfl, by rw [hope]; rfl, fun p => (hnext p).trans (by cases p <;> rfl),
        hends _ _ _ hw nofun rfl rfl rfl rfl rfl rfl hq hn⟩
    · rw [landed_blank_scan hs hw] at hset
      have hport : ∀ p, (taken.onOpe (fun e => { e with posValid := true })).port p = s.port p := fun p => by cases p <;> rfl
      generalize hd : (if j.op.cmd = .space ∧ 0 < j.op.param then j.op.count - j.crossed else taken.ope.deckNext) = d at hset
      obtain ⟨hope, -, -, -, -, -, -, hnext, -⟩ := failedEnd_parts
        (t := (taken.onOpe (fun e => { e with posValid := true })).jobNext j taken.ope.deckNext) (j := j) hw (c := .endOfData)
        (by decide) d
      refine ⟨_, hset, by rw [hope, jobNext_ope]; rfl, by rw [hope, jobNext_ope]; rfl, fun p ha ho => ?_, ?_⟩
      · rw [hnext, jobNext_port_own _ _ _ (Job.port_eq.mpr ⟨ha, ho⟩)]
        rfl
      · subst hd
        refine hends _ _ _ hw nofun (by rw [jobNext_tsv]; rfl) (by rw [jobNext_dsq]; rfl) (by rw [jobNext_bdr]; rfl)
          (by rw [jobNext_arb]; rfl) (by rw [jobNext_ope]; rfl) (by rw [jobNext_ope]; rfl) (fun p => ?_) (fun hn p => ?_)
        · by_cases hpt : j.port = some p
          · rw [jobNext_port_own _ _ _ hpt, hport]
            exact ⟨rfl, rfl⟩
          · rw [jobNext_port_other _ _ _ hpt, hport]
            exact ⟨rfl, rfl⟩
        · rw [jobNext_of_none _ _ _ hn, hport]
    · rw [landed_blank_write hs hw, endFailed_write _ _ _ _ _ hw] at hset
      exact hset
    · rw [landed_rewinding hs] at hset
      have hpt : j.port = some p := Job.port_eq.mpr ⟨ha, ho⟩
      have hzero : taken.bdr.blockZeroStart = (match s.bdr.entry 0 with | some x => x.start | none => 3000) := rfl
      generalize taken.bdr.blockZeroStart = z at hset hzero
      have hport : ∀ q, (taken.onOpe (fun e => { e with deckNext := 0, posValid := true, expStart := z })).port q = s.port q :=
        fun q => by cases q <;> rfl
      refine ⟨_, hset, ?_⟩
      rw [endOp_ope, endOp_bdr, endOp_bbf, jobNext_ope, jobNext_bdr, jobNext_bbf, nextEnd_port_own _ _ _ _ _ _ hpt,
        nextEnd_port_other _ _ _ _ _ _ (port_ne_other ha), hport, hport, engineCode_ok, hw]
      exact ⟨rfl, rfl, hzero, bound_zero _, rfl, rfl, rfl, rfl, rfl, rfl⟩
    · rw [landed_rewinding hs, jobNext_of_none _ _ _ (port_of_orphan_or_panel hp.symm), State.endOp, finishJob_eq,
        leaveQueue_of_none _ _ _ (port_of_orphan_or_panel hp.symm)] at hset
      exact hset
  · have hx : exec .moveCompletion s = .next s.clearReport.enterWindOff := by
      rw [exec, execMoveCompletion, taken_running _ hr]
      simp only [hrep, hd, if_true]
    exact ⟨_, hx, rfl, rfl, rfl, rfl, rfl, rfl, rfl, rfl, rfl, rfl⟩
  · rw [Becomes, exec, execMoveCompletion, taken_running _ hr, hrep]

end Sys2Proof.Machine

/-! PROOF. The completions of stops, and the end of the fault ramp (R9, R12, R13, R66, R75, R122, R127, R128, R130, R138, R146). -/

namespace Sys2Proof.Machine

/-! ## The engine's stops -/

section
variable {s : State} {j : Job}

theorem exec_stopCompletion_engine (hr : s.inReset = false) (h : s.tsv.report = some (.stopDone .engine)) :
    Settles .stopCompletion s s.clearReport.engineStopDone := by
  rw [Settles, exec, execStopCompletion, taken_running _ hr, h]

theorem engineStopDone_idle (hj : s.ope.job = none) (hw : s.ope.waiting = none) (hp : s.ope.phase = .stop) :
    s.engineStopDone = s.lowerErase.goIdle := by
  simp only [State.engineStopDone, hj, hw, hp, ne_eq, not_true, if_false]

theorem engineStopDone_waiting (hj : s.ope.job = none) (hw : s.ope.waiting = some j) (hp : s.ope.phase = .stop) :
    s.engineStopDone = (let t := s.lowerErase.onOpe (fun e => { e with waiting := none })
      if j.aborted then t.endFailed j .cancelled j.cancelDetail true else t.beginOp j true) := by
  simp only [State.engineStopDone, hj, hw, hp, ne_eq, not_true, if_false]

theorem engineStopDone_retry (hj : s.ope.job = some j) (hs : j.stage = .retryStop) : s.engineStopDone =
    if j.orphan then s.lowerErase.endOrphan j else s.lowerErase.moveTo j .retryMove (s.retryPoint j) false := by
  simp only [State.engineStopDone, hj, hs]

theorem engineStopDone_blank (hj : s.ope.job = some j) {b : Bool} (hs : j.stage = .blankStop b) :
    s.engineStopDone = s.moveTo j (.blankMove b) (s.ope.expStart - 250) false := by
  simp only [State.engineStopDone, hj, hs]

theorem engineStopDone_abort (hj : s.ope.job = some j) (hs : j.stage = .abortStop) : s.engineStopDone =
    (s.onOpe (fun e => { e with posValid := false })).endFailed j .cancelled j.cancelDetail true := by
  simp only [State.engineStopDone, hj, hs]

theorem endOrphan_write (hw : j.op.cmd.isWrite = true) : s.endOrphan j =
    ((s.onOpe (fun e => { e with posValid := false })).failWrite j .writeCheckFailed j.n).goIdle := by
  have h := endFailed_write (s.onOpe (fun e => { e with posValid := false })) j true .writeCheckFailed j.n hw
  exact (if_pos hw).trans h

theorem endOrphan_read (hw : j.op.cmd.isWrite = false) :
    s.endOrphan j = (s.passSeen j.n).endFailed j .readCheckFailed j.n true :=
  if_neg (by rw [hw]; exact Bool.false_ne_true)

theorem cancelDetail_write (hw : j.op.cmd.isWrite = true) : j.cancelDetail = j.n := by
  rcases (isWrite_iff _).mp hw with h | h <;> simp only [Job.cancelDetail, h]

/-- A move in reverse, out of the fault ramp. -/
theorem moveTo_reverse (h : s.tsv.order ≠ .faultRamp) (st : Stage) (x : Int) : s.moveTo j st x false =
    { s with
      ope := { s.ope with phase := .move, corrections := 0, job := some { j with stage := st, moveTarget := x } }
      tsv := { s.tsv with
        report := none
        order := .move { target := x, forward := false, speed := classOf (s.tsv.counter - x), latch := false } .engine } } :=
  moveTo_eq j st x false h

end

/-! ## The deck sequencer's stops -/

section
variable {s : State}

theorem deckStopDone_load_failed (h : s.dsq.search = some ⟨.load, .failed⟩) : s.deckStopDone = s.unloadStart false := by
  simp only [State.deckStopDone, h]

theorem deckStopDone_reverse_accepted (h : s.dsq.search = some ⟨.rezeroReverse, .accepted⟩) : s.deckStopDone = s.rezeroForward := by
  simp only [State.deckStopDone, h]

theorem deckStopDone_forward_accepted (h : s.dsq.search = some ⟨.rezeroForward, .accepted⟩) :
    s.deckStopDone = s.readyFromRezero := by
  simp only [State.deckStopDone, h]

theorem deckStopDone_rezero_failed
    (h : s.dsq.search = some ⟨.rezeroReverse, .failed⟩ ∨ s.dsq.search = some ⟨.rezeroForward, .failed⟩) :
    s.deckStopDone = (s.unloadEffects.enterWindOff).addEvents .deckNotReady := by
  rcases h with h | h <;> simp only [State.deckStopDone, h]

/-- What a report taken leaves of the volume is what it would leave of the volume before. -/
theorem clearReport_unloads {u : State} (h : Unloads s.clearReport u) : Unloads s u :=
  h.congr rfl rfl (fun p => by cases p <;> rfl) rfl rfl rfl rfl (fun _ => ⟨rfl, rfl, rfl⟩) ⟨rfl, rfl, rfl⟩

theorem clearReport_unload_pendingEv (p : PortId) (he : s.enabled p = true) :
    (s.clearReport.unloadEffects.port p).pendingEv = (s.port p).pendingEv ||| s.writerBits := by
  have h := unloadEffects_pendingEv s.clearReport (p := p) (by cases p <;> exact he)
  cases p <;> exact h

/-- A load whose search has failed: the unload of R10 without DECK_NOT_READY (R9). -/
theorem loadSearchFailed_leaves : let u := s.clearReport.unloadStart false
    u.dsq.deck = .rewindOut ∧ u.dsq.search = none
      ∧ u.tsv.order = .move { target := -2000, forward := false, speed := classOf (s.tsv.counter + 2000), latch := false } .deck
      ∧ Unloads s u ∧ u.ope.job = s.ope.job ∧ AddsEvents s u 0 := by
  intro u
  have hu : u = _ := unloadStart_false s.clearReport
  have hope : s.clearReport.unloadEffects.enterRewindOut.ope = s.clearReport.unloadEffects.ope := rfl
  rw [hu, enterRewindOut_dsq, enterRewindOut_tsv, unloadEffects_tsv, hope, unloadEffects_ope]
  refine ⟨rfl, rfl, rfl, enterRewindOut_unloads (clearReport_unloads (unloadEffects_unloads _)), rfl,
    addsEvents_of_pendingEv clearReport_unload_pendingEv (fun p _ => ?_)⟩
  rw [enterRewindOut_port]
  exact BitVec.or_zero.symm

theorem enterWindOff_eq (s : State) : s.enterWindOff =
    { s with
      dsq := { s.dsq with deck := .windOff, timer := some .windOff, search := none }
      tsv := { s.tsv.setModes .fixed .zero with windowReport := false } } := rfl

/-- A re-zero that has failed: WIND_OFF at once, with DECK_NOT_READY (R13). -/
theorem rezeroFailed_leaves : let u := (s.clearReport.unloadEffects.enterWindOff).addEvents .deckNotReady
    u.dsq.deck = .windOff ∧ u.dsq.timer = some .windOff ∧ u.dsq.search = none
      ∧ u.tsv.supply.mode = .fixed ∧ u.tsv.takeup.mode = .zero
      ∧ Unloads s u ∧ u.ope.job = s.ope.job ∧ AddsEvents s u EventKind.deckNotReady.bit := by
  have hport : ∀ p, s.clearReport.unloadEffects.enterWindOff.port p = s.clearReport.unloadEffects.port p := fun p => by
    cases p <;> rfl
  have hunl : Unloads s s.clearReport.unloadEffects.enterWindOff :=
    (clearReport_unloads (unloadEffects_unloads s.clearReport)).congr rfl rfl (fun _ => rfl) rfl rfl rfl rfl
      (fun p => by rw [hport]; exact ⟨rfl, rfl, rfl⟩) ⟨rfl, rfl, rfl⟩
  have hope : s.clearReport.unloadEffects.enterWindOff.ope = s.clearReport.unloadEffects.ope := rfl
  dsimp only
  rw [addEvents_dsq, addEvents_tsv, addEvents_ope, hope, unloadEffects_ope]
  refine ⟨rfl, rfl, rfl, rfl, rfl, addEvents_unloads _ hunl, rfl,
    addsEvents_of_pendingEv clearReport_unload_pendingEv (fun p he => ?_)⟩
  have hen : s.clearReport.unloadEffects.enterWindOff.enabled p = true := by
    have h := unloadEffects_enabled s.clearReport p
    cases p
    · rfl
    · exact h.trans he
  rw [addEvents_pendingEv _ _ hen, hport]

/-- READY reached from a re-zero (R12). -/
theorem readyFromRezero_leaves : let u := s.clearReport.readyFromRezero
    u.dsq.deck = .ready ∧ u.dsq.search = none ∧ u.dsq.writeEnable = s.dsq.writeEnable
      ∧ u.ope.deckNext = 0 ∧ u.ope.posValid = true ∧ u.ope.expStart = 3000 ∧ u.bdr = s.bdr ∧ u.bbf = s.bbf
      ∧ u.arb = s.arb ∧ u.tsv.counter = s.tsv.counter ∧ u.tsv.supply.latchOut = false ∧ u.tsv.takeup.latchOut = false
      ∧ ∀ p, (u.port p).next = (s.port p).next ∧ (u.port p).marks = (s.port p).marks
          ∧ (u.port p).queue = (s.port p).queue ∧ (u.port p).status = (s.port p).status
          ∧ (s.enabled p = true → (u.port p).pendingEv = (s.port p).pendingEv ||| EventKind.deckReady.bit) := by
  have hw := enterReady_eq (s.clearReport.onOpe Ope.atLoadPoint)
  have hport : ∀ p, (s.clearReport.onOpe Ope.atLoadPoint).enterReady.port p = s.port p := fun p => by rw [hw]; cases p <;> rfl
  have hen : ∀ p, (s.clearReport.onOpe Ope.atLoadPoint).enterReady.enabled p = s.enabled p := fun p => by rw [hw]; cases p <;> rfl
  unfold State.readyFromRezero
  dsimp only
  rw [addEvents_dsq, addEvents_tsv, addEvents_ope, addEvents_bdr, addEvents_bbf, addEvents_arb]
  refine ⟨?_, ?_, ?_, ?_, ?_, ?_, ?_, ?_, ?_, ?_, ?_, ?_, fun p => ?_⟩
  case refine_13 =>
    rw [addEvents_port, hen, hport]
    split
    · exact ⟨rfl, rfl, rfl, rfl, fun _ => rfl⟩
    · exact ⟨rfl, rfl, rfl, rfl, fun h => absurd h ‹_›⟩
  all_goals rw [hw]; rfl

end

/-! ## The end of the fault ramp -/

section
variable {s : State}

/-- When an entry to FAULTED SOFT clears itself (R75). -/
def State.clearsItself (s : State) : Prop :=
  s.dsq.params.autoClear = true ∧ (s.dsq.faultKind = some .loopOut ∨ s.dsq.faultKind = some .reelSaturation)
    ∧ s.dsq.autoCount < 4 ∧ s.checksPass = true

theorem autoClear_condition (s : State) : (s.dsq.params.autoClear
    && (s.dsq.faultKind = some .loopOut || s.dsq.faultKind = some .reelSaturation)
    && decide (s.dsq.autoCount < Config.maxAutoClear) && s.checksPass) = true ↔ s.clearsItself := by
  unfold State.clearsItself
  simp only [Bool.and_eq_true, Bool.or_eq_true, decide_eq_true_eq, and_assoc]

theorem autoClear_acts (h : s.clearsItself) :
    s.autoClear = (s.onDsq (fun q => { q with autoCount := q.autoCount + 1 })).acceptedClear :=
  if_pos ((autoClear_condition s).mpr h)

theorem autoClear_not (h : ¬ s.clearsItself) : s.autoClear = s := if_neg (mt (autoClear_condition s).mp h)

theorem faultRampZero_eq (hr : s.inReset = false) (h : s.tsv.report = some .rampZero) (hd : s.dsq.deck = .faultStop) :
    Settles .faultRampZero s (s.clearReport.enterDeck .faultedSoft).autoClear := by
  rw [Settles, exec, execFaultRampZero, taken_running _ hr, h]
  exact congrArg _ (if_pos hd)

end

/-- Settles O20: the engine's stop by its stage, the deck sequencer's by its search, and the ramp's end. -/
theorem stopAndRampCompletions : Obligations.StopAndRampCompletions := by
  intro s hr taken noErase
  have htaken : s.clearReport = taken := rfl
  refine ⟨fun hrep => ⟨fun hj hw hp => ?_, fun j hj hw hp => ?_, fun j hj hramp => ?_⟩, fun hrep => ⟨fun hs => ?_, fun hs => ?_,
    fun hs => ?_, fun hs => ?_⟩, fun hrep hd => ?_, fun hrep => ⟨?_, ?_⟩⟩
  · have hset := exec_stopCompletion_engine hr hrep
    rw [engineStopDone_idle (s := s.clearReport) hj hw hp] at hset
    exact hset
  · intro begins detail
    have hset := exec_stopCompletion_engine hr hrep
    rw [engineStopDone_waiting (s := s.clearReport) hj hw hp] at hset
    have hdetail : j.cancelDetail = detail := rfl
    dsimp only at hset
    rw [hdetail] at hset
    refine ⟨fun ha => ?_, fun ha hwr => ?_, fun ha hwr => ?_⟩
    · rw [if_neg (by rw [ha]; exact Bool.false_ne_true)] at hset
      exact hset
    · rw [if_pos ha, endFailed_write _ _ _ _ _ hwr] at hset
      exact hset
    · rw [if_pos ha] at hset
      obtain ⟨hope, htsv, -, -, -, -, -, -, hown⟩ := failedEnd_parts (t := begins) (j := j) hwr (c := .cancelled) (by decide) detail
      refine ⟨_, hset, congrArg Ope.job hope, congrArg Ope.phase hope, htsv, fun p hact ho => ?_⟩
      have h := hown p hact ho
      cases p <;> exact h
  · have hset := exec_stopCompletion_engine hr hrep
    intro moves
    refine ⟨fun hs ho => ?_, fun b hs => ?_, fun hs ho hw => ?_, fun hs ho hw => ?_, fun hs hw => ?_, fun hs hw => ?_⟩
    · rw [engineStopDone_retry (s := s.clearReport) hj hs, if_neg (by rw [ho]; exact Bool.false_ne_true),
        moveTo_reverse (s := s.clearReport.lowerErase) hramp] at hset
      exact hset
    · rw [engineStopDone_blank (s := s.clearReport) hj hs, moveTo_reverse (s := s.clearReport) hramp] at hset
      exact hset
    · rw [engineStopDone_retry (s := s.clearReport) hj hs, if_pos ho, endOrphan_write hw] at hset
      exact hset
    · rw [engineStopDone_retry (s := s.clearReport) hj hs, if_pos ho, endOrphan_read hw] at hset
      obtain ⟨hope, htsv, -, hbdr, -, -, hnone, -, -⟩ := failedEnd_parts (t := s.clearReport.lowerErase.passSeen j.n) (j := j) hw
        (c := .readCheckFailed) (by decide) j.n
      have hport := hnone (port_of_orphan ho)
      exact ⟨_, hset, congrArg Ope.job hope, congrArg Ope.phase hope, congrArg Ope.deckNext hope, hbdr, htsv, hport .a, hport .b⟩
    · rw [engineStopDone_abort (s := s.clearReport) hj hs, cancelDetail_eq hw] at hset
      obtain ⟨hope, htsv, -, hbdr, -, -, -, hnext, hown⟩ := failedEnd_parts
        (t := s.clearReport.onOpe (fun e => { e with posValid := false })) (j := j) hw (c := .cancelled) (by decide)
        (if j.op.cmd = .space then j.op.count - j.crossed else 0)
      refine ⟨_, hset, congrArg Ope.job hope, congrArg Ope.phase hope, congrArg Ope.posValid hope, by rw [hope]; rfl, htsv,
        hbdr, fun p => (hnext p).trans (by cases p <;> rfl), fun p hact ho => ?_⟩
      have h := hown p hact ho
      cases p <;> exact h
    · rw [engineStopDone_abort (s := s.clearReport) hj hs, cancelDetail_write hw, endFailed_write _ _ _ _ _ hw] at hset
      exact hset
  · have hset := exec_stopCompletion_deck hr hrep
    rw [deckStopDone_reverse_accepted (s := s.clearReport) hs] at hset
    exact hset
  · have hset := exec_stopCompletion_deck hr hrep
    rw [deckStopDone_forward_accepted (s := s.clearReport) hs] at hset
    exact ⟨_, hset, readyFromRezero_leaves⟩
  · have hset := exec_stopCompletion_deck hr hrep
    rw [deckStopDone_load_failed (s := s.clearReport) hs] at hset
    exact ⟨_, hset, loadSearchFailed_leaves⟩
  · have hset := exec_stopCompletion_deck hr hrep
    rw [deckStopDone_rezero_failed (s := s.clearReport) hs] at hset
    exact ⟨_, hset, rezeroFailed_leaves⟩
  · intro auto
    have hset := faultRampZero_eq hr hrep hd
    have hauto : (s.clearReport.enterDeck .faultedSoft).clearsItself ↔ auto := by
      unfold State.clearsItself
      rw [checksPass_eq_true_iff]
      simp only [not_or, Nat.not_lt]
      exact Iff.rfl
    refine ⟨fun h => ?_, fun h => ?_⟩
    · rw [autoClear_not (mt hauto.mp h)] at hset
      exact hset
    · rw [autoClear_acts (hauto.mpr h)] at hset
      refine ⟨_, hset, acceptedClear_resumes _, fun p => ?_⟩
      rw [acceptedClear_port]
      cases p <;> exact ⟨rfl, rfl, rfl, rfl⟩
  · rw [Becomes, exec, execStopCompletion, taken_running _ hr, hrep]
  · rw [Becomes, exec, execFaultRampZero, taken_running _ hr, hrep]

end Sys2Proof.Machine

/-! PROOF. The fault stop: the operations it ends, and the volume it rolls back (R62 to R65, R133, R161, R163). -/

namespace Sys2Proof.Machine

/-! ## The operations ended -/

/-- A port whose motion operations have left its queue, each that owes a record completed FAULT_ABORTED (R64). -/
def Port.losesMotion (q : Port) : Port :=
  { q with
    queue := q.queue.filter (fun o => !o.cmd.isMotion)
    status := q.status ++ owedRecs .faultAborted (fun _ => 0) (q.queue.filter (fun o => o.cmd.isMotion)) }

theorem losesMotion_recordCount (q : Port) : q.losesMotion.recordCount = q.recordCount := by
  have hsplit : q.queue.countP Op.owed = (q.queue.filter (fun o => o.cmd.isMotion)).countP Op.owed
      + (q.queue.filter (fun o => !o.cmd.isMotion)).countP Op.owed := by
    induction q.queue with
    | nil => rfl
    | cons o l ih => cases h : o.cmd.isMotion <;> simp [List.countP_cons, h, ih] <;> omega
  simp only [Port.recordCount, Port.losesMotion, owedRecs, List.length_append, List.length_map, ← List.countP_eq_length_filter]
  omega

/-- The fault stop before the volume is rolled back. -/
def State.stopEnds (k : FaultKind) (s : State) : State :=
  let t := s.onDsq (fun q => { q.enter .faultStop with
    faultKind := some k, escKind := none, resume := some q.deck, timer := none, search := none })
  let t := (t.onTsv Tsv.orderFaultRamp).engineNotice
  (((t.freeJob s.ope.job).freeJob s.ope.waiting).removeMotion .a).removeMotion .b

/-- The volume rolled back by a fault stop. -/
def State.stopRolls (a b : List Op) (job waiting : Option Job) (s : State) : State :=
  (((s.orphanRollback job).orphanRollback waiting).faultRollback .a a).faultRollback .b b

theorem beginFaultStop_eq (k : FaultKind) (s : State) : s.beginFaultStop k =
    ((s.stopEnds k).stopRolls (writesOf s.portA.queue) (writesOf s.portB.queue) s.ope.job s.ope.waiting).addEvents
      .faultStopBegun := rfl

section
variable (s : State) (k : FaultKind) (j : Option Job) (p q : PortId)

theorem freeJob_blocks : (s.freeJob j).ope = s.ope ∧ (s.freeJob j).arb = s.arb ∧ (s.freeJob j).bdr = s.bdr
    ∧ ∀ q, (s.freeJob j).port q = s.port q := by
  cases j with
  | none => exact ⟨rfl, rfl, rfl, fun _ => rfl⟩
  | some j => exact ⟨rfl, rfl, rfl, fun q => State.onBbf_port _ s q⟩

theorem freeJob_slot (i : Nat) : (s.freeJob j).bbf.slot i =
    if ∃ x, j = some x ∧ x.op.slot = some i then Slot.freed else s.bbf.slot i := by
  cases j with
  | none => simp [State.freeJob]
  | some j => simpa [State.freeJob] using slot_freeOpt j.op.slot i s.bbf

theorem removeMotion_blocks : (s.removeMotion p).ope = s.ope ∧ (s.removeMotion p).arb = s.arb
    ∧ (s.removeMotion p).bdr = s.bdr := by
  simp [State.removeMotion, freeSlots_bdr]

theorem removeMotion_port : (s.removeMotion p).port q = if q = p then (s.port q).losesMotion else s.port q := by
  simp only [State.removeMotion, State.onPort_port_eq, freeSlots_port]
  by_cases h : q = p
  · rw [if_pos h, if_pos h, h]
    rfl
  · rw [if_neg h, if_neg h]

theorem removeMotion_slot (i : Nat) : (s.removeMotion p).bbf.slot i =
    if ∃ o ∈ (s.port p).queue.filter (fun (o : Op) => o.cmd.isMotion), o.slot = some i then Slot.freed else s.bbf.slot i := by
  simp only [State.removeMotion, State.onPort_bbf, freeSlots_slot]

theorem stopEnds_blocks : (s.stopEnds k).ope = s.ope.noticed ∧ (s.stopEnds k).arb = s.arb.dropPermit
    ∧ (s.stopEnds k).bdr = s.bdr := by
  simp only [State.stopEnds, removeMotion_blocks, freeJob_blocks]
  exact ⟨rfl, rfl, rfl⟩

theorem stopEnds_port : (s.stopEnds k).port q = (s.port q).losesMotion := by
  simp only [State.stopEnds, removeMotion_port, freeJob_blocks]
  cases q <;> rfl

theorem stopEnds_enabled : (s.stopEnds k).enabled q = s.enabled q := by
  cases q
  · rfl
  · show (s.stopEnds k).dsq.portbEn = _
    simp [State.stopEnds, Dsq.enter, State.enabled]

/-- The slots of the operations that a fault stop ends. -/
theorem stopEnds_slot {i : Nat} (h : (∃ q, ∃ o ∈ (s.port q).queue, o.cmd.isMotion = true ∧ o.slot = some i)
    ∨ ∃ x, (s.ope.job = some x ∨ s.ope.waiting = some x) ∧ x.op.slot = some i) : (s.stopEnds k).bbf.slot i = Slot.freed := by
  simp only [State.stopEnds, removeMotion_slot, freeJob_slot, removeMotion_port, freeJob_blocks, reduceCtorEq, if_false]
  split
  · rfl
  next hb =>
  split
  · rfl
  next ha =>
  split
  · rfl
  next hw =>
  split
  · rfl
  next hj =>
  exfalso
  rcases h with ⟨q, o, ho, hm, hi⟩ | ⟨x, hx | hx, hi⟩
  · cases q
    · exact ha ⟨o, List.mem_filter.mpr ⟨ho, hm⟩, hi⟩
    · exact hb ⟨o, List.mem_filter.mpr ⟨ho, hm⟩, hi⟩
  · exact hj ⟨x, hx, hi⟩
  · exact hw ⟨x, hx, hi⟩

end

/-! ## The volume rolled back -/

/-- Every block stands but the directory and, of the ports, what a rollback moves. -/
structure RollsOnly (s t : State) : Prop where
  dsq : t.dsq = s.dsq
  tsv : t.tsv = s.tsv
  ope : t.ope = s.ope
  arb : t.arb = s.arb
  bbf : t.bbf = s.bbf
  queue : ∀ q, (t.port q).queue = (s.port q).queue
  status : ∀ q, (t.port q).status = (s.port q).status

theorem RollsOnly.refl (s : State) : RollsOnly s s := ⟨rfl, rfl, rfl, rfl, rfl, fun _ => rfl, fun _ => rfl⟩

theorem RollsOnly.trans {s t u : State} (h : RollsOnly s t) (h' : RollsOnly t u) : RollsOnly s u :=
  ⟨h'.dsq.trans h.dsq, h'.tsv.trans h.tsv, h'.ope.trans h.ope, h'.arb.trans h.arb, h'.bbf.trans h.bbf,
    fun q => (h'.queue q).trans (h.queue q), fun q => (h'.status q).trans (h.status q)⟩

section
variable (s : State) (j : Option Job) (p : PortId) (l : List Op)

theorem orphanRollback_rollsOnly : RollsOnly s (s.orphanRollback j) := by
  cases j with
  | none => exact .refl s
  | some j =>
    unfold State.orphanRollback
    dsimp only
    split
    · obtain ⟨hdsq, htsv, hope, harb, hbbf, -⟩ := rollbackOrphan_blocks j.n s
      exact ⟨hdsq, htsv, hope, harb, hbbf, fun q => by rw [rollbackOrphan_port]; rfl, fun q => by rw [rollbackOrphan_port]; rfl⟩
    · exact .refl s

theorem faultRollback_rollsOnly : RollsOnly s (s.faultRollback p l) := by
  unfold State.faultRollback
  split
  case h_2 => exact .refl s
  case h_1 f _ =>
    obtain ⟨hdsq, htsv, hope, harb, hbbf, -⟩ := rollback_blocks s p f 0 (lowestGiven l)
    refine ⟨hdsq, htsv, hope, harb, hbbf, fun q => ?_, fun q => ?_⟩ <;>
      rcases PortId.eq_or_other p q with rfl | rfl
    all_goals first | rw [rollback_own]; rfl | rw [rollback_other _ _ _ _ _ (PortId.other_ne _)]; rfl

theorem stopRolls_rollsOnly (a b : List Op) (job waiting : Option Job) : RollsOnly s (s.stopRolls a b job waiting) :=
  (orphanRollback_rollsOnly s job).trans ((orphanRollback_rollsOnly _ waiting).trans
    ((faultRollback_rollsOnly _ .a a).trans (faultRollback_rollsOnly _ .b b)))

theorem orphanRollback_stands (h : ∀ x, j = some x → x.orphan = true → x.op.cmd.isWrite = false) : s.orphanRollback j = s := by
  cases j with
  | none => rfl
  | some j =>
    refine if_neg ?_
    rw [Bool.and_eq_true]
    rintro ⟨ho, hw⟩
    rw [h j rfl ho] at hw
    exact Bool.false_ne_true hw

theorem orphanRollback_write {x : Job} (ho : x.orphan = true) (hw : x.op.cmd.isWrite = true) :
    s.orphanRollback (some x) = s.rollbackOrphan x.n := if_pos (by rw [ho, hw]; rfl)

theorem faultRollback_some {f : Nat} (h : lowestBlock l = some f) :
    s.faultRollback p l = (s.rollbackTo p f 0).deferOpt p (lowestGiven l) := by
  simp only [State.faultRollback, h]

end


section
variable (s : State) (job waiting : Option Job)

theorem orphanRollbacks_stand
    (h : ¬ ∃ j, (job = some j ∨ waiting = some j) ∧ j.orphan = true ∧ j.op.cmd.isWrite = true) :
    (s.orphanRollback job).orphanRollback waiting = s := by
  rw [orphanRollback_stands s job, orphanRollback_stands s waiting]
  · exact fun x hx ho => Bool.eq_false_iff.mpr fun hw => h ⟨x, .inr hx, ho, hw⟩
  · exact fun x hx ho => Bool.eq_false_iff.mpr fun hw => h ⟨x, .inl hx, ho, hw⟩

theorem orphanRollbacks_one {j : Job} (h : (job = some j ∧ waiting = none) ∨ (job = none ∧ waiting = some j))
    (ho : j.orphan = true) (hw : j.op.cmd.isWrite = true) :
    (s.orphanRollback job).orphanRollback waiting = s.rollbackOrphan j.n := by
  rcases h with ⟨rfl, rfl⟩ | ⟨rfl, rfl⟩ <;> exact orphanRollback_write s ho hw

/-- Writes lost at one port alone. -/
theorem faultRollbacks_one (l : PortId → List Op) {p : PortId} (h : l p.other = []) :
    (s.faultRollback .a (l .a)).faultRollback .b (l .b) = s.faultRollback p (l p) := by
  cases p
  · rw [show l .b = [] from h]
    rfl
  · rw [show l .a = [] from h]
    rfl

end

/-- What the events of a stop leave of a port. -/
theorem addEvents_parts (s : State) (k : EventKind) (q : PortId) : ((s.addEvents k).port q).next = (s.port q).next
    ∧ ((s.addEvents k).port q).marks = (s.port q).marks ∧ ((s.addEvents k).port q).queue = (s.port q).queue
    ∧ ((s.addEvents k).port q).status = (s.port q).status ∧ ((s.addEvents k).port q).deferred = (s.port q).deferred
    ∧ ((s.addEvents k).port q).pendingEv = (s.port q).pendingEv ||| (if s.enabled q = true then k.bit else 0) := by
  rw [addEvents_port]
  split
  · exact ⟨rfl, rfl, rfl, rfl, rfl, rfl⟩
  · exact ⟨rfl, rfl, rfl, rfl, rfl, BitVec.or_zero.symm⟩

/-- Settles O29: the operations ended, then the volume by the writes lost, then the events. -/
theorem faultStopEndsEveryOperation : Obligations.FaultStopEndsEveryOperation := by
  intro s x hr hx hdeck writes lowest given orphaned begun clamped
  refine ⟨_, faultReport_begins_fault_stop hr hx ((faultStops_iff _).mpr hdeck), ?_⟩
  have hdsq := beginFaultStop_dsq x.kind (s.dropReport x)
  obtain ⟨hope, harb, hbdr⟩ := stopEnds_blocks (s.dropReport x) x.kind
  have hport : ∀ q, ((s.dropReport x).stopEnds x.kind).port q = (s.port q).losesMotion := stopEnds_port (s.dropReport x) x.kind
  have hen : ∀ q, ((s.dropReport x).stopEnds x.kind).enabled q = s.enabled q := stopEnds_enabled (s.dropReport x) x.kind
  have hslot := fun i => stopEnds_slot (s.dropReport x) x.kind (i := i)
  rw [beginFaultStop_eq] at hdsq ⊢
  have hwrites : ∀ p, writesOf ((s.dropReport x).port p).queue = writes p := fun p => by cases p <;> rfl
  have hjob : (s.dropReport x).ope = s.ope := rfl
  rw [show writesOf (s.dropReport x).portA.queue = writes .a from rfl, show writesOf (s.dropReport x).portB.queue = writes .b from rfl,
    hjob] at hdsq ⊢
  rw [hjob] at hope
  have hbdr : ((s.dropReport x).stopEnds x.kind).bdr = s.bdr := hbdr
  have harb : ((s.dropReport x).stopEnds x.kind).arb = s.arb.dropPermit := harb
  generalize (s.dropReport x).stopEnds x.kind = w at *
  have hroll := stopRolls_rollsOnly w (writes .a) (writes .b) s.ope.job s.ope.waiting
  have hstand : ¬ orphaned → w.stopRolls (writes .a) (writes .b) s.ope.job s.ope.waiting =
      (w.faultRollback .a (writes .a)).faultRollback .b (writes .b) := fun h => by
    unfold State.stopRolls
    rw [orphanRollbacks_stand w _ _ h]
  have hnil : (∀ p, writes p = []) → ∀ t : State, (t.faultRollback .a (writes .a)).faultRollback .b (writes .b) = t := fun h t => by
    rw [h, h]
    rfl
  have horphan : ∀ j, (s.ope.job = some j ∧ s.ope.waiting = none) ∨ (s.ope.job = none ∧ s.ope.waiting = some j) →
      j.orphan = true → j.op.cmd.isWrite = true → (∀ p, writes p = []) →
      w.stopRolls (writes .a) (writes .b) s.ope.job s.ope.waiting = w.rollbackOrphan j.n := fun j hj ho hwr hno => by
    unfold State.stopRolls
    rw [hnil hno, orphanRollbacks_one w _ _ hj ho hwr]
  have hlost : ∀ p, ¬ orphaned → writes p.other = [] →
      w.stopRolls (writes .a) (writes .b) s.ope.job s.ope.waiting = w.faultRollback p (writes p) := fun p h hno =>
    (hstand h).trans (faultRollbacks_one w writes hno)
  generalize hv : w.stopRolls (writes .a) (writes .b) s.ope.job s.ope.waiting = v at *
  have hparts := addEvents_parts v .faultStopBegun
  have hven : ∀ q, v.enabled q = s.enabled q := fun q => (enabled_of_dsq hroll.dsq q).trans (hen q)
  have hvope : v.ope = s.ope.noticed := hroll.ope.trans hope
  have hvarb : v.arb = s.arb.dropPermit := hroll.arb.trans harb
  rw [addEvents_ope, addEvents_arb, addEvents_bdr, addEvents_bbf, hdsq, hvope, hvarb]
  refine ⟨rfl, rfl, rfl, rfl, rfl, rfl, rfl, rfl, rfl, rfl, rfl, rfl, rfl, rfl, rfl, rfl, rfl, fun p => ?_, fun j i hj hi _ => ?_,
    fun ho hno => ?_, fun j hj ho hwr hno => ?_, fun p f ho hf hno => ?_⟩
  · obtain ⟨-, -, hqueue, hstatus, -, -⟩ := hparts p
    have hq := (hqueue.trans (hroll.queue p)).trans (congrArg Port.queue (hport p))
    have hst := (hstatus.trans (hroll.status p)).trans (congrArg Port.status (hport p))
    refine ⟨hq, ?_, hst, fun o ho hm i hi _ => ?_⟩
    · refine Eq.trans ?_ (losesMotion_recordCount (s.port p))
      unfold Port.recordCount
      rw [hq, hst]
    · rw [hroll.bbf]
      exact hslot i (.inl ⟨p, o, ho, hm, hi⟩)
  · rw [hroll.bbf]
    exact hslot i (.inr ⟨j, hj, hi⟩)
  · have hv := (hstand ho).trans (hnil hno w)
    rw [hv] at hparts hven ⊢
    refine ⟨hbdr, fun p => ?_⟩
    obtain ⟨hnext, hmarks, -, -, hdef, hev⟩ := hparts p
    rw [hnext, hmarks, hdef, hev, hport, hen]
    exact ⟨rfl, rfl, rfl, rfl⟩
  · have hv := (horphan j hj ho hwr hno).symm
    obtain ⟨-, -, -, -, -, hd⟩ := rollbackOrphan_blocks j.n w
    rw [hv, hbdr] at hd
    rw [hd]
    refine ⟨lowerEod_eq s.bdr j.n, fun q => ?_⟩
    obtain ⟨hnext, hmarks, -, -, hdef, hev⟩ := hparts q
    have hvq := rollbackOrphan_port j.n w q
    rw [hv, hport, hbdr, hen] at hvq
    rw [hnext, hmarks, hdef, hev, hvq, hven, boundTo_pendingEv]
    exact ⟨rfl, rfl, rfl, rfl⟩
  · have hv := ((hlost p ho hno).trans (faultRollback_some w p _ hf)).symm
    obtain ⟨-, -, -, -, -, hd⟩ := rollback_blocks w p f 0 (lowestGiven (writes p))
    have hown := rollback_own w p f 0 (lowestGiven (writes p))
    have hother := rollback_other w p f 0 (lowestGiven (writes p)) (PortId.other_ne p)
    rw [hv, hbdr] at hd
    rw [hv, hbdr, hport, hen] at hown hother
    obtain ⟨hnext, hmarks, -, -, hnone, hsome, hev⟩ := boundDefers_parts (s.bdr.lowerEod f) (s.enabled p)
      (s.port p).losesMotion (f - 0) (lowestGiven (writes p))
    have hev' := boundTo_pendingEv (s.bdr.lowerEod f) (s.enabled p.other) (s.port p.other).losesMotion
    rw [← hown] at hnext hmarks hnone hsome hev
    rw [← hother] at hev'
    obtain ⟨hn, hm, -, -, hde, he⟩ := hparts p
    obtain ⟨hn', hm', -, -, hde', he'⟩ := hparts p.other
    rw [hn, hn', hde, hde', he, he', hven, hven, hd]
    refine ⟨lowerEod_eq s.bdr f, hnext, by rw [hother]; rfl, fun q => ?_, hnone, hsome, by rw [hother]; rfl, by rw [hev]; rfl,
      by rw [hev']; rfl⟩
    rcases PortId.eq_or_other p q with rfl | rfl
    · exact hm.trans hmarks
    · rw [hm', hother]
      rfl

end Sys2Proof.Machine

/-! PROOF. PORT RESET, link loss and the return of the link (R93, R133, R161, R165, R166). -/

namespace Sys2Proof.Machine

/-! ## The pins of a port's records -/

/-- The pins on a slot that a list of records holds. -/
def pinsOn (i : Nat) (l : List Rec) : Nat :=
  l.countP (fun r => match r.payload with | .pinned k _ => decide (k = i) | _ => false)

/-- A slot that has given back `n` pins (R89). -/
def Slot.unpins (n : Nat) (x : Slot) : Slot :=
  if x.block = none ∧ n = x.pins ∧ 0 < n then Slot.freed else { x with pins := x.pins - n }

theorem unpins_zero (x : Slot) : x.unpins 0 = x := if_neg (fun h => Nat.lt_irrefl 0 h.2.2)

theorem slot_unpin_ne {i k : Nat} (b : Bbf) (h : k ≠ i) : (b.unpin k).slot i = b.slot i := by
  unfold Bbf.unpin
  dsimp only
  split
  · exact slot_free_ne b h
  · simp [Bbf.slot, List.getD_eq_getElem?_getD, List.getElem?_set_ne h]

theorem slot_unpin_self {i : Nat} (b : Bbf) (hi : i < b.slots.length) (hp : 0 < (b.slot i).pins) :
    (b.unpin i).slot i = (b.slot i).unpins 1 := by
  unfold Bbf.unpin Slot.unpins
  dsimp only
  by_cases h : (b.slot i).pins ≤ 1 ∧ (b.slot i).block = none
  · rw [if_pos h, if_pos ⟨h.2, by omega, Nat.one_pos⟩, slot_free_self]
  · rw [if_neg h, if_neg (fun h' => h ⟨by omega, h'.1⟩)]
    simp [Bbf.slot, List.getD_eq_getElem?_getD, hi]

theorem unpins_unpins {n : Nat} (x : Slot) (h : n + 1 ≤ x.pins) : (x.unpins 1).unpins n = x.unpins (n + 1) := by
  unfold Slot.unpins
  by_cases hb : x.block = none
  · by_cases h1 : x.pins = 1
    · have hn : n = 0 := by omega
      subst hn
      simp [hb, h1, Slot.freed]
    · simp only [hb, true_and, show ¬ 1 = x.pins from fun h => h1 h.symm, false_and, if_false]
      refine if_congr (by omega) rfl ?_
      rw [Nat.sub_sub, Nat.add_comm]
  · simp only [hb, false_and, if_false]
    rw [Nat.sub_sub, Nat.add_comm]

theorem unpin_length (i : Nat) (b : Bbf) : (b.unpin i).slots.length = b.slots.length := by
  unfold Bbf.unpin
  dsimp only
  split <;> simp [Bbf.free, Bbf.take]

/-- Records discarded give back their pins, slot by slot. -/
theorem releaseAll_slot (l : List Rec) (b : Bbf) {i : Nat} (hi : i < b.slots.length) (hp : pinsOn i l ≤ (b.slot i).pins) :
    (l.foldl (fun b r => b.releaseDiscarded r.payload) b).slot i = (b.slot i).unpins (pinsOn i l) := by
  induction l generalizing b with
  | nil => exact (unpins_zero _).symm
  | cons r l ih =>
    rw [List.foldl_cons]
    have hcount : pinsOn i (r :: l) = pinsOn i l + if (match r.payload with | .pinned k _ => decide (k = i) | _ => false) then 1 else 0 :=
      List.countP_cons
    cases hr : r.payload with
    | bytes x =>
      rw [hr] at hcount
      rw [show pinsOn i (r :: l) = pinsOn i l from hcount] at hp ⊢
      exact ih b hi hp
    | delivering k x =>
      rw [hr] at hcount
      rw [show pinsOn i (r :: l) = pinsOn i l from hcount] at hp ⊢
      exact ih b hi hp
    | pinned k x =>
      rw [hr] at hcount
      by_cases hk : k = i
      · subst hk
        rw [show pinsOn k (r :: l) = pinsOn k l + 1 from hcount.trans (by simp)] at hp ⊢
        have hself := slot_unpin_self b hi (by omega)
        rw [← unpins_unpins _ hp, ← hself]
        refine ih (b.unpin k) (by rwa [unpin_length]) ?_
        rw [hself]
        unfold Slot.unpins
        split
        next h => simp only [Slot.freed]; omega
        next h => dsimp only; omega
      · rw [show pinsOn i (r :: l) = pinsOn i l from hcount.trans (by simp [hk])] at hp ⊢
        rw [← slot_unpin_ne b hk] at hp ⊢
        exact ih (b.unpin k) (by rwa [unpin_length]) hp


/-! ## The reset of a port -/

/-- The buffer after a port's records and slots are given back (R89, R93). -/
def Bbf.givenBack (p : PortId) (l : List Rec) (b : Bbf) : Bbf :=
  (l.foldl (fun b r => b.releaseDiscarded r.payload) b).mapSlots (Slot.portReset p)

theorem givenBack_slot (p : PortId) (l : List Rec) (b : Bbf) {i : Nat} (hi : i < b.slots.length)
    (hp : pinsOn i l ≤ (b.slot i).pins) : (b.givenBack p l).slot i = ((b.slot i).unpins (pinsOn i l)).portReset p := by
  rw [Bbf.givenBack, slot_mapSlots _ _ _ rfl, releaseAll_slot l b hi hp]

theorem portReset_other {p : PortId} {x : Slot} (h : x.owner ≠ some p) : x.portReset p = x := if_neg h

theorem portReset_frees {p : PortId} {x : Slot} (h : x.owner = some p) (hs : x.state ∈ [.filling, .pending, .delivering]) :
    x.portReset p = Slot.freed := by
  refine (if_pos h).trans ?_
  cases hx : x.state <;> simp_all

theorem portReset_reading {p : PortId} {x : Slot} (h : x.owner = some p) (hs : x.state = .reading) :
    x.portReset p = { x with discard := true } := by
  refine (if_pos h).trans ?_
  rw [hs]

theorem portReset_writing {p : PortId} {x : Slot} (h : x.owner = some p) (hs : x.state = .writing) : x.portReset p = x := by
  refine (if_pos h).trans ?_
  rw [hs]

theorem unpins_owner {x : Slot} (n : Nat) {p : PortId} (h : x.owner ≠ some p) : (x.unpins n).owner ≠ some p := by
  unfold Slot.unpins
  split
  · simp [Slot.freed]
  · exact h

/-- The lowest write queued at the port and not granted. -/
def State.lostAt (p : PortId) (s : State) : Option Nat :=
  lowestBlock (writesOf ((s.port p).queue.filter (fun o => !o.granted)))

/-- The engine with the operations of a port orphaned (R133). -/
def Ope.orphanAt (p : PortId) (e : Ope) : Ope :=
  { e with job := e.job.map (Job.orphanAt p), waiting := e.waiting.map (Job.orphanAt p) }

section
variable (s : State) (p : PortId)

theorem dropQueued_none (h : s.lostAt p = none) : s.dropQueued p = s := by
  unfold State.lostAt at h
  simp only [State.dropQueued, h]

theorem dropQueued_some {f : Nat} (h : s.lostAt p = some f) : s.dropQueued p = s.rollbackOrphan f := by
  unfold State.lostAt at h
  simp only [State.dropQueued, h]

/-- The directory after the queued writes of a port are dropped (R165). -/
def Bdr.drops (f : Option Nat) (d : Bdr) : Bdr := f.elim d d.lowerEod

/-- A port bound after the queued writes of a port are dropped (R161, R165). -/
def Port.dropBound (f : Option Nat) (d : Bdr) (b : Bool) (q : Port) : Port := f.elim q (fun f => q.boundTo (d.lowerEod f) b)

theorem dropQueued_blocks : (s.dropQueued p).dsq = s.dsq ∧ (s.dropQueued p).tsv = s.tsv ∧ (s.dropQueued p).ope = s.ope
    ∧ (s.dropQueued p).arb = s.arb ∧ (s.dropQueued p).bbf = s.bbf ∧ (s.dropQueued p).bdr = s.bdr.drops (s.lostAt p)
    ∧ ∀ q, (s.dropQueued p).port q = (s.port q).dropBound (s.lostAt p) s.bdr (s.enabled q) := by
  cases h : s.lostAt p with
  | none =>
    rw [dropQueued_none s p h]
    exact ⟨rfl, rfl, rfl, rfl, rfl, rfl, fun _ => rfl⟩
  | some f =>
    obtain ⟨hdsq, htsv, hope, harb, hbbf, hbdr⟩ := rollbackOrphan_blocks f s
    rw [dropQueued_some s p h]
    exact ⟨hdsq, htsv, hope, harb, hbbf, hbdr, fun q => rollbackOrphan_port f s q⟩

/-- The writer assignment and the permit after a port's reset. -/
def Arb.resetAt (p : PortId) (r : Arb) : Arb :=
  (if r.writer = some p then r.setWriter none else r).releasePermit p

theorem releasePermit_writer (r : Arb) : (r.releasePermit p).writer = r.writer := by
  unfold Arb.releasePermit
  split <;> rfl

theorem releasePermit_holder (r : Arb) : (r.releasePermit p).holder = if r.holder = some p then none else r.holder := by
  unfold Arb.releasePermit
  split <;> rfl

theorem resetAt_writer (r : Arb) : (r.resetAt p).writer = if r.writer = some p then none else r.writer := by
  unfold Arb.resetAt
  rw [releasePermit_writer]
  split <;> rfl

theorem resetAt_holder (r : Arb) : (r.resetAt p).holder = if r.holder = some p then none else r.holder := by
  unfold Arb.resetAt
  rw [releasePermit_holder]
  split <;> rfl

theorem releaseWriterAt_blocks : (s.releaseWriterAt p).dsq = s.dsq ∧ (s.releaseWriterAt p).tsv = s.tsv
    ∧ (s.releaseWriterAt p).ope = s.ope
    ∧ (s.releaseWriterAt p).arb = (if s.arb.writer = some p then s.arb.setWriter none else s.arb)
    ∧ (s.releaseWriterAt p).bbf = s.bbf ∧ (s.releaseWriterAt p).bdr = s.bdr
    ∧ ∀ q, (s.releaseWriterAt p).port q = (s.port q).raise
        (if s.arb.writer = some p ∧ q = p.other ∧ s.enabled p.other = true then EventKind.writerChanged.bit else 0) := by
  unfold State.releaseWriterAt
  by_cases h : s.arb.writer = some p
  · simp only [h, if_true, true_and]
    refine ⟨by simp, by simp, by simp, by simp, by simp, by simp, fun q => ?_⟩
    rw [addEvent_port, State.onArb_port]
    have he : (s.onArb (Arb.setWriter none)).enabled p.other = s.enabled p.other := enabled_of_dsq rfl _
    rw [he]
    split
    · rfl
    · exact (raise_zero _).symm
  · rw [if_neg h, if_neg h]
    refine ⟨rfl, rfl, rfl, rfl, rfl, rfl, fun q => ?_⟩
    rw [if_neg (fun hx => h hx.1), raise_zero]

theorem resetPort_blocks : (s.resetPort p).dsq = s.dsq ∧ (s.resetPort p).tsv = s.tsv
    ∧ (s.resetPort p).ope = s.ope.orphanAt p ∧ (s.resetPort p).arb = s.arb.resetAt p
    ∧ (s.resetPort p).bbf = s.bbf.givenBack p (s.port p).status ∧ (s.resetPort p).bdr = s.bdr.drops (s.lostAt p) := by
  obtain ⟨hdsq, htsv, hope, harb, hbbf, hbdr, -⟩ := releaseWriterAt_blocks (((s.giveBack p).orphanJobs p).dropQueued p) p
  obtain ⟨hdsq', htsv', hope', harb', hbbf', hbdr', -⟩ := dropQueued_blocks ((s.giveBack p).orphanJobs p) p
  have hlost : ((s.giveBack p).orphanJobs p).lostAt p = s.lostAt p := by cases p <;> rfl
  simp only [State.resetPort, State.onPort_dsq, State.onPort_tsv, State.onPort_ope, State.onPort_arb, State.onPort_bbf,
    State.onPort_bdr, State.onArb_dsq, State.onArb_tsv, State.onArb_ope, State.onArb_arb, State.onArb_bbf, State.onArb_bdr]
  rw [hdsq, htsv, hope, harb, hbbf, hbdr, hdsq', htsv', hope', harb', hbbf', hbdr', hlost]
  exact ⟨rfl, rfl, rfl, rfl, rfl, rfl⟩

theorem resetPort_own : (s.resetPort p).port p = (s.port p).resetContext := by
  obtain ⟨-, -, -, -, -, -, hport⟩ := releaseWriterAt_blocks (((s.giveBack p).orphanJobs p).dropQueued p) p
  obtain ⟨-, -, -, -, -, -, hport'⟩ := dropQueued_blocks ((s.giveBack p).orphanJobs p) p
  rw [State.resetPort, State.onPort_port, State.onArb_port, hport, hport']
  cases ((s.giveBack p).orphanJobs p).lostAt p <;> cases p <;> rfl

theorem resetPort_other : (s.resetPort p).port p.other = ((s.port p.other).dropBound (s.lostAt p) s.bdr (s.enabled p.other)).raise
    (if s.arb.writer = some p ∧ s.enabled p.other = true then EventKind.writerChanged.bit else 0) := by
  obtain ⟨-, -, -, -, -, -, hport⟩ := releaseWriterAt_blocks (((s.giveBack p).orphanJobs p).dropQueued p) p
  obtain ⟨hdsq', -, -, harb', -, -, hport'⟩ := dropQueued_blocks ((s.giveBack p).orphanJobs p) p
  have hlost : ((s.giveBack p).orphanJobs p).lostAt p = s.lostAt p := by cases p <;> rfl
  have hen : (((s.giveBack p).orphanJobs p).dropQueued p).enabled p.other = s.enabled p.other :=
    enabled_of_dsq (t := s) hdsq' _
  rw [State.resetPort, State.onPort_port_other, State.onArb_port, hport, hport', hlost, hen, harb']
  cases p <;> simp only [true_and] <;> rfl

end


/-! ## The commands -/

section
variable {s : State} {p : PortId} (hr : s.inReset = false)
include hr

theorem linkLoss_settles (he : s.enabled p = true) (hl : (s.port p).linkAct = true) :
    Settles (.linkLoss p) s ((s.onPort p (fun q => { q with linkAct := false })).resetPort p) := by
  rw [Settles, exec, execLinkLoss, taken_running _ hr, if_pos hl]
  dsimp only
  rw [if_pos ((State.onPort_enabled _ _ _ _).trans he)]

theorem linkLoss_idle (hl : (s.port p).linkAct = false) : Becomes (.linkLoss p) s s := by
  rw [Becomes, exec, execLinkLoss, taken_running _ hr, hl]
  rfl

theorem linkRestored_seals (hl : (s.port p).linkAct = false) :
    Seals (.linkRestored p) s (s.onPort p (fun q => { q with linkAct := true })) := by
  rw [Seals, exec, execLinkRestored, taken_running _ hr, hl]
  rfl

theorem linkRestored_idle (hl : (s.port p).linkAct = true) : Becomes (.linkRestored p) s s := by
  rw [Becomes, exec, execLinkRestored, taken_running _ hr, if_pos hl]

theorem portReset_settles (hd : (s.port p).rx.headerDue = true) (he : (s.port p).rx.header.inError = false)
    (hc : (s.port p).rx.header.cmd = some .portReset) : Settles (.portReset p) s (s.takePortReset p) := by
  rw [Settles, exec, execPortReset, taken_running _ hr]
  dsimp only
  rw [if_pos ⟨hd, he, hc⟩]

end

/-- The port at which PORT RESET has been taken. -/
theorem takePortReset_own (s : State) (p : PortId) : (s.takePortReset p).port p =
    { (s.port p).resetContext with
      rx := { Rx.none with state := if (s.port p).ciFrm then .drain else .idle }
      status := [completeRec (s.port p).rx.header.tag (s.port p).rx.header.code .ok 0 []] } := by
  unfold State.takePortReset
  dsimp only
  rw [place_port, if_pos rfl, State.onRx, State.onPort_port, resetPort_own]
  rfl

theorem or_and_self_bits (x b : EventSet) : (x ||| b) &&& b = b := by
  ext i
  simpa using fun h => .inr h

/-- Settles O47: the pins and slots given back, then what is dropped, released and reset. -/
theorem portResetAndLinkLoss : Obligations.PortResetAndLinkLoss := by
  intro s p hr he lost pinsOf reset
  have hlost : s.lostAt p = lost := by
    refine congrArg (fun l : List Op => (l.filterMap (fun o => o.block)).min?) ?_
    unfold writesOf
    rw [List.filter_filter]
    exact List.filter_congr (fun o _ => Bool.and_comm _ _)
  have hreset : ∀ u : State, u.dsq = s.dsq → u.tsv = s.tsv → u.ope = s.ope.orphanAt p → u.arb = s.arb.resetAt p →
      u.bbf = s.bbf.givenBack p (s.port p).status → u.bdr = s.bdr.drops lost →
      (∃ rx status act, u.port p = { (s.port p).resetContext with rx := rx, status := status, linkAct := act }) →
      u.port p.other = ((s.port p.other).dropBound lost s.bdr (s.enabled p.other)).raise
        (if s.arb.writer = some p ∧ s.enabled p.other = true then EventKind.writerChanged.bit else 0) → reset u := by
    intro u hdsq htsv hope harb hbbf hbdr ⟨rx, status, act, hown⟩ hother
    have hslot : ∀ i, i < s.bbf.slots.length → pinsOf i ≤ (s.bbf.slot i).pins →
        u.bbf.slot i = ((s.bbf.slot i).unpins (pinsOf i)).portReset p := fun i hi hp => by
      rw [hbbf]
      exact givenBack_slot p _ _ hi hp
    have hslot0 : ∀ i, i < s.bbf.slots.length → pinsOf i = 0 → u.bbf.slot i = (s.bbf.slot i).portReset p := fun i hi hp => by
      rw [hslot i hi (by omega), hp, unpins_zero]
    refine ⟨by rw [hown]; rfl, by rw [hown]; rfl, by rw [hown]; rfl, by rw [hown]; rfl, by rw [hown]; rfl, by rw [hown]; rfl,
      by rw [hown]; rfl, by rw [hown]; rfl, by rw [hown]; rfl, by rw [hown]; rfl, by rw [hown]; rfl,
      fun i hi hp ho => ⟨fun hst => ?_, fun hst => ?_, fun hst => ?_⟩, fun i hi hp ho => ?_, fun i hi _ ho hle hpos => ?_,
      fun hno => ?_, fun f hf => ?_, by rw [harb, resetAt_writer], fun hw hen => ?_, by rw [harb, resetAt_holder], ?_, ?_, ?_,
      by rw [hope]; rfl, by rw [hope]; rfl, htsv, hdsq⟩
    · rw [hslot0 i hi hp, portReset_frees ho hst]
    · rw [hslot0 i hi hp, portReset_reading ho hst]
    · rw [hslot0 i hi hp, portReset_writing ho hst]
    · rw [hslot0 i hi hp, portReset_other ho]
    · have hno : (s.bbf.slot i).owner ≠ some p := by rw [ho]; exact nofun
      rw [hslot i hi hle, portReset_other (unpins_owner _ hno)]
      exact if_congr ⟨fun h => ⟨h.1, h.2.1⟩, fun h => ⟨h.1, h.2, hpos⟩⟩ rfl rfl
    · rw [hbdr, hother, hno]
      exact ⟨rfl, rfl, rfl⟩
    · rw [hbdr, hother, hf]
      exact ⟨lowerEod_eq s.bdr f, rfl, rfl⟩
    · rw [hother, if_pos ⟨hw, hen⟩]
      exact or_and_self_bits _ _
    · rw [hother]; cases lost <;> rfl
    · rw [hother]; cases lost <;> rfl
    · rw [hother]; cases lost <;> rfl
  refine ⟨fun hl => ⟨_, linkLoss_settles hr he hl, ?_⟩, linkLoss_idle hr, fun hd hie hc => ⟨_, portReset_settles hr hd hie hc, ?_⟩,
    linkRestored_seals hr, linkRestored_idle hr⟩
  · have hport : ∀ q, ((s.onPort p (fun q => { q with linkAct := false })).port q).queue = (s.port q).queue := fun q => by
      rcases PortId.eq_or_other p q with rfl | rfl
      · rw [State.onPort_port]
      · rw [State.onPort_port_other]
    obtain ⟨hdsq, htsv, hope, harb, hbbf, hbdr⟩ := resetPort_blocks (s.onPort p (fun q => { q with linkAct := false })) p
    have hown := resetPort_own (s.onPort p (fun q => { q with linkAct := false })) p
    have hother := resetPort_other (s.onPort p (fun q => { q with linkAct := false })) p
    have hl' : (s.onPort p (fun q => { q with linkAct := false })).lostAt p = lost := by
      rw [← hlost]
      unfold State.lostAt
      rw [hport]
    rw [hl', State.onPort_bdr] at hbdr
    rw [hl', State.onPort_port_other, State.onPort_bdr, State.onPort_enabled, State.onPort_arb] at hother
    rw [State.onPort_port] at hown
    rw [State.onPort_port, State.onPort_bbf] at hbbf
    rw [State.onPort_dsq] at hdsq
    rw [State.onPort_tsv] at htsv
    rw [State.onPort_ope] at hope
    rw [State.onPort_arb] at harb
    refine ⟨hreset _ hdsq htsv hope harb hbbf hbdr ⟨Rx.none, [], false, hown⟩ hother, ?_⟩
    rw [hown]
    exact ⟨rfl, rfl, rfl⟩
  · have hown := takePortReset_own s p
    obtain ⟨hdsq, htsv, hope, harb, hbbf, hbdr⟩ := resetPort_blocks s p
    have hother := resetPort_other s p
    rw [hlost] at hbdr hother
    refine ⟨hreset _ ?_ ?_ ?_ ?_ ?_ ?_ ⟨_, _, (s.port p).linkAct, hown⟩ ?_, ?_, ?_⟩
    · rw [← hdsq]; simp [State.takePortReset, State.place, State.onRx]
    · rw [← htsv]; simp [State.takePortReset, State.place, State.onRx]
    · rw [← hope]; simp [State.takePortReset, State.place, State.onRx]
    · rw [← harb]; simp [State.takePortReset, State.place, State.onRx]
    · rw [← hbbf]; simp [State.takePortReset, State.place, State.onRx]
    · rw [← hbdr]; simp [State.takePortReset, State.place, State.onRx]
    · rw [← hother]; simp [State.takePortReset, State.place, State.onRx]
    · rw [hown]
      rw [code_of_cmd hc]
    · rw [hown]

end Sys2Proof.Machine

/-! PROOF. A record's header, the bytes passed, and the end of its sending with the frame that waited (R168, R174, R175). -/

namespace Sys2Proof.Machine

/-! ## The bytes of a record -/

theorem beBytes_length (n x : Nat) : (beBytes n x).length = n := by
  induction n with
  | zero => rfl
  | succ n ih => rw [beBytes, List.length_cons, ih]

theorem foldl_beBytes (n x a : Nat) :
    (beBytes n x).foldl (fun n v => n * 256 + v.toNat) a = a * 256 ^ n + x % 256 ^ n := by
  induction n generalizing a with
  | zero => simp [beBytes, Nat.mod_one]
  | succ n ih =>
    have hmod : x % 256 ^ (n + 1) = x % 256 ^ n + 256 ^ n * (x / 256 ^ n % 256) := Nat.mod_pow_succ
    rw [beBytes, List.foldl_cons, ih, BitVec.toNat_ofNat, hmod, Nat.pow_succ]
    generalize x / 256 ^ n % 256 = d
    ring

theorem ofBytes_beBytes {n x : Nat} (h : x < 256 ^ n) : ofBytes (beBytes n x) = x := by
  rw [ofBytes, foldl_beBytes, Nat.zero_mul, Nat.zero_add, Nat.mod_eq_of_lt h]

/-- The header of a record, field by field (Table 10-2). -/
theorem header_fields (r : Rec) (x : Stamp) : (r.header x).length = 15
    ∧ (r.header x).take 6 = [r.kind.byte, r.tag, r.cmd, r.code.byte, x.deckByte, x.flags]
    ∧ ((r.header x).drop 6).take 3 = beBytes 3 x.next ∧ ((r.header x).drop 9).take 4 = beBytes 4 r.detail
    ∧ (r.header x).drop 13 = beBytes 2 r.payload.len :=
  ⟨rfl, rfl, rfl, rfl, rfl⟩

theorem foldl_xor (l : List Bool) (b : Bool) : l.foldl xor b = xor b (l.foldl xor false) := by
  induction l generalizing b with
  | nil => exact (Bool.xor_false b).symm
  | cons a l ih => rw [List.foldl_cons, List.foldl_cons, ih, ih (xor false a), Bool.false_xor, Bool.xor_assoc]

theorem oddParity_parityFor (v : Byte) : oddParity v (parityFor v) = true := by
  rw [oddParity, foldl_xor, parityFor]
  exact Bool.not_xor_self _

/-! ## The bytes passed -/

section
variable {s : State} {p : PortId} {r : Rec} {rest : List Rec}

/-- The port with the level of SO-RDY taken. -/
def Port.readyAt (b : Bool) (q : Port) : Port := { q with soRdy := b }

theorem nextByte_readyAt {x : Stamp} (b : Bool) (hs : (s.port p).status = r :: rest) (hx : r.stamp = some x) :
    (s.onPort p (Port.readyAt b)).nextByte p = (s.recordBytes r x)[(s.port p).sent]? := by
  have hq : (s.onPort p (Port.readyAt b)).port p = (s.port p).readyAt b := State.onPort_port _ _ _
  have hst : ((s.port p).readyAt b).status = r :: rest := hs
  have hb : (s.onPort p (Port.readyAt b)).recordBytes r x = s.recordBytes r x := by
    unfold State.recordBytes State.payloadBytes
    rw [State.onPort_bbf]
  unfold State.nextByte
  rw [hq]
  simp only [hst, hx, hb]
  rfl

theorem statusByteSent_eq (hr : s.inReset = false) (hi : s.inService p = true) (b : Bool) : exec (.statusByteSent p b) s =
    .next (match (s.onPort p (Port.readyAt b)).nextByte p with
      | some v => (s.onPort p (Port.readyAt b)).onPort p (if b then Port.pass v else Port.raiseFrame)
      | none => s.onPort p (Port.readyAt b)) := by
  have hi' : (s.onPort p (Port.readyAt b)).inService p = true := by
    rw [State.inService, State.onPort_enabled, State.onPort_port]
    exact hi
  rw [exec, execStatusByteSent, taken_running _ hr]
  refine congrArg _ ?_
  show (match (s.onPort p (Port.readyAt b)).nextByte p with
    | some v => if (s.onPort p (Port.readyAt b)).inService p = true then _ else _
    | none => _) = _
  simp only [hi', if_true]
  rfl

end

/-! ## The frame that waited -/

section
variable {s : State} {p : PortId}

theorem takeWaiting_admits (h : s.mayAdmit p = true) : s.takeWaiting p = s.admitData p := if_pos h

theorem not_mayAdmit_of_ended (h : (s.port p).rx.state = .ended) : ¬ s.mayAdmit p = true := by
  simp [State.mayAdmit, h]

theorem takeWaiting_ended (h : (s.port p).rx.state = .ended) : s.takeWaiting p =
    if s.errorFrameDue p then s.answerFrame p .frameError
    else if s.unknownFrameDue p then s.answerFrame p .badCommand
    else match (s.port p).rx.header.cmd with
      | some c => if s.takes p c then s.takeFrame p c else s
      | none => s :=
  if_neg (not_mayAdmit_of_ended h)

theorem holdsFrame_of_takes {c : Cmd} (h : s.takes p c = true) : s.holdsFrame p c = true :=
  (Bool.and_eq_true _ _ ▸ h).1

theorem takeWaiting_takes {c : Cmd} (h : s.takes p c = true) : s.takeWaiting p = s.takeFrame p c := by
  obtain ⟨hi, hend, hbad, hcmd, hroom⟩ := (holdsFrame_iff s p c).mp (holdsFrame_of_takes h)
  have herr : ¬ s.errorFrameDue p = true := by simp [State.errorFrameDue, hbad]
  have hunk : ¬ s.unknownFrameDue p = true := by simp [State.unknownFrameDue, hcmd]
  rw [takeWaiting_ended hend, if_neg herr, if_neg hunk]
  simp only [hcmd, h, if_true]

/-- A frame that is not taken waits. -/
theorem takeWaiting_waits (hadmit : s.mayAdmit p = false)
    (hgood : s.endedWithRoom p = true → (s.port p).rx.bad = false ∧ (s.port p).rx.header.cmd ≠ none)
    (htakes : ∀ c, s.takes p c = false) : s.takeWaiting p = s := by
  have herr : ¬ s.errorFrameDue p = true := fun h => by
    rw [State.errorFrameDue, Bool.and_eq_true] at h
    rw [(hgood h.1).1] at h
    exact Bool.false_ne_true h.2
  have hunk : ¬ s.unknownFrameDue p = true := fun h => by
    rw [State.unknownFrameDue, Bool.and_eq_true, Bool.and_eq_true] at h
    exact (hgood h.1.1).2 (of_decide_eq_true h.2)
  unfold State.takeWaiting
  rw [hadmit, if_neg Bool.false_ne_true, if_neg herr, if_neg hunk]
  split
  · rw [htakes, if_neg Bool.false_ne_true]
  · rfl

/-- The take of an immediate command, whether or not it looks at the heads. -/
theorem takeImmediate_ends {c : Cmd} (body : Hdr → State → State) (readies : State → State → Bool) (h : s.takes p c = true) :
    s.takeImmediate p c body readies = (s.immediateFrame p body).settle s
      ∨ s.takeImmediate p c body readies = (s.immediateFrame p body).seal := by
  unfold State.takeImmediate
  rw [if_pos h]
  dsimp only
  split
  · exact .inl rfl
  · exact .inr rfl

/-- The take in a row of its own has the frame's effect. -/
theorem takeFrame_taken (hr : s.inReset = false) {c : Cmd} (h : s.takes p c = true) (hc : c ≠ .portReset) :
    Settles (takeOf c p) s (s.takeFrame p c) ∨ Seals (takeOf c p) s (s.takeFrame p c) := by
  have immediate : ∀ {i : Instr} {body : Hdr → State → State} {readies : State → State → Bool},
      exec i s = taken s (State.takeImmediate p c body readies) →
      Settles i s (s.immediateFrame p body) ∨ Seals i s (s.immediateFrame p body) := fun {i body readies} hx => by
    rw [Settles, Seals, hx, taken_running _ hr]
    exact (takeImmediate_ends body readies h).imp (congrArg _) (congrArg _)
  have queued : c.isQueued = true → c.isWrite = false → Settles (takeOf c p) s (s.queueFrame p c) := fun hq hw => by
    rw [Settles, exec_takeOf_queued hq hw p s, taken_running _ hr, State.takeQueued, if_pos h]
  cases c
  case portReset => exact absurd rfl hc
  case writeBlock =>
    have hx : exec (takeOf .writeBlock p) s = execWriteBlock p s := rfl
    rw [Settles, Seals, hx, execWriteBlock, taken_running _ hr, if_pos h]
    dsimp only [State.takeFrame]
    by_cases h0 : (s.port p).rx.header.dataLen = 0
    · rw [if_pos h0, if_pos h0]
      exact .inr rfl
    · rw [if_neg h0, if_neg h0]
      exact .inl rfl
  case writeMark =>
    have hx : exec (takeOf .writeMark p) s = execWriteMark p s := rfl
    rw [Settles, hx, execWriteMark, taken_running _ hr, if_pos h]
    exact .inl rfl
  case sense =>
    have hx : exec (takeOf .sense p) s = execSense p s := rfl
    rw [Seals, hx, execSense, taken_running _ hr, if_pos h]
    exact .inr rfl
  case queryDirectory | assignWriter | releaseWriter | setPortOptions | setDeckParameters | acknowledgeEvents | clearFault
      | abort => exact immediate rfl
  all_goals exact .inl (queued rfl rfl)

end

/-! ## The record sent -/

section
variable {s : State} {p : PortId} {r : Rec} {rest : List Rec}

theorem recordLeaves_eq (hs : (s.port p).status = r :: rest) : s.recordLeaves p r =
    { (s.onPort p (fun q => { q with status := rest, soFrm := false, sent := 0 })) with bbf := s.bbf.releaseSent r.payload } := by
  unfold State.recordLeaves
  rw [show s.onPort p (fun q => { q with status := q.status.tail, soFrm := false, sent := 0 }) =
    s.onPort p (fun q => { q with status := rest, soFrm := false, sent := 0 }) from onPort_congr (by rw [hs]; rfl)]
  cases p <;> rfl

theorem recordSent_settles (hr : s.inReset = false) (hs : (s.port p).status = r :: rest)
    (hsent : (s.port p).sent = 15 + r.payload.len) : Settles (.recordSent p) s ((s.recordLeaves p r).takeWaiting p) := by
  rw [Settles, exec, execRecordSent, taken_running _ hr]
  simp only [hs]
  rw [if_pos (show (s.port p).sent = r.size from hsent)]

theorem recordSent_waits (hr : s.inReset = false) (hs : (s.port p).status = r :: rest)
    (hsent : (s.port p).sent < 15 + r.payload.len) : Becomes (.recordSent p) s s := by
  rw [Becomes, exec, execRecordSent, taken_running _ hr]
  simp only [hs]
  rw [if_neg (show ¬ (s.port p).sent = r.size from Nat.ne_of_lt hsent)]

end

/-- Settles O46: the header's fields, the byte passed, and the take by the frame that waits. -/
theorem recordsAreSentByteByByte : Obligations.RecordsAreSentByteByByte := by
  refine ⟨fun r x hn hd hl => ?_, oddParity_parityFor, fun s p r rest hr hi hs => ⟨fun x hlt hx => ?_, fun x hlt hx => ?_,
    fun x b hge hx => ?_, fun hsent => ⟨_, releaseSent_releases r.payload s.bbf, ?_⟩, recordSent_waits hr hs⟩⟩
  · obtain ⟨hlen, htake, hnext, hdetail, hdata⟩ := header_fields r x
    rw [hnext, hdetail, hdata]
    exact ⟨hlen, htake, ofBytes_beBytes hn, ofBytes_beBytes hd, ofBytes_beBytes hl⟩
  · rw [Becomes, statusByteSent_eq hr hi, nextByte_readyAt true hs hx, List.getElem?_eq_getElem hlt]
    exact congrArg _ (onPort_onPort _ _ _ _)
  · rw [Becomes, statusByteSent_eq hr hi, nextByte_readyAt false hs hx, List.getElem?_eq_getElem hlt]
    exact congrArg _ (onPort_onPort _ _ _ _)
  · rw [Becomes, statusByteSent_eq hr hi, nextByte_readyAt b hs hx, List.getElem?_eq_none hge]
    rfl
  · have hset := recordSent_settles hr hs hsent
    rw [recordLeaves_eq hs] at hset
    intro u x ended answered
    have hru : u.inReset = false := (State.onPort_inReset _ _ _).trans hr
    have hiu : u.inService p = true := by
      have hen : u.enabled p = s.enabled p := enabled_of_dsq (State.onPort_dsq _ _ _) p
      have hport : u.port p = { s.port p with status := rest, soFrm := false, sent := 0 } := by cases p <;> rfl
      rw [State.inService, hen, hport]
      exact hi
    have hset : Settles (.recordSent p) s (u.takeWaiting p) := hset
    have hroom : u.endedWithRoom p = true ↔ ended := by
      refine ⟨fun h => ?_, fun h => (endedWithRoom_iff hiu h.1).mpr h.2⟩
      unfold State.endedWithRoom at h
      simp only [Bool.and_eq_true, decide_eq_true_eq] at h
      exact ⟨h.1.2, h.2⟩
    have hanswer : ∀ c, u.answerFrame p c = answered c := fun c => answer_nextFrame _ _ _ _ _ _
    refine ⟨fun w ha hw => ?_, fun he hbad => ?_, fun he hbad hc => ?_, fun c ht hc => ⟨?_, takeFrame_taken hru ht hc⟩,
      fun ha hgood ht => ?_⟩
    · rw [Becomes, writeDataAdmitted_taken hru, if_pos ha] at hw
      rw [takeWaiting_admits ha, Host.Outcome.next.inj hw] at hset
      exact hset
    · have hdue : u.errorFrameDue p = true := by
        rw [State.errorFrameDue, hroom.mpr he]
        exact hbad
      rw [takeWaiting_ended he.1, if_pos hdue, hanswer] at hset
      exact hset
    · have herr : ¬ u.errorFrameDue p = true := by
        rw [State.errorFrameDue, hroom.mpr he]
        exact fun h => Bool.false_ne_true (hbad.symm.trans h)
      have hdue : u.unknownFrameDue p = true := by
        simp [State.unknownFrameDue, hroom.mpr he]
        exact ⟨hbad, hc⟩
      rw [takeWaiting_ended he.1, if_neg herr, if_pos hdue, hanswer] at hset
      exact hset
    · rw [takeWaiting_takes ht] at hset
      exact hset
    · rw [takeWaiting_waits ha (fun h => hgood (hroom.mp h)) ht] at hset
      exact hset

end Sys2Proof.Machine

/-! PROOF. The end of an event with one operation queued: the port operation, the cache hit or the grant it brings about (R130, R148,
R149, R157 to R159); and the mark stack and the cache (R88, R148, R149). -/

namespace Sys2Proof.Machine

/-! ## A lone head -/

section
variable {s : State} {p : PortId}

theorem portOpAt_of_headless (h : s.head p = none) : s.portOpAt p = none := by
  simp only [State.portOpAt, h]

theorem hitSlot_of_headless (h : s.head p = none) : s.hitSlot p = none := by
  simp only [State.hitSlot, h]

theorem isCandidate_of_headless (h : s.head p = none) : s.isCandidate p = false := by
  simp only [State.isCandidate, h]

theorem head_of_empty (h : (s.port p).queue = []) : s.head p = none := by
  unfold State.head
  rw [h]
  split <;> rfl

theorem head_of_queue {o : Op} {rest : List Op} (he : s.enabled p = true) (h : (s.port p).queue = o :: rest) :
    s.head p = if o.granted then none else some o := by
  unfold State.head
  rw [if_pos he, h]

variable {o : Op} (hh : s.head p = some o)
include hh

theorem portOpAt_of_head : s.portOpAt p = if o.cmd = .pushMark ∨ o.cmd = .returnToMark then some o else none := by
  simp only [State.portOpAt, hh]

theorem isCandidate_of_head : s.isCandidate p = s.opReady p o := by
  simp only [State.isCandidate, hh]

end

/-! ## One turn of settling -/

theorem choose_lone {s : State} {p : PortId} {cand : PortId → Bool} (hp : cand p = true) (hq : cand p.other = false) :
    s.choose cand = some (p, s.chainGoesOn cand p) := by
  have hno : s.chainGoesOn cand p.other = false := by simp [State.chainGoesOn, hq]
  cases p
  · have hno' : s.chainGoesOn cand .b = false := hno
    have hq' : cand .b = false := hq
    cases hc : s.chainGoesOn cand .a <;> simp [State.choose, hc, hno', hp, hq']
  · have hno' : s.chainGoesOn cand .a = false := hno
    have hq' : cand .a = false := hq
    cases hc : s.chainGoesOn cand .b <;> simp [State.choose, hc, hno', hp, hq']

section
variable {s : State} {p : PortId} {o : Op} (hother : s.head p.other = none)
include hother

theorem settleOne_portOp (fresh : Bool) (h : s.portOpAt p = some o) :
    s.settleOne fresh = some (s.portOp p o, fresh) := by
  have hno := portOpAt_of_headless hother
  cases p
  · simp only [State.settleOne, h]
  · simp only [State.settleOne, h, show s.portOpAt .a = none from hno]

theorem settleOne_hit {k : Nat} (fresh : Bool) (h : s.portOpAt p = none) (hk : s.hitSlot p = some k)
    (hchoice : s.mayChoose = false ∨ s.isCandidate p = false) : s.settleOne fresh = some (s.serveHit p k, fresh) := by
  have hno := portOpAt_of_headless hother
  have hnohit := hitSlot_of_headless hother
  have hnocand := isCandidate_of_headless hother
  have hc : (s.mayChoose && (s.isCandidate p || s.isCandidate p.other)) = false := by
    rcases hchoice with h | h <;> simp [h, hnocand]
  cases p
  · have hc' : (s.mayChoose && (s.isCandidate .a || s.isCandidate .b)) = false := hc
    simp only [State.settleOne, h, show s.portOpAt .b = none from hno, hk, show s.hitSlot .b = none from hnohit, hc']
    rfl
  · have hc' : (s.mayChoose && (s.isCandidate .a || s.isCandidate .b)) = false := by rw [Bool.or_comm]; exact hc
    simp only [State.settleOne, h, show s.portOpAt .a = none from hno, hk, show s.hitSlot .a = none from hnohit, hc']
    rfl

theorem settleOne_grant (fresh : Bool) (h : s.portOpAt p = none) (hk : s.hitSlot p = none) (hmay : s.mayChoose = true)
    (hcand : s.isCandidate p = true) :
    s.settleOne fresh = some (s.grant p (s.chainGoesOn s.isCandidate p), false) := by
  have hno := portOpAt_of_headless hother
  have hnohit := hitSlot_of_headless hother
  have hnocand := isCandidate_of_headless hother
  have hchoose := choose_lone (s := s) hcand hnocand
  cases p
  · have hnocand' : s.isCandidate .b = false := hnocand
    simp only [State.settleOne, h, show s.portOpAt .b = none from hno, hk, show s.hitSlot .b = none from hnohit, hmay, hcand,
      State.grantNext, hchoose, hnocand']
    cases fresh <;> rfl
  · have hnocand' : s.isCandidate .a = false := hnocand
    simp only [State.settleOne, h, show s.portOpAt .a = none from hno, hk, show s.hitSlot .a = none from hnohit, hmay, hcand,
      State.grantNext, hchoose, hnocand']
    cases fresh <;> rfl

end

section
variable {s : State} {p : PortId}

theorem settle_of_empty (before : State) (ha : s.portA.queue = []) (hb : s.portB.queue = []) :
    s.settle before = s.closeAsk.seal := by
  unfold State.settle
  rw [ha, hb]
  rfl

/-- The end of an event that leaves one operation queued. -/
theorem settle_of_one {before t : State} {o : Op} (hq : (s.port p).queue = [o])
    (hother : (s.port p.other).queue = []) (h : ∀ f, ∃ f', s.settleOne f = some (t, f')) :
    s.settle before = t.closeAsk.seal := by
  have hfuel : s.portA.queue.length + s.portB.queue.length = 1 := by
    cases p
    · rw [show s.portA.queue = [o] from hq, show s.portB.queue = [] from hother]; rfl
    · rw [show s.portB.queue = [o] from hq, show s.portA.queue = [] from hother]; rfl
  obtain ⟨f', hf⟩ := h (before.ope.phase = .idle)
  unfold State.settle
  rw [hfuel, settleLoop, hf]
  rfl

theorem closeAsk_of_not_asking (h : s.ope.asking = false) : s.closeAsk = s := if_neg (by rw [h]; exact Bool.false_ne_true)

end


/-! ## The stop of R130 -/

section
variable (s : State)

/-- With no continuation the engine orders STOP (R130). -/
theorem closeAsk_stops (ha : s.ope.asking = true) (hramp : s.tsv.order ≠ .faultRamp) : s.closeAsk =
    { s with ope := { s.ope with asking := false, phase := .stop }, tsv := s.tsv.stopped } :=
  (if_pos ha).trans (engineOrder_stop (s := s.onOpe (fun e => { e with asking := false, phase := .stop })) hramp)

theorem closeAsk_frame : s.closeAsk = { s with ope := s.closeAsk.ope, tsv := s.closeAsk.tsv } := by
  unfold State.closeAsk
  split <;> rfl

theorem closeAsk_numbers : s.closeAsk.ope.deckNext = s.ope.deckNext ∧ s.closeAsk.ope.posValid = s.ope.posValid := by
  unfold State.closeAsk
  split <;> exact ⟨rfl, rfl⟩

theorem closeAsk_blocks : s.closeAsk.dsq = s.dsq ∧ s.closeAsk.arb = s.arb ∧ s.closeAsk.bbf = s.bbf ∧ s.closeAsk.bdr = s.bdr := by
  rw [closeAsk_frame]
  exact ⟨rfl, rfl, rfl, rfl⟩

theorem closeAsk_port (p : PortId) : s.closeAsk.port p = s.port p := by
  rw [closeAsk_frame]
  cases p <;> rfl

end

/-! ## The record placed first -/

theorem stamped_content (x : Stamp) (r : Rec) : (r.stamped x).content = r.content := by
  unfold Rec.stamped
  split <;> rfl

/-- A record placed is the first that the end of the event adds to. -/
theorem firstAdded_seal {s u : State} {p : PortId} {r : Rec} (h : (u.port p).status = (s.port p).status ++ [r]) :
    firstAdded s u.seal p = some r.content := by
  have ht : ∃ l, (u.tested p).status = (s.port p).status ++ r :: l := by
    unfold State.tested
    split
    · exact ⟨_, (congrArg (fun l => l ++ _) h).trans (List.append_assoc _ _ _)⟩
    · exact ⟨[], h⟩
  obtain ⟨l, hl⟩ := ht
  unfold firstAdded
  rw [seal_port]
  dsimp only
  rw [hl, List.map_append, List.getElem?_append_right (by simp)]
  simp [stamped_content]

theorem seal_blocks (s : State) : s.seal.dsq = s.dsq ∧ s.seal.tsv = s.tsv ∧ s.seal.ope = s.ope ∧ s.seal.arb = s.arb
    ∧ s.seal.bbf = s.bbf ∧ s.seal.bdr = s.bdr := by
  rw [seal_frame]
  exact ⟨rfl, rfl, rfl, rfl, rfl, rfl⟩

theorem seal_port_parts (s : State) (p : PortId) : (s.seal.port p).next = (s.port p).next
    ∧ (s.seal.port p).marks = (s.port p).marks ∧ (s.seal.port p).overflow = (s.port p).overflow
    ∧ (s.seal.port p).queue = (s.port p).queue := by
  rw [seal_port]
  unfold State.tested
  split <;> exact ⟨rfl, rfl, rfl, rfl⟩

/-! ## The mark stack -/

/-- A port whose head has completed with the record `r`. -/
def Port.completes (r : Rec) (q : Port) : Port := { q with queue := q.queue.tail, status := q.status ++ [r] }

theorem pushed_parts (q : Port) : q.pushed.next = q.next ∧ q.pushed.queue = q.queue ∧ q.pushed.status = q.status
    ∧ if q.marks.length < 4 then q.pushed.marks = q.marks ++ [q.next] ∧ q.pushed.overflow = q.overflow
      else q.pushed.marks = q.marks.tail ++ [q.next] ∧ q.pushed.overflow = true := by
  unfold Port.pushed
  by_cases h : q.marks.length < 4
  · rw [if_pos (show q.marks.length < Config.maxMarks from h), if_pos h]
    exact ⟨rfl, rfl, rfl, rfl, rfl⟩
  · rw [if_neg (show ¬ q.marks.length < Config.maxMarks from h), if_neg h]
    exact ⟨rfl, rfl, rfl, rfl, rfl⟩

section
variable (s : State) (p : PortId) {o : Op}

theorem portOp_push (h : o.cmd = .pushMark) :
    s.portOp p o = s.onPort p (fun q => q.pushed.completes (opRec o .ok (s.port p).next)) := by
  unfold State.portOp
  dsimp only
  rw [if_pos h]
  exact onPort_onPort _ _ _ _

theorem portOp_return {m : Nat} {below : List Nat} (h : o.cmd = .returnToMark) (hm : (s.port p).marks = below ++ [m]) :
    s.portOp p o = s.onPort p (fun q => { q with marks := below, next := m }.completes (opRec o .ok m)) := by
  have hlast : (s.port p).marks.getLast? = some m := by rw [hm, List.getLast?_append]; rfl
  have hdrop : (s.port p).marks.dropLast = below := by rw [hm, List.dropLast_concat]
  unfold State.portOp
  simp only [h, hlast, reduceCtorEq, if_false]
  refine (onPort_onPort _ _ _ _).trans (onPort_congr ?_)
  rw [hdrop]
  rfl

theorem portOp_return_empty (h : o.cmd = .returnToMark) (hm : (s.port p).marks = []) :
    s.portOp p o = s.onPort p (fun q => { q with overflow := false }.completes (opRec o .markStackEmpty (s.port p).next)) := by
  unfold State.portOp
  simp only [h, hm, List.getLast?_nil, reduceCtorEq, if_false]
  exact onPort_onPort _ _ _ _

end

theorem inService_of_takes {s : State} {p : PortId} {c : Cmd} (h : s.takes p c = true) : s.inService p = true :=
  ((holdsFrame_iff s p c).mp (holdsFrame_of_takes h)).1

theorem enabled_of_inService {s : State} {p : PortId} (h : s.inService p = true) : s.enabled p = true :=
  (Bool.and_eq_true _ _ ▸ h).1

/-- The operation that the frame of a port operation makes. -/
def portFrameOp (s : State) (p : PortId) (c : Cmd) : Op :=
  { cmd := c, tag := (s.port p).rx.header.tag, param := (s.port p).rx.header.param.toNat, chain := (s.port p).rx.header.flags[0],
    owed := true, block := none, slot := none, granted := false }

/-- A port operation taken at empty queues completes in the step (R148, R149). -/
theorem portOp_taken {s : State} {p : PortId} {c : Cmd} (hc : c = .pushMark ∨ c = .returnToMark) (hr : s.inReset = false)
    (hq : (s.port p).queue = []) (hq' : (s.port p.other).queue = []) (hd : (s.port p).deferred = none)
    (ht : s.takes p c = true) : exec (takeOf c p) s = .next
      ((s.onPort p (fun q => { q.nextFrame with queue := [portFrameOp s p c] })).portOp p (portFrameOp s p c)).closeAsk.seal := by
  have hmotion : c.isMotion = false := by rcases hc with rfl | rfl <;> rfl
  have hqueued : c.isQueued = true ∧ c.isWrite = false := by rcases hc with rfl | rfl <;> exact ⟨rfl, rfl⟩
  have hnone : s.refusal p c = none := (refusal_of_no_error hd).trans (refusalAfter_not_motion hmotion)
  obtain ⟨-, hjoin, -, -⟩ := queuedFramesJoinTheirQueue s p c hr hqueued.1 hqueued.2
  have hset := hjoin ht hnone
  have hu : s.onPort p (fun q => { q.nextFrame with queue := [portFrameOp s p c] }) = s.onPort p (fun q =>
      { q.nextFrame with queue := q.queue ++ [portFrameOp s p c] }) := onPort_congr (by rw [hq]; rfl)
  have hset : Settles (takeOf c p) s (s.onPort p (fun q => { q.nextFrame with queue := [portFrameOp s p c] })) := by
    rw [hu]
    rcases hc with rfl | rfl <;> exact hset
  have hport : ((s.onPort p (fun q => { q.nextFrame with queue := [portFrameOp s p c] })).port p).queue = [portFrameOp s p c] := by
    rw [State.onPort_port]
  have hother : ((s.onPort p (fun q => { q.nextFrame with queue := [portFrameOp s p c] })).port p.other).queue = [] := by
    rw [State.onPort_port_other]
    exact hq'
  have hen : (s.onPort p (fun q => { q.nextFrame with queue := [portFrameOp s p c] })).enabled p = true :=
    (State.onPort_enabled _ _ _ _).trans (enabled_of_inService (inService_of_takes ht))
  refine Eq.trans hset (congrArg _ (settle_of_one hport hother (fun f => ⟨f, ?_⟩)))
  refine settleOne_portOp (head_of_empty hother) f ?_
  rw [portOpAt_of_head (head_of_queue hen hport)]
  exact if_pos hc

/-- Settles O52: the head completes in the step of its take. -/
theorem markStack : Obligations.MarkStack := by
  intro s p hr hq hq' hd q still
  have hend : ∀ (f g : Port → Port) (r : Rec), (f (g q)).queue = [] → (f (g q)).status = q.status ++ [r] →
      let t := ((s.onPort p g).onPort p f).closeAsk.seal
      still t ∧ (t.port p).next = (f (g q)).next ∧ (t.port p).marks = (f (g q)).marks
        ∧ (t.port p).overflow = (f (g q)).overflow ∧ firstAdded s t p = some r.content := by
    intro f g r hqueue hstatus t
    have hv : (s.onPort p g).onPort p f = s.onPort p (fun q => f (g q)) := onPort_onPort _ _ _ _
    have hp : ((s.onPort p g).onPort p f).closeAsk.port p = f (g q) := by
      rw [closeAsk_port, hv, State.onPort_port]
    have ho : ((s.onPort p g).onPort p f).closeAsk.port p.other = s.port p.other := by
      rw [closeAsk_port, hv, State.onPort_port_other]
    obtain ⟨hn, hm, hover, hqu⟩ := seal_port_parts ((s.onPort p g).onPort p f).closeAsk p
    obtain ⟨hn', hm', -, -⟩ := seal_port_parts ((s.onPort p g).onPort p f).closeAsk p.other
    rw [hp] at hn hm hover hqu
    rw [ho] at hn' hm'
    obtain ⟨hdsq, htsv, hope, harb, hbbf, hbdr⟩ := seal_blocks ((s.onPort p g).onPort p f).closeAsk
    obtain ⟨hdsq', harb', hbbf', hbdr'⟩ := closeAsk_blocks ((s.onPort p g).onPort p f)
    obtain ⟨hdn, hpv⟩ := closeAsk_numbers ((s.onPort p g).onPort p f)
    have hope0 : ((s.onPort p g).onPort p f).ope = s.ope := (State.onPort_ope _ _ _).trans (State.onPort_ope _ _ _)
    have htsv0 : ((s.onPort p g).onPort p f).tsv = s.tsv := (State.onPort_tsv _ _ _).trans (State.onPort_tsv _ _ _)
    rw [hv, State.onPort_dsq] at hdsq'
    rw [hv, State.onPort_arb] at harb'
    rw [hv, State.onPort_bbf] at hbbf'
    rw [hv, State.onPort_bdr] at hbdr'
    refine ⟨⟨hqu.trans hqueue, ?_, ?_, hbdr.trans (hv ▸ hbdr'), hbbf.trans (hv ▸ hbbf'), hdsq.trans (hv ▸ hdsq'),
      harb.trans (hv ▸ harb'), hn', hm', fun ha => ?_⟩, hn, hm, hover, firstAdded_seal ((congrArg Port.status hp).trans hstatus)⟩
    · rw [hope, hdn, hope0]
    · rw [hope, hpv, hope0]
    · rw [htsv, hope, closeAsk_of_not_asking (by rw [hope0]; exact ha), hope0, htsv0]
      exact ⟨rfl, rfl⟩
  refine ⟨fun ht => ⟨_, portOp_taken (.inl rfl) hr hq hq' hd ht, ?_⟩, fun m below ht hm =>
    ⟨_, portOp_taken (.inr rfl) hr hq hq' hd ht, ?_⟩, fun ht hm => ⟨_, portOp_taken (.inr rfl) hr hq hq' hd ht, ?_⟩⟩
  · have hport : (s.onPort p (fun q => { q.nextFrame with queue := [portFrameOp s p .pushMark] })).port p =
        { q.nextFrame with queue := [portFrameOp s p .pushMark] } := State.onPort_port _ _ _
    obtain ⟨hnext, hqueue, hstatus, hmarks⟩ := pushed_parts { q.nextFrame with queue := [portFrameOp s p .pushMark] }
    rw [portOp_push _ _ rfl, hport]
    obtain ⟨hstill, hn, hm, hover, hfirst⟩ := hend
      (fun x => x.pushed.completes (opRec (portFrameOp s p .pushMark) .ok q.next))
      (fun q => { q.nextFrame with queue := [portFrameOp s p .pushMark] }) (opRec (portFrameOp s p .pushMark) .ok q.next)
      (congrArg List.tail hqueue) (congrArg (· ++ _) hstatus)
    refine ⟨hstill, hn.trans hnext, hfirst, ?_⟩
    by_cases hlt : q.marks.length < 4
    · rw [if_pos (show q.nextFrame.marks.length < 4 from hlt)] at hmarks
      rw [if_pos hlt]
      exact ⟨hm.trans hmarks.1, hover.trans hmarks.2⟩
    · rw [if_neg (show ¬ q.nextFrame.marks.length < 4 from hlt)] at hmarks
      rw [if_neg hlt]
      exact ⟨hm.trans hmarks.1, hover.trans hmarks.2⟩
  · have hport : (s.onPort p (fun q => { q.nextFrame with queue := [portFrameOp s p .returnToMark] })).port p =
        { q.nextFrame with queue := [portFrameOp s p .returnToMark] } := State.onPort_port _ _ _
    rw [portOp_return _ _ rfl (by rw [hport]; exact hm)]
    obtain ⟨hstill, hn, hmarks, hover, hfirst⟩ := hend
      (fun x => { x with marks := below, next := m }.completes (opRec (portFrameOp s p .returnToMark) .ok m))
      (fun q => { q.nextFrame with queue := [portFrameOp s p .returnToMark] })
      (opRec (portFrameOp s p .returnToMark) .ok m) rfl rfl
    exact ⟨hstill, hn, hmarks, hover, hfirst⟩
  · have hport : (s.onPort p (fun q => { q.nextFrame with queue := [portFrameOp s p .returnToMark] })).port p =
        { q.nextFrame with queue := [portFrameOp s p .returnToMark] } := State.onPort_port _ _ _
    rw [portOp_return_empty _ _ rfl (by rw [hport]; exact hm), hport]
    obtain ⟨hstill, hn, hmarks, hover, hfirst⟩ := hend
      (fun x => { x with overflow := false }.completes (opRec (portFrameOp s p .returnToMark) .markStackEmpty q.next))
      (fun q => { q.nextFrame with queue := [portFrameOp s p .returnToMark] })
      (opRec (portFrameOp s p .returnToMark) .markStackEmpty q.next) rfl rfl
    exact ⟨hstill, hn, hmarks.trans hm, hover, hfirst⟩

end Sys2Proof.Machine

/-! PROOF. A READ served from the cache (R88). -/

namespace Sys2Proof.Machine

section
variable (s : State) (p : PortId) {o : Op} {rest : List Op}

/-- When the head READ of a port is served from the cache (R88). -/
theorem hitSlot_iff (he : s.enabled p = true) (hq : (s.port p).queue = o :: rest) (i : Nat) : s.hitSlot p = some i ↔
    o.granted = false ∧ o.cmd = .readBlock ∧ (∀ e, s.bdr.eod = some e → (s.port p).next < e) ∧ s.charge p < 8
      ∧ (s.port p).deferred = none ∧ s.bbf.cachedSlot (s.port p).next = some i ∧ (s.bbf.slot i).pins < 2 := by
  have hend : s.bdr.atEnd (s.port p).next = false ↔ ∀ e, s.bdr.eod = some e → (s.port p).next < e := by
    rw [← Bool.not_eq_true, atEnd_iff]
    push Not
    exact Iff.rfl
  by_cases hg : o.granted = true
  · have hh : s.head p = none := (head_of_queue he hq).trans (if_pos hg)
    rw [hitSlot_of_headless hh, hg]
    exact ⟨nofun, nofun⟩
  · have hh : s.head p = some o := (head_of_queue he hq).trans (if_neg hg)
    have hg' : o.granted = false := Bool.eq_false_iff.mpr hg
    simp only [State.hitSlot, hh, hg', true_and, hend]
    by_cases hall : o.cmd = .readBlock ∧ (∀ e, s.bdr.eod = some e → (s.port p).next < e) ∧ s.charge p < Config.maxCharge
        ∧ (s.port p).deferred = none
    · obtain ⟨hc, hn, hcharge, hd⟩ := hall
      rw [if_pos ⟨hc, hn, hcharge, hd⟩]
      have hcharge' : s.charge p < 8 := hcharge
      simp only [hc, hcharge', hd, true_and, eq_true hn]
      cases hk : s.bbf.cachedSlot (s.port p).next with
      | none => simp
      | some k =>
        simp only [Option.some.injEq]
        constructor
        · intro h
          split at h
          · next hp =>
            obtain rfl := Option.some.inj h
            exact ⟨rfl, hp⟩
          · exact absurd h nofun
        · rintro ⟨rfl, hp⟩
          rw [if_pos hp]
    · rw [if_neg hall]
      exact ⟨nofun, fun h => absurd ⟨h.1, h.2.1, h.2.2.1, h.2.2.2.1⟩ hall⟩

/-- The state in which a READ has been served from slot `i` (R88). -/
def State.served (p : PortId) (o : Op) (rest : List Op) (i : Nat) (s : State) : State :=
  { (s.onPort p (fun q =>
      { q with queue := rest, next := (s.port p).next + 1
               status := q.status ++
                 [{ kind := .data, tag := o.tag, cmd := o.cmd.code, code := if s.ope.eotLatch then .okEot else .ok,
                    detail := (s.port p).next, payload := .pinned i (s.bbf.slot i).len, stamp := none }] })) with
    bbf := s.bbf.hit i }

theorem serveHit_eq (hq : (s.port p).queue = o :: rest) (i : Nat) : s.serveHit p i = s.served p o rest i := by
  unfold State.serveHit
  simp only [hq]
  obtain rfl : (s.port p).queue.tail = rest := congrArg List.tail hq
  cases p <;> rfl

theorem served_joined (i : Nat) : (s.onPort p (fun q => { q.nextFrame with queue := [o] })).served p o [] i =
    { (s.onPort p (fun q =>
        { q.nextFrame with
          queue := [], next := (s.port p).next + 1
          status := q.status ++
            [{ kind := .data, tag := o.tag, cmd := o.cmd.code, code := if s.ope.eotLatch then .okEot else .ok,
               detail := (s.port p).next, payload := .pinned i (s.bbf.slot i).len, stamp := none }] })) with
      bbf := s.bbf.hit i } := by
  cases p <;> rfl

end

/-- The step that leaves a READ that hits as the one queued operation serves it, when the arbiter has nothing to choose. -/
theorem served_alone {i : Instr} {s u : State} {p : PortId} {o : Op} {k : Nat} (hset : Settles i s u)
    (hq : (u.port p).queue = [o]) (hother : (u.port p.other).queue = []) (hk : u.hitSlot p = some k)
    (hask : u.ope.asking = false)
    (hno : u.ope.phase ≠ .idle ∨ u.ope.job ≠ none ∨ u.dsq.deck ≠ .ready ∨ u.dsq.online = false) :
    Seals i s (u.serveHit p k) := by
  obtain ⟨x, hh⟩ : ∃ x, u.head p = some x := Option.ne_none_iff_exists'.mp (fun h => by
    rw [hitSlot_of_headless h] at hk
    exact absurd hk nofun)
  have hread : x.cmd = .readBlock := by
    simp only [State.hitSlot, hh] at hk
    by_contra hc
    rw [if_neg (fun h => hc h.1)] at hk
    exact absurd hk nofun
  have hport : u.portOpAt p = none := by
    rw [portOpAt_of_head hh, hread]
    rfl
  have hchoice : u.mayChoose = false ∨ u.isCandidate p = false := by
    rw [isCandidate_of_head hh]
    rcases hno with h | h | h | h
    · exact .inl (by simp [State.mayChoose, hask, h])
    · exact .inl (by simp [State.mayChoose, hask, Option.isSome_iff_ne_none.mpr h])
    · exact .inr (by simp [State.opReady, hread, h])
    · exact .inr (by simp [State.opReady, hread, h])
  have hasks : (u.serveHit p k).ope = u.ope := by
    rw [serveHit_eq u p hq k]
    exact State.onPort_ope _ _ _
  refine Eq.trans hset (congrArg _ ?_)
  rw [settle_of_one hq hother (fun f => ⟨f, settleOne_hit (head_of_empty hother) f hport hk hchoice⟩),
    closeAsk_of_not_asking (by rw [hasks]; exact hask)]

/-- Settles O53: the test and the hit, then the step that leaves the READ alone, then its own take. -/
theorem cacheHit : Obligations.CacheHit := by
  refine ⟨fun s p o rest he hq => ⟨hitSlot_iff s p he hq, serveHit_eq s p hq⟩,
    fun i s u p o k hset hq hother hk hask hno => served_alone hset hq hother hk hask hno, ?_⟩
  intro s p k hr ht hnone hq hother hask hphase n hn hcharge hk hpins
  obtain ⟨-, hjoin, -, -⟩ := queuedFramesJoinTheirQueue s p .readBlock hr rfl rfl
  have hset := hjoin ht hnone
  have hdef : (s.port p).deferred = none := by
    cases hd : (s.port p).deferred with
    | none => rfl
    | some m => rw [refusal_deferred hd] at hnone; exact absurd hnone nofun
  have hu : ∀ o : Op, s.onPort p (fun q => { q.nextFrame with queue := q.queue ++ [o] }) =
      s.onPort p (fun q => { q.nextFrame with queue := [o] }) := fun o => onPort_congr (by rw [hq]; rfl)
  rw [hu] at hset
  have hport : ∀ o : Op, (s.onPort p (fun q => { q.nextFrame with queue := [o] })).port p =
      { (s.port p).nextFrame with queue := [o] } := fun o => State.onPort_port _ _ _
  refine Eq.trans (served_alone (k := k) hset (congrArg Port.queue (hport _)) ?_ ?_ ?_ (.inl ?_)) (congrArg _ (congrArg State.seal ?_))
  · rw [State.onPort_port_other]
    exact hother
  · refine (hitSlot_iff _ p ?_ (congrArg Port.queue (hport _)) k).mpr ⟨rfl, rfl, ?_, ?_, ?_, ?_, ?_⟩
    · rw [State.onPort_enabled]
      exact enabled_of_inService (inService_of_takes ht)
    · rw [State.onPort_bdr, hport]
      exact hn
    · unfold State.charge
      rw [State.onPort_bbf, hport]
      exact hcharge
    · rw [hport]
      exact hdef
    · rw [State.onPort_bbf, hport]
      exact hk
    · rw [State.onPort_bbf]
      exact hpins
  · rw [State.onPort_ope]
    exact hask
  · rw [State.onPort_ope]
    exact hphase
  · rw [serveHit_eq _ p (congrArg Port.queue (hport _))]
    refine (served_joined s p k).trans ?_
    refine congrArg (fun x : State => { x with bbf := s.bbf.hit k }) (onPort_congr ?_)
    rw [← hq]
    rfl

end Sys2Proof.Machine

/-! PROOF. The data of the SENSE and QUERY DIRECTORY records, byte for byte (R180, R181, Table 10-6). -/

namespace Sys2Proof.Machine

/-! ## Slices of a list -/

/-- The `count` elements of a list from `first` on. -/
def slice {α : Type} (first count : Nat) (l : List α) : List α := (l.drop first).take count

section
variable {α β : Type}

theorem slice_at {pre mid post : List α} {k f c : Nat} (hk : pre.length = k) (hm : f + c ≤ mid.length) :
    slice (k + f) c (pre ++ (mid ++ post)) = slice f c mid := by
  subst hk
  unfold slice
  rw [List.drop_append, List.drop_eq_nil_of_le (by omega), List.nil_append, Nat.add_sub_cancel_left,
    List.drop_append_of_le_length (by omega), List.take_append_of_le_length (by rw [List.length_drop]; omega)]

theorem slice_slice {l : List α} {a m j c : Nat} (h : j + c ≤ m) : slice j c (slice a m l) = slice (a + j) c l := by
  unfold slice
  rw [List.drop_take, List.drop_drop, List.take_take, Nat.min_eq_left (by omega)]

/-- The part of a concatenation at its place, `first` being the length of the parts before it. -/
theorem slice_part {parts : List (List α)} {part : List α} {i first f c : Nat} (hi : parts[i]? = some part)
    (hfirst : ((parts.map List.length).take i).sum = first) (h : f + c ≤ part.length) :
    slice (first + f) c parts.flatten = slice f c part := by
  obtain ⟨hlt, hpart⟩ := List.getElem?_eq_some_iff.mp hi
  have hsplit : parts = parts.take i ++ part :: parts.drop (i + 1) := by
    rw [← hpart, ← List.drop_eq_getElem_cons hlt, List.take_append_drop]
  have hlen : (parts.take i).flatten.length = first := by rw [List.length_flatten, List.map_take, hfirst]
  rw [hsplit, List.flatten_append, List.flatten_cons]
  exact slice_at hlen h

/-- The part of one element in a concatenation of parts of equal length. -/
theorem slice_flatMap {f : β → List α} {m : Nat} (hf : ∀ x, (f x).length = m) (l : List β) (i : Nat) (h : i < l.length) :
    slice (m * i) m (l.flatMap f) = f l[i] := by
  induction l generalizing i with
  | nil => exact absurd h (Nat.not_lt_zero _)
  | cons x l ih =>
    cases i with
    | zero => simp [slice, hf]
    | succ i =>
      have hx : m * (i + 1) = (f x).length + m * i := by rw [hf, Nat.mul_succ, Nat.add_comm]
      unfold slice at ih ⊢
      rw [List.flatMap_cons, hx, ← List.drop_drop, List.drop_left]
      exact ih i (Nat.lt_of_succ_lt_succ h)

end

/-! ## The lengths of the parts -/

theorem unstated_length (k n : Nat) : (unstated k n).length = n := by simp [unstated]

theorem beInt_length (n : Nat) (x : Int) : (beInt n x).length = n := beBytes_length n _

theorem tsv_sense_length (k : Nat) (v : Tsv) : (v.sense k).length = 37 := by
  unfold Tsv.sense
  cases v.eotPos <;> rfl

theorem bdr_sense_length (k : Nat) (d : Bdr) : (d.sense k).length = 12 := by
  unfold Bdr.sense
  cases d.eod <;> rfl

theorem slot_sense_length (k : Nat) (x : Slot) : (x.sense k).length = 6 := by
  unfold Slot.sense
  split <;> rfl

theorem opSense_length (k : Nat) (o : Option Op) : (opSense k o).length = 2 := by cases o <;> rfl

theorem markSense_length (k : Nat) (m : Option Nat) : (markSense k m).length = 3 := by cases m <;> rfl

theorem bbf_sense_length (k : Nat) (b : Bbf) : (b.sense k).length = 100 := by
  simp [Bbf.sense, List.length_flatMap, slot_sense_length]

theorem port_sense_length (k : Nat) (q : Port) : (q.sense k).length = 34 := by
  simp [Port.sense, List.length_flatMap, opSense_length, markSense_length, beBytes_length]

theorem query_length (n : Nat) (d : Bdr) : (d.query n).length = 30 := by
  unfold Bdr.query
  cases d.lookup n <;> rfl

/-! ## The parts of SENSE -/

section
variable (s : State) (p : PortId)

/-- SENSE by the blocks it shows, in their order. -/
def senseParts : List (List Byte) :=
  [s.dsq.sense, s.tsv.sense s.draws, s.ope.sense, s.arb.sense, s.bdr.sense s.draws, s.bbf.sense s.draws,
   (s.port p).sense s.draws ++ [natByte (s.bbf.held p), natByte (s.charge p)]]

theorem sense_eq : s.sense p = (senseParts s p).flatten := by simp [State.sense, senseParts]

theorem senseParts_lengths : (senseParts s p).map List.length = [12, 37, 14, 4, 12, 100, 36] := by
  simp only [senseParts, List.map_cons, List.map_nil, List.length_append, tsv_sense_length, bdr_sense_length, bbf_sense_length,
    port_sense_length]
  rfl

theorem sense_length : (s.sense p).length = 215 := by
  rw [sense_eq, List.length_flatten, senseParts_lengths]
  rfl

variable {f c : Nat}

theorem sense_part {i first : Nat} {part : List Byte} (hi : (senseParts s p)[i]? = some part)
    (hfirst : (((senseParts s p).map List.length).take i).sum = first) (h : f + c ≤ part.length) :
    slice (first + f) c (s.sense p) = slice f c part := by
  rw [sense_eq]
  exact slice_part hi hfirst h

theorem sense_dsq (h : f + c ≤ 12) : slice (0 + f) c (s.sense p) = slice f c s.dsq.sense :=
  sense_part s p (i := 0) rfl rfl h

theorem sense_tsv (h : f + c ≤ 37) : slice (12 + f) c (s.sense p) = slice f c (s.tsv.sense s.draws) :=
  sense_part s p (i := 1) rfl (by rw [senseParts_lengths]; rfl) (by rw [tsv_sense_length]; exact h)

theorem sense_ope (h : f + c ≤ 14) : slice (49 + f) c (s.sense p) = slice f c s.ope.sense :=
  sense_part s p (i := 2) rfl (by rw [senseParts_lengths]; rfl) h

theorem sense_arb (h : f + c ≤ 4) : slice (63 + f) c (s.sense p) = slice f c s.arb.sense :=
  sense_part s p (i := 3) rfl (by rw [senseParts_lengths]; rfl) h

theorem sense_bdr (h : f + c ≤ 12) : slice (67 + f) c (s.sense p) = slice f c (s.bdr.sense s.draws) :=
  sense_part s p (i := 4) rfl (by rw [senseParts_lengths]; rfl) (by rw [bdr_sense_length]; exact h)

theorem sense_bbf (h : f + c ≤ 100) : slice (79 + f) c (s.sense p) = slice f c (s.bbf.sense s.draws) :=
  sense_part s p (i := 5) rfl (by rw [senseParts_lengths]; rfl) (by rw [bbf_sense_length]; exact h)

theorem sense_port (h : f + c ≤ 36) : slice (179 + f) c (s.sense p) =
    slice f c ((s.port p).sense s.draws ++ [natByte (s.bbf.held p), natByte (s.charge p)]) :=
  sense_part s p (i := 6) rfl (by rw [senseParts_lengths]; rfl) (by rw [List.length_append, port_sense_length]; exact h)

/-! ## The places of the slots, the queue and the marks -/

/-- The asking port's part of SENSE by its fields. -/
def portParts (k : Nat) (q : Port) (held charge : Nat) : List (List Byte) :=
  [beBytes 3 q.next ++ [natByte q.queue.length],
   (List.range 4).flatMap (fun i => opSense (k + 184 + 2 * i) q.queue[i]?),
   [natByte (q.status.length + 1), natByte q.marks.length],
   (List.range 4).flatMap (fun i => markSense (k + 193 + 3 * i) q.marks[i]?),
   [byteOf (q.mode = .buffered) q.overflow q.hold q.deferred.isSome false false false false]
     ++ beBytes 2 q.mask.toNat ++ beBytes 2 q.pendingEv.toNat ++ beBytes 3 (q.deferred.getD 0xFFFFFF)
     ++ [natByte held, natByte charge]]

theorem port_sense_eq (k : Nat) (q : Port) (held charge : Nat) :
    q.sense k ++ [natByte held, natByte charge] = (portParts k q held charge).flatten := by
  simp [Port.sense, portParts]

theorem portParts_lengths (k : Nat) (q : Port) (held charge : Nat) :
    (portParts k q held charge).map List.length = [4, 8, 2, 12, 10] := by
  simp [portParts, List.length_flatMap, opSense_length, markSense_length, beBytes_length]

theorem sense_port_part {i first place : Nat} {part : List Byte}
    (hi : (portParts s.draws (s.port p) (s.bbf.held p) (s.charge p))[i]? = some part)
    (hfirst : (([4, 8, 2, 12, 10] : List Nat).take i).sum = first) (hplace : place = 179 + (first + f)) (h : f + c ≤ part.length)
    (hall : first + f + c ≤ 36) : slice place c (s.sense p) = slice f c part := by
  rw [hplace, sense_port s p (by omega), port_sense_eq]
  exact slice_part hi (by rw [portParts_lengths, hfirst]) h

/-- A slot's six bytes. -/
theorem sense_slot {i : Nat} (hi : i < 16) (h : f + c ≤ 6) :
    slice (83 + 6 * i + f) c (s.sense p) = slice f c ((s.bbf.slot i).sense (s.draws + 88 + 6 * i)) := by
  have hflat := slice_flatMap (f := fun i => (s.bbf.slot i).sense (s.draws + 88 + 6 * i)) (m := 6)
    (fun _ => slot_sense_length _ _) (List.range 16) i (by rw [List.length_range]; exact hi)
  have hlen : ((List.range 16).flatMap (fun i => (s.bbf.slot i).sense (s.draws + 88 + 6 * i))).length = 96 := by
    simp [List.length_flatMap, slot_sense_length]
  rw [List.getElem_range] at hflat
  rw [← hflat, slice_slice h, show 83 + 6 * i + f = 79 + (4 + (6 * i + f)) by omega, sense_bbf s p (by omega)]
  unfold Bbf.sense
  generalize (List.range 16).flatMap (fun i => (s.bbf.slot i).sense (s.draws + 88 + 6 * i)) = flat at hlen ⊢
  conv_lhs => rw [← List.append_nil flat]
  have hfit : 6 * i + f + c ≤ flat.length := by rw [hlen]; omega
  exact slice_at rfl hfit

theorem sense_op {i : Nat} (hi : i < 4) (h : f + c ≤ 2) :
    slice (183 + 2 * i + f) c (s.sense p) = slice f c (opSense (s.draws + 184 + 2 * i) (s.port p).queue[i]?) := by
  have hflat := slice_flatMap (f := fun i => opSense (s.draws + 184 + 2 * i) (s.port p).queue[i]?) (m := 2)
    (fun _ => opSense_length _ _) (List.range 4) i (by rw [List.length_range]; exact hi)
  rw [List.getElem_range] at hflat
  rw [← hflat, slice_slice h]
  exact sense_port_part s p (i := 1) (first := 4) rfl rfl (by omega) (by simp [List.length_flatMap, opSense_length]; omega) (by omega)

theorem sense_mark {i : Nat} (hi : i < 4) :
    slice (193 + 3 * i) 3 (s.sense p) = markSense (s.draws + 193 + 3 * i) (s.port p).marks[i]? := by
  have hflat := slice_flatMap (f := fun i => markSense (s.draws + 193 + 3 * i) (s.port p).marks[i]?) (m := 3)
    (fun _ => markSense_length _ _) (List.range 4) i (by rw [List.length_range]; exact hi)
  rw [List.getElem_range] at hflat
  rw [← hflat]
  exact sense_port_part s p (i := 3) (first := 14) rfl rfl (by omega) (by simp [List.length_flatMap, markSense_length]; omega) (by omega)

end

/-! ## The codes -/

theorem toNat_ite (x : Bool) (n : Nat) : (if x = true then n else 0) = n * x.toNat := by cases x <;> simp

theorem byteOf_eight (a b c d e f g h : Bool) : byteOf a b c d e f g h =
    BitVec.ofNat 8 (([a, b, c, d, e, f, g, h].zipIdx.map (fun x => if x.1 then 2 ^ x.2 else 0)).sum) := by
  refine congrArg (BitVec.ofNat 8) ?_
  simp only [List.zipIdx_cons, List.zipIdx_nil, List.map_cons, List.map_nil, List.sum_cons, List.sum_nil, toNat_ite]
  ring

theorem byteOf_four (a b c d : Bool) : byteOf a b c d false false false false =
    BitVec.ofNat 8 (([a, b, c, d].zipIdx.map (fun x => if x.1 then 2 ^ x.2 else 0)).sum) := by
  refine congrArg (BitVec.ofNat 8) ?_
  simp only [List.zipIdx_cons, List.zipIdx_nil, List.map_cons, List.map_nil, List.sum_cons, List.sum_nil, toNat_ite,
    Bool.toNat_false]
  ring

/-- Settles O55: each stated byte by its place in its block, and the query by the three forms of a lookup. -/
theorem senseAndQueryDirectory : Obligations.SenseAndQueryDirectory := by
  intro s p answered n q bytes byte flag bits deck fault sight who reel held pins entry rest
  have hdeck : ∀ x : Deck, x.byte = deck x := fun x => by cases x <;> rfl
  have hfault : ∀ x : Option FaultKind, faultByte x = fault x := fun x => by
    cases x with
    | none => rfl
    | some x => cases x <;> rfl
  have hwho : ∀ x : Option PortId, portByte x = who x := fun x => by
    cases x with
    | none => rfl
    | some x => cases x <;> rfl
  have hsight : ∀ x : Sighting, x.code = sight x := fun x => by cases x <;> rfl
  have hflag : ∀ b : Bool, flagByte b = flag b := fun b => by cases b <;> rfl
  have hreel : ∀ r : ReelState, r.sense = reel r := fun r => by
    have hmode : r.mode.byte = (match r.mode with | .zero => 0#8 | .forming => 1#8 | .regulated => 2#8 | .fixed => 3#8) := by
      cases r.mode <;> rfl
    simp only [ReelState.sense, hmode, hflag]
    rfl
  have hheld : ∀ p, s.bbf.held p = held p := fun p => by
    refine List.countP_congr (fun x _ => ?_)
    simp only [Slot.heldBy, Bool.and_eq_true, decide_eq_true_eq]
    cases x.state <;> simp [SlotState.isHeld]
  have hbytes : ∀ first count, bytes first count = slice first count (s.sense p) := fun _ _ => rfl
  refine ⟨fun hr ht => ?_, sense_length s p, ?_, ?_, fun pos hpos => ?_, ?_, ?_, ?_, ?_, ?_, fun e he => ?_, ?_, ?_,
    fun i hi => ?_, ?_, fun i hi => ⟨fun o ho => ?_, fun hno => ?_, fun m hm => ?_⟩, ?_, ?_, fun ha => ?_, query_length _ _,
    fun e he => ?_, fun e he => ?_, fun he => ?_⟩
  · refine Eq.trans (taken_running _ hr) (congrArg Host.Outcome.next ?_)
    rw [if_pos ht]
    refine congrArg State.seal ?_
    show ((s.onPort p Port.nextFrame).answer p (s.port p).rx.header .ok 0 (s.sense p)).drawn 215 = _
    rw [answer_nextFrame]
    cases p <;> rfl
  · rw [hbytes, ← Nat.zero_add 0, sense_dsq s p (f := 0) (by decide), ← hdeck, ← hfault, ← hfault]
    simp only [Dsq.sense, byteOf_eight, hflag]
    have hres : (s.dsq.resume.map Deck.byte).getD 0xFF = (match s.dsq.resume with | none => 0xFF#8 | some x => deck x) := by
      cases s.dsq.resume with
      | none => rfl
      | some x => exact hdeck x
    rw [hres]
    rfl
  · have horder : s.tsv.order.code = (match s.tsv.order with
        | .none => 0#8 | .move _ _ => 1#8 | .run _ _ _ => 2#8 | .stop _ _ => 3#8 | .faultRamp => 4#8) := by
      cases s.tsv.order <;> rfl
    have hmarker : s.tsv.markerByte = byte (sight s.tsv.lp + 4 * sight s.tsv.eot + (if s.tsv.eotPassed then 16 else 0)
        + (if s.tsv.eotPos.isSome then 32 else 0)) := by
      rw [← hsight, ← hsight]
      unfold Tsv.markerByte
      cases s.tsv.eotPassed <;> cases s.tsv.eotPos.isSome <;> rfl
    rw [hbytes, show 12 = 12 + 0 from rfl, sense_tsv s p (by decide)]
    unfold Tsv.sense
    rw [horder, hmarker]
    rfl
  · rw [hbytes, show 25 = 12 + 13 from rfl, sense_tsv s p (by decide)]
    unfold Tsv.sense
    rw [hpos]
    rfl
  · rw [hbytes, show 29 = 12 + 17 from rfl, sense_tsv s p (by decide), ← hreel]
    unfold Tsv.sense
    cases s.tsv.eotPos <;> rfl
  · rw [hbytes, show 39 = 12 + 27 from rfl, sense_tsv s p (by decide), ← hreel]
    unfold Tsv.sense
    cases s.tsv.eotPos <;> rfl
  · have hphase : s.ope.phase.byte = (match s.ope.phase with
        | .idle => 0#8 | .move => 1#8 | .scan => 2#8 | .run => 3#8 | .transfer => 4#8 | .verify => 5#8 | .stop => 6#8) := by
      cases s.ope.phase <;> rfl
    have hactor : (s.ope.job.map Job.portByte).getD 0 = (match s.ope.job.map Job.actor with
        | none => 0#8 | some (.port .a) => 1#8 | some (.port .b) => 2#8 | some .panel => 3#8) := by
      cases s.ope.job with
      | none => rfl
      | some j =>
        simp only [Option.map_some, Option.getD_some, Job.portByte]
        rcases j.actor with (_ | _) | _ <;> rfl
    have hcmd : (s.ope.job.map Job.cmdByte).getD 0 = (match s.ope.job with
        | none => 0#8
        | some j => match j.actor with | .panel => 0#8 | .port _ => j.op.cmd.code) := by
      cases s.ope.job with
      | none => rfl
      | some j =>
        simp only [Option.map_some, Option.getD_some, Job.cmdByte]
        cases j.actor <;> rfl
    rw [hbytes, show 49 = 49 + 0 from rfl, sense_ope s p (by decide)]
    unfold Ope.sense
    rw [hphase, hactor, hcmd, hflag, hflag]
    rfl
  · rw [hbytes, show 63 = 63 + 0 from rfl, sense_arb s p (by decide)]
    simp only [Arb.sense, hwho]
    rfl
  · rw [hbytes, show 67 = 67 + 0 from rfl, sense_bdr s p (by decide)]
    rfl
  · rw [hbytes, show 75 = 67 + 8 from rfl, sense_bdr s p (by decide)]
    unfold Bdr.sense
    rw [he]
    rfl
  · rw [hbytes, show 78 = 67 + 11 from rfl, sense_bdr s p (by decide), ← hflag]
    unfold Bdr.sense
    cases s.bdr.eod <;> rfl
  · rw [hbytes, show 79 = 79 + 0 from rfl, sense_bbf s p (by decide), ← hheld, ← hheld]
    rfl
  · intro x
    refine ⟨?_, fun hx => ?_⟩
    · have hstate : x.stateByte = (match x.state with
          | .free => 0#8 | .filling => 1#8 | .pending => 2#8 | .writing => 3#8 | .reading => 4#8 | .delivering => 5#8
          | .cached => if x.block = none then 0x86#8 else 6#8) := by
        unfold Slot.stateByte
        cases x.state <;> cases x.block <;> rfl
      rw [hbytes, show 83 + 6 * i = 83 + 6 * i + 0 from rfl, sense_slot s p hi (by decide)]
      unfold Slot.sense
      rw [hstate, hwho]
      rfl
    · rw [hbytes, show 88 + 6 * i = 83 + 6 * i + 5 by omega, sense_slot s p hi (by decide)]
      unfold Slot.sense
      rw [if_pos hx]
      rfl
  · rw [hbytes, sense_port_part s p (i := 0) (first := 0) (f := 0) rfl rfl rfl (Nat.le_refl 4) (by decide)]
    rfl
  · rw [hbytes, show 183 + 2 * i = 183 + 2 * i + 0 from rfl, sense_op s p hi (by decide), ho]
    rfl
  · rw [hbytes, show 183 + 2 * i = 183 + 2 * i + 0 from rfl, sense_op s p hi (by decide), hno]
    rfl
  · rw [hbytes, sense_mark s p hi, hm]
    rfl
  · rw [hbytes, sense_port_part s p (i := 2) (first := 12) (f := 0) rfl rfl rfl (Nat.le_refl 2) (by decide)]
    rfl
  · rw [hbytes, sense_port_part s p (i := 4) (first := 26) (f := 0) rfl rfl rfl (Nat.le_refl 10) (by decide),
      ← hheld, byteOf_four]
    rfl
  · refine seals_of_answered ha rfl ?_ rfl
    unfold State.answerQuery
    rw [State.onPort_bdr, answer_nextFrame]
    exact onPort_congr rfl
  · unfold Bdr.query
    rw [he]
    simp only [Entry.query, hflag]
    rfl
  · unfold Bdr.query
    rw [he]
    simp only [Entry.query, hflag]
    rfl
  · unfold Bdr.query
    rw [he]
    simp only [hflag]
    rfl

end Sys2Proof.Machine

/-! PROOF. The grant of one queued operation, and its beginning at rest, as a continuation or after the stop (R130, R131, R157 to R159). -/

namespace Sys2Proof.Machine

/-! ## The choice -/

theorem chainGoesOn_iff (s : State) (cand : PortId → Bool) (p : PortId) : s.chainGoesOn cand p = true ↔
    s.arb.holder = some p ∧ s.arb.lastChain = true ∧ cand p = true ∧ (s.arb.chainRun < 16 ∨ cand p.other = false) := by
  have hlt : decide (s.arb.chainRun < Config.maxChain) = true ↔ s.arb.chainRun < 16 := decide_eq_true_iff
  simp only [State.chainGoesOn, Bool.and_eq_true, Bool.or_eq_true, Bool.not_eq_true', decide_eq_true_eq, hlt, and_assoc]

/-- With no chain the port not served last is chosen (R159). -/
theorem choose_alternates {s : State} {cand : PortId → Bool} (hno : ∀ q, s.chainGoesOn cand q = false) (ha : cand .a = true)
    (hb : cand .b = true) : s.choose cand = some (s.arb.lastServed.other, false) := by
  simp [State.choose, hno, ha, hb]

/-- The holder's chain goes on (R159). -/
theorem choose_chain {s : State} {cand : PortId → Bool} {p : PortId} (h : s.chainGoesOn cand p = true) :
    s.choose cand = some (p, true) := by
  have hholder := ((chainGoesOn_iff s cand p).mp h).1
  cases p
  · simp [State.choose, h]
  · have hno : s.chainGoesOn cand .a = false := Bool.eq_false_iff.mpr (fun ha => by
      have hh := ((chainGoesOn_iff s cand .a).mp ha).1
      rw [hholder] at hh
      exact absurd hh (by decide))
    simp [State.choose, h, hno]

theorem choose_none {s : State} {cand : PortId → Bool} (h : ∀ q, cand q = false) : s.choose cand = none := by
  have hno : ∀ q, s.chainGoesOn cand q = false := fun q => by simp [State.chainGoesOn, h]
  simp [State.choose, hno, h]

/-! ## The grant -/

/-- The slot that an operation is granted with (R83, R85). -/
def State.slotFor (u : State) (o : Op) : Option Nat := if o.cmd = .readBlock then u.bbf.candidate else o.slot

/-- The buffer after the slot of a grant has its state (R83, R85). -/
def Bbf.grants (p : PortId) (next : Nat) (o : Op) (slot : Option Nat) (b : Bbf) : Bbf :=
  match o.cmd, slot with
  | .writeBlock, some k => b.modify k (fun x => { x with state := .writing })
  | .readBlock, some k => b.take k { Slot.freed with state := .reading, owner := some p, block := some next, tag := o.tag }
  | _, _ => b

/-- The operation, granted. -/
def State.grantedOp (u : State) (o : Op) : Op := { o with granted := true, slot := u.slotFor o }

/-- The state in which the one queued operation of a port has been granted (R159). -/
def State.given (p : PortId) (byChain : Bool) (o : Op) (u : State) : State :=
  { u.onPort p (fun q => { q with queue := [u.grantedOp o] }) with
    arb := u.arb.granted p byChain o
    bbf := u.bbf.grants p (u.port p).next o (u.slotFor o) }

section
variable (u : State) (p : PortId) (b : Bool) (o : Op)

theorem grantSlot_eq : u.grantSlot p o = (u.slotFor o, u.onBbf (Bbf.grants p (u.port p).next o (u.slotFor o))) := by
  unfold State.grantSlot State.slotFor Bbf.grants
  cases o.cmd
  case writeBlock => cases o.slot <;> rfl
  case readBlock => cases u.bbf.candidate <;> rfl
  all_goals rfl

theorem given_port : (u.given p b o).port p = { u.port p with queue := [u.grantedOp o] } := by cases p <;> rfl

theorem given_port_other : (u.given p b o).port p.other = u.port p.other := by cases p <;> rfl

theorem given_blocks : (u.given p b o).dsq = u.dsq ∧ (u.given p b o).tsv = u.tsv ∧ (u.given p b o).ope = u.ope
    ∧ (u.given p b o).bdr = u.bdr := by cases p <;> exact ⟨rfl, rfl, rfl, rfl⟩

theorem grants_other {o : Op} (h : o.cmd = .unload) (p : PortId) (next : Nat) (slot : Option Nat) (b : Bbf) :
    b.grants p next o slot = b := by
  unfold Bbf.grants
  rw [h]

/-- What a grant brings about: the operation begins, is taken up with the tape running, or waits for the stop (R130, R131). -/
def State.takesUp (j : Job) (t : State) : State :=
  if t.ope.asking then
    if (t.onOpe (fun e => { e with asking := false })).continues j then
      (t.onOpe (fun e => { e with asking := false })).beginOp j false
    else ((t.onOpe (fun e => { e with asking := false })).onOpe (fun e => { e with waiting := some j, phase := .stop })).engineOrder
      (Tsv.orderStop .engine)
  else t.beginOp j true

theorem grant_eq (hq : (u.port p).queue = [o]) :
    u.grant p b = (u.given p b o).takesUp ((u.given p b o).jobOf p (u.grantedOp o)) := by
  have hgive : ((u.grantSlot p o).2.onPort p (fun q => { q with queue := markGranted (u.grantedOp o) q.queue })).onArb
      (Arb.granted p b (u.grantedOp o)) = u.given p b o := by
    rw [grantSlot_eq]
    cases p
    · have hq' : u.portA.queue = [o] := hq
      simp only [State.onPort, State.onBbf, State.onArb, State.given, hq']
      rfl
    · have hq' : u.portB.queue = [o] := hq
      simp only [State.onPort, State.onBbf, State.onArb, State.given, hq']
      rfl
  rw [← hgive]
  unfold State.grant
  rw [hq]
  dsimp only
  rw [grantSlot_eq]
  rfl

end


/-! ## The step that grants -/

section
variable {u : State} {p : PortId} {o : Op}

theorem hitSlot_of_not_read (hh : u.head p = some o) (h : o.cmd ≠ .readBlock) : u.hitSlot p = none := by
  simp only [State.hitSlot, hh, h, false_and, if_false]

/-- The step that leaves one operation queued, ready and ungranted, grants it. -/
theorem settles_grant {i : Instr} {s : State} (hset : Settles i s u) (he : u.enabled p = true) (hq : (u.port p).queue = [o])
    (hother : (u.port p.other).queue = []) (hg : o.granted = false) (hcmd : ¬ (o.cmd = .pushMark ∨ o.cmd = .returnToMark))
    (hhit : u.hitSlot p = none) (hmay : u.mayChoose = true) (hready : u.opReady p o = true) :
    exec i s = .next ((u.given p (decide (u.arb.holder = some p ∧ u.arb.lastChain = true)) o).takesUp
      ((u.given p (decide (u.arb.holder = some p ∧ u.arb.lastChain = true)) o).jobOf p (u.grantedOp o))).closeAsk.seal := by
  have hh : u.head p = some o := (head_of_queue he hq).trans (if_neg (by rw [hg]; exact Bool.false_ne_true))
  have hcand : u.isCandidate p = true := (isCandidate_of_head hh).trans hready
  have hchain : u.chainGoesOn u.isCandidate p = decide (u.arb.holder = some p ∧ u.arb.lastChain = true) := by
    rw [Bool.eq_iff_iff, decide_eq_true_iff, chainGoesOn_iff]
    have hno := isCandidate_of_headless (head_of_empty hother)
    simp [hcand, hno]
  have hone := fun f => settleOne_grant (head_of_empty hother) f ((portOpAt_of_head hh).trans (if_neg hcmd)) hhit hmay hcand
  refine Eq.trans hset (congrArg _ ?_)
  rw [settle_of_one hq hother (fun f => ⟨false, hone f⟩), grant_eq _ _ _ _ hq, hchain]

end

/-! ## The beginning -/

section
variable (t : State) (j : Job)

theorem takesUp_rest (h : t.ope.asking = false) : t.takesUp j = t.beginOp j true := if_neg (by rw [h]; exact Bool.false_ne_true)

/-- The engine that no longer asks. -/
def State.answeredAsk (t : State) : State := { t with ope := { t.ope with asking := false } }

theorem takesUp_goesOn (h : t.ope.asking = true) (hc : t.answeredAsk.continues j = true) :
    t.takesUp j = t.answeredAsk.beginOp j false := (if_pos h).trans (if_pos hc)

theorem takesUp_waits (h : t.ope.asking = true) (hc : t.answeredAsk.continues j = false) (hramp : t.tsv.order ≠ .faultRamp) :
    t.takesUp j = { t with
      ope := { t.ope with asking := false, waiting := some j, phase := .stop }
      tsv := t.tsv.stopped } :=
  (if_pos h).trans ((if_neg (fun ht => Bool.false_ne_true (hc.symm.trans ht))).trans
    (engineOrder_stop (s := { t with ope := { t.ope with asking := false, waiting := some j, phase := .stop } }) hramp))

theorem runNormal_ope : t.runNormal.ope = t.ope := rfl

theorem runRead_asking (a : Nat) : (t.runRead j a).ope.asking = t.ope.asking := by
  unfold State.runRead
  split <;> rfl

/-- An operation that proceeds at rest asks for nothing. -/
theorem positioned_asking (h : t.ope.asking = false) : (t.positioned j true).ope.asking = false := by
  have hend : ∀ (t : State) c d, (t.endOp j c d true).ope.asking = false := fun t c d => by rw [endOp_ope]; rfl
  have hdata : ∀ t : State, (t.endOfData j true).ope.asking = false := fun t => by
    unfold State.endOfData
    split <;> exact hend _ _ _
  unfold State.positioned
  split
  · split
    · exact hdata t
    · exact (runRead_asking t j 0).trans h
  · exact h
  · exact h
  · split
    · split
      · exact hdata t
      · exact h
    · exact hend _ _ _
  · exact hend _ _ _
  · exact h

theorem positionTo_asking (h : t.ope.asking = false) : (t.positionTo j true).ope.asking = false := by
  unfold State.positionTo
  dsimp only
  split
  · exact positioned_asking t j h
  · split
    · exact h
    · split
      · exact h
      · split <;> exact h

theorem atDataEnd_iff (n : Nat) : t.atDataEnd n = true ↔ (∃ e, t.bdr.eod = some e ∧ e ≤ n) ∨ n = 1048576 := by
  unfold State.atDataEnd
  rw [Bool.or_eq_true, atEnd_iff, decide_eq_true_iff]

/-- When an operation goes on with the tape running (R131). -/
theorem continues_iff : t.continues j = true ↔ (t.ope.posValid = true ∧ t.ope.deckNext = j.n)
    ∧ ((j.op.cmd = .readBlock ∧ ¬ t.atDataEnd j.n = true) ∨ (j.op.cmd = .writeBlock ∨ j.op.cmd = .writeMark)
      ∨ (j.op.cmd = .space ∧ 0 < j.op.param)) := by
  unfold State.continues
  rw [Bool.and_eq_true, Bool.and_eq_true, decide_eq_true_eq]
  refine and_congr_right (fun _ => ?_)
  cases j.op.cmd <;> simp

theorem beginOp_write (b : Bool) (h : j.op.cmd.isWrite = true) : t.beginOp j b = t.positionTo j b := by
  unfold State.beginOp
  rcases (isWrite_iff _).mp h with h | h <;> simp only [h]

theorem beginOp_read (b : Bool) (h : j.op.cmd = .readBlock) : t.beginOp j b =
    if t.atDataEnd j.n then (t.freeOwn j).endOp j .endOfData j.n b else t.positionTo j b := by
  simp only [State.beginOp, h, State.endOfData]

theorem beginOp_forward (b : Bool) (h : j.op.cmd = .space) (hf : 0 < j.op.param) : t.beginOp j b =
    if t.atDataEnd j.n then t.endOp j .endOfData j.op.count b else t.positionTo j b := by
  simp only [State.beginOp, h, State.endOfData, if_pos hf, if_neg (ne_of_gt hf)]

theorem beginOp_nowhere (b : Bool) (h : j.op.cmd = .space) (hf : j.op.param = 0) : t.beginOp j b = t.endOp j .ok 0 b := by
  simp only [State.beginOp, h, if_pos hf]

theorem beginOp_backward (b : Bool) (h : j.op.cmd = .space) (hf : j.op.param < 0) : t.beginOp j b =
    if j.goal = j.n then t.endOp j .ok j.op.count b else t.positionTo j b := by
  simp only [State.beginOp, h, if_neg (ne_of_lt hf), if_neg (Int.not_lt.mpr (Int.le_of_lt hf))]

theorem beginOp_locate (b : Bool) (h : j.op.cmd = .locate) : t.beginOp j b = t.positionTo j b := by
  simp only [State.beginOp, h]

theorem beginOp_rewind (b : Bool) (h : j.op.cmd = .rewind) :
    t.beginOp j b = t.moveTo j .rewinding 0 (decide (¬ 0 < t.tsv.counter)) := by
  simp only [State.beginOp, h]

/-- The state with the operation handed to the deck sequencer. -/
def State.handedOver (t : State) : State := t.onOpe (fun e => { e with job := some { j with stage := .deck }, phase := .move })

theorem beginOp_unload (b : Bool) (h : j.op.cmd = .unload) : t.beginOp j b = (t.handedOver j).unloadStart true := by
  simp only [State.beginOp, h, State.handedOver]

theorem beginOp_load (b : Bool) (h : j.op.cmd = .load) : t.beginOp j b =
    if t.dsq.deck = .ready then (t.handedOver j).finishDeckJob (fun _ => .ok)
    else if t.driveGood then (t.handedOver j).loadStart else (t.handedOver j).loadFail := by
  simp only [State.beginOp, h, State.handedOver]
  rfl

end


/-! ## The job of a grant -/

/-- The block that an operation is for, `next` being its port's next-block number. -/
def blockFor (o : Op) (next : Nat) : Nat :=
  match o.cmd with
  | .writeBlock => o.block.getD next
  | .writeMark => o.block.getD next
  | _ => next

/-- The block that an operation for `n` positions to (R139, R142, R143). -/
def goalFor (d : Bdr) (o : Op) (n : Nat) : Nat :=
  match o.cmd with
  | .locate => d.bound o.param.toNat
  | .space => if 0 < o.param then n else n - o.count
  | _ => n

theorem goalFor_backward {d : Bdr} {o : Op} {n : Nat} (h : o.cmd = .space) (hb : o.param < 0) :
    goalFor d o n = n - o.param.natAbs := by
  unfold goalFor
  rw [h]
  exact if_neg (Int.not_lt.mpr (Int.le_of_lt hb))

theorem bound_of_not_atEnd {d : Bdr} {n : Nat} (h : ¬ d.atEnd n = true) : d.bound n = n := by
  cases he : d.eod with
  | none => exact bound_none he n
  | some e =>
    rw [bound_some he, Nat.min_eq_left]
    exact Nat.le_of_not_le (fun hle => h ((atEnd_iff _ _).mpr ⟨e, he, hle⟩))

theorem goalFor_locate {d : Bdr} {o : Op} {n t : Nat} (h : o.cmd = .locate) (ht : o.param = (t : Int)) :
    goalFor d o n = d.bound t := by
  unfold goalFor
  rw [h, ht]
  rfl

section
variable (u : State) (p : PortId) (b : Bool) (o : Op)

/-- The job of a grant, `goal` being the block it positions to and `toEod` whether that is EOD fixed for a LOCATE. -/
def grantJob (goal : Nat) (toEod : Bool) : Job :=
  { actor := .port p, op := u.grantedOp o, n := blockFor o (u.port p).next, orphan := false, aborted := false, stage := .deck,
    goal := goal, moveTarget := 0, crossed := 0, toEod := toEod }

theorem jobOf_given : (u.given p b o).jobOf p (u.grantedOp o) =
    grantJob u p o (goalFor u.bdr o (blockFor o (u.port p).next)) (decide (o.cmd = .locate ∧ u.bdr.atEnd o.param.toNat = true)) := by
  have hn : (if o.cmd.isWrite then o.block.getD (u.port p).next else (u.port p).next) = blockFor o (u.port p).next := by
    unfold blockFor
    cases o.cmd <;> rfl
  have hnext : ((u.given p b o).port p).next = (u.port p).next := by rw [given_port]
  have hbdr : (u.given p b o).bdr = u.bdr := (given_blocks u p b o).2.2.2
  unfold State.jobOf
  rw [hnext, hbdr, show (u.grantedOp o).cmd = o.cmd from rfl, show (u.grantedOp o).block = o.block from rfl]
  dsimp only
  rw [hn]
  rfl

end

/-- The arbiter after a grant. -/
theorem granted_eq (r : Arb) (p : PortId) (o : Op) : r.granted p (decide (r.holder = some p ∧ r.lastChain = true)) o =
    { r with
      holder := some p, lastServed := p, lastChain := o.chain
      chainRun := if r.holder = some p ∧ r.lastChain = true then min 16 (r.chainRun + 1) else 0 } := by
  unfold Arb.granted
  simp only [decide_eq_true_eq, Config.maxChain]

/-- What an unload leaves says of the state before it the buffer and the writer's queued writes alone. -/
theorem Unloads.of_queues {s t u : State} (h : Unloads t u) (harb : t.arb.writer = s.arb.writer) (hbbf : t.bbf = s.bbf)
    (hqueue : ∀ p, s.arb.writer = some p →
      (t.port p).queue.filter (fun o => o.cmd.isWrite) = (s.port p).queue.filter (fun o => o.cmd.isWrite)) : Unloads s u := by
  refine ⟨h.writeEnable, h.writer, h.directory, h.ports, h.engine, ?_⟩
  have hbuf := h.buffer
  rw [harb, hbbf] at hbuf
  cases hw : s.arb.writer with
  | none =>
    rw [hw] at hbuf
    exact hbuf
  | some p =>
    rw [hw] at hbuf
    dsimp only at hbuf ⊢
    rw [← hqueue p hw]
    exact hbuf

/-- The arbiter's grant stands at the start of an unload, and the engine asks for nothing more than it did. -/
theorem unloadStart_arb (s : State) : (s.unloadStart true).arb.holder = s.arb.holder
    ∧ (s.unloadStart true).arb.lastServed = s.arb.lastServed ∧ (s.unloadStart true).ope.asking = s.ope.asking := by
  have harb : s.releaseForUnload.arb.holder = s.arb.holder ∧ s.releaseForUnload.arb.lastServed = s.arb.lastServed := by
    cases h : s.arb.writer with
    | none => rw [releaseForUnload_of_none s h]; exact ⟨rfl, rfl⟩
    | some p => rw [releaseForUnload_of_some s h, addEvents_arb, State.onArb_arb, loseOps_arb]; exact ⟨rfl, rfl⟩
  have heff : s.unloadEffects.arb = s.releaseForUnload.arb := by rw [unloadEffects_eq]
  rw [unloadStart_true, addEvents_arb, addEvents_ope, show s.unloadEffects.enterRewindOut.arb = s.unloadEffects.arb from rfl,
    show s.unloadEffects.enterRewindOut.ope = s.unloadEffects.ope from rfl, heff, unloadEffects_ope]
  exact ⟨harb.1, harb.2, rfl⟩

/-! ## Readiness -/

section
variable {u : State} {p : PortId} {o : Op}

theorem opReady_of_motion (hc : o.cmd ∈ [.writeBlock, .writeMark, .space, .locate, .rewind]) (hdeck : u.dsq.deck = .ready)
    (hon : u.dsq.online = true) : u.opReady p o = true := by
  unfold State.opReady
  rw [hdeck, hon]
  cases ho : o.cmd <;> simp_all

theorem opReady_of_read (hc : o.cmd = .readBlock) (hdeck : u.dsq.deck = .ready) (hon : u.dsq.online = true)
    (hcharge : u.charge p < 8)
    (hwrites : ∀ x ∈ u.bbf.slots, (x.state = .pending ∨ x.state = .writing) → x.block ≠ some (u.port p).next) :
    u.opReady p o = true := by
  have hno : u.bbf.writesBlock (u.port p).next = false := by
    unfold Bbf.writesBlock
    rw [List.any_eq_false]
    intro x hx h
    simp only [Bool.and_eq_true, Bool.or_eq_true, decide_eq_true_eq] at h
    exact hwrites x hx h.1 h.2
  have hlt : decide (u.charge p < Config.maxCharge) = true := decide_eq_true_iff.mpr hcharge
  simp only [State.opReady, hc, hdeck, hon, hlt, hno]
  rfl

end

/-! ## An operation that ends at its grant -/

/-- What `ends` of the statement says of an operation that ends where it was granted. -/
theorem endOp_given {u w : State} {p : PortId} {o : Op} {b : Bool} {j : Job} (c : Code) (detail : Nat) {code : Code}
    (hdsq : w.dsq = u.dsq) (htsv : w.tsv = u.tsv) (hbdr : w.bdr = u.bdr)
    (hport : w.port p = (u.given p b o).port p) (hj : j.port = some p) (hop : j.op = u.grantedOp o)
    (hcode : u.engineCode c = code) : let t := w.endOp j c detail true
    t.ope.asking = false ∧ t.arb = w.arb ∧ t.ope.job = none ∧ t.ope.phase = .idle ∧ t.tsv = u.tsv ∧ t.bdr = u.bdr
      ∧ t.dsq = u.dsq ∧ (t.port p).queue = [] ∧ (t.port p).next = (u.port p).next
      ∧ (t.port p).status = (u.port p).status ++ (if o.owed then [opRec o code detail] else []) ∧ t.bbf = w.bbf := by
  dsimp only
  rw [endOp_ope, endOp_arb, endOp_tsv, endOp_bdr, endOp_dsq, endOp_bbf, endOp_port_own w j true c detail hj, hport, given_port,
    hop, engineCode_of_tsv (t := u) htsv, hcode]
  refine ⟨rfl, rfl, rfl, rfl, htsv, hbdr, hdsq, rfl, rfl, ?_, rfl⟩
  show (u.port p).status ++ (if j.op.owed then _ else []) = _
  rw [hop]
  rfl


end Sys2Proof.Machine

/-! PROOF. The step that grants a lone operation, kind by kind: at rest, as a continuation and before the stop (R130, R131, R157 to R159). -/

namespace Sys2Proof.Machine

/-- A step that leaves `o` the one queued operation, ungranted, at a port in service, with no operation at work. -/
structure Lone (i : Instr) (s u : State) (p : PortId) (o : Op) : Prop where
  settles : Settles i s u
  enabled : u.enabled p = true
  queue : (u.port p).queue = [o]
  other : (u.port p.other).queue = []
  ungranted : o.granted = false
  noJob : u.ope.job = none
  online : u.dsq.online = true
  noRamp : u.tsv.order ≠ .faultRamp

/-- The same step with the engine IDLE. -/
structure LoneAtRest (i : Instr) (s u : State) (p : PortId) (o : Op) : Prop extends Lone i s u p o where
  idle : u.ope.phase = .idle
  notAsking : u.ope.asking = false

/-- The state in which the lone operation has been granted, the chain run spelled out. -/
def State.loneGiven (u : State) (p : PortId) (o : Op) : State :=
  { u.onPort p (fun q => { q with queue := [u.grantedOp o] }) with
    arb := { u.arb with
      holder := some p, lastServed := p, lastChain := o.chain
      chainRun := if u.arb.holder = some p ∧ u.arb.lastChain = true then min 16 (u.arb.chainRun + 1) else 0 }
    bbf := u.bbf.grants p (u.port p).next o (u.slotFor o) }

/-- The job that the lone operation is granted with. -/
def State.loneJob (u : State) (p : PortId) (o : Op) : Job :=
  grantJob u p o (goalFor u.bdr o (blockFor o (u.port p).next)) (decide (o.cmd = .locate ∧ u.bdr.atEnd o.param.toNat = true))

/-- Nothing of R85 and R157 stands against a READ of the port's next block from the tape. -/
def State.mayRead (u : State) (p : PortId) : Prop :=
  u.charge p < 8 ∧ u.hitSlot p = none
    ∧ ∀ x ∈ u.bbf.slots, (x.state = .pending ∨ x.state = .writing) → x.block ≠ some (u.port p).next

/-- The kinds of operation that the READY deck can be granted for, an UNLOAD and a LOAD apart. -/
def State.mayGrant (u : State) (p : PortId) (o : Op) : Prop :=
  o.cmd ∈ [.writeBlock, .writeMark, .space, .locate, .rewind] ∨ o.cmd = .readBlock ∧ u.mayRead p

/-- Block `n` lies at or beyond the end of the data (R160). -/
def Bdr.DataEnds (d : Bdr) (n : Nat) : Prop := (∃ e, d.eod = some e ∧ e ≤ n) ∨ n = 1048576

/-- The step in which the lone operation is granted and ends at once. -/
def EndsAtGrant (i : Instr) (s u : State) (p : PortId) (o : Op) (code : Code) (detail : Nat) : Prop :=
  ∃ t, Seals i s t ∧ t.arb = (u.loneGiven p o).arb ∧ t.ope.job = none ∧ t.ope.phase = .idle ∧ t.tsv = u.tsv ∧ t.bdr = u.bdr
    ∧ t.dsq = u.dsq ∧ (t.port p).queue = [] ∧ (t.port p).next = (u.port p).next
    ∧ (t.port p).status = (u.port p).status ++ (if o.owed then [opRec o code detail] else [])
    ∧ (o.cmd = .readBlock → ∀ k, u.slotFor o = some k → k < u.bbf.slots.length → t.bbf.slot k = Slot.freed)

section
variable (u : State) (p : PortId) (o : Op)

theorem given_lone : u.given p (decide (u.arb.holder = some p ∧ u.arb.lastChain = true)) o = u.loneGiven p o := by
  unfold State.given
  rw [granted_eq]
  rfl

theorem loneGiven_port : (u.loneGiven p o).port p = { u.port p with queue := [u.grantedOp o] } := by cases p <;> rfl

theorem loneGiven_pendingEv (q : PortId) : ((u.loneGiven p o).port q).pendingEv = (u.port q).pendingEv := by
  cases p <;> cases q <;> rfl

theorem loneGiven_dsq : (u.loneGiven p o).dsq = u.dsq := by cases p <;> rfl

theorem loneGiven_tsv : (u.loneGiven p o).tsv = u.tsv := by cases p <;> rfl

theorem loneGiven_ope : (u.loneGiven p o).ope = u.ope := by cases p <;> rfl

theorem loneGiven_bdr : (u.loneGiven p o).bdr = u.bdr := by cases p <;> rfl

theorem loneJob_port : (u.loneJob p o).port = some p := Job.port_eq.mpr ⟨rfl, rfl⟩

end

/-! ## What the kind of the operation settles -/

section
variable {u : State} {p : PortId} {o : Op}

theorem loneJob_eq {goal : Nat} {eod : Bool} (hgoal : goalFor u.bdr o (blockFor o (u.port p).next) = goal)
    (heod : decide (o.cmd = .locate ∧ u.bdr.atEnd o.param.toNat = true) = eod) : u.loneJob p o = grantJob u p o goal eod := by
  rw [State.loneJob, hgoal, heod]

theorem toEod_of_not_locate (h : o.cmd ≠ .locate) : decide (o.cmd = .locate ∧ u.bdr.atEnd o.param.toNat = true) = false :=
  decide_eq_false (fun hl => h hl.1)

theorem goalFor_read {d : Bdr} {n : Nat} (h : o.cmd = .readBlock) : goalFor d o n = n := by
  unfold goalFor
  rw [h]

theorem goalFor_write {d : Bdr} {n : Nat} (h : o.cmd = .writeBlock ∨ o.cmd = .writeMark) : goalFor d o n = n := by
  unfold goalFor
  rcases h with h | h <;> rw [h]

theorem goalFor_forward {d : Bdr} {n : Nat} (h : o.cmd = .space) (hf : 0 < o.param) : goalFor d o n = n := by
  unfold goalFor
  rw [h]
  exact if_pos hf

theorem blockFor_read {next : Nat} (h : o.cmd = .readBlock) : blockFor o next = next := by
  unfold blockFor
  rw [h]

theorem blockFor_space {next : Nat} (h : o.cmd = .space) : blockFor o next = next := by
  unfold blockFor
  rw [h]

theorem mayGrant_write (h : o.cmd = .writeBlock ∨ o.cmd = .writeMark) : u.mayGrant p o :=
  .inl (by rcases h with h | h <;> rw [h] <;> decide)

theorem mayGrant_space (h : o.cmd = .space) : u.mayGrant p o := .inl (by rw [h]; decide)

theorem mayGrant_locate (h : o.cmd = .locate) : u.mayGrant p o := .inl (by rw [h]; decide)

theorem mayGrant_rewind (h : o.cmd = .rewind) : u.mayGrant p o := .inl (by rw [h]; decide)

theorem loneJob_forward {o : Op} (h : o.cmd = .space) (hf : 0 < o.param) :
    u.loneJob p o = grantJob u p o (blockFor o (u.port p).next) false :=
  loneJob_eq (goalFor_forward h hf) (toEod_of_not_locate (by rw [h]; decide))

theorem loneJob_read (h : o.cmd = .readBlock) : u.loneJob p o = grantJob u p o (blockFor o (u.port p).next) false :=
  loneJob_eq (goalFor_read h) (toEod_of_not_locate (by rw [h]; decide))

theorem loneJob_write (h : o.cmd = .writeBlock ∨ o.cmd = .writeMark) :
    u.loneJob p o = grantJob u p o (blockFor o (u.port p).next) false :=
  loneJob_eq (goalFor_write h) (toEod_of_not_locate (by rcases h with h | h <;> rw [h] <;> decide))

theorem loneJob_backward (h : o.cmd = .space) (hb : o.param < 0) :
    u.loneJob p o = grantJob u p o ((u.port p).next - o.param.natAbs) false :=
  loneJob_eq (by rw [goalFor_backward h hb, blockFor_space h]) (toEod_of_not_locate (by rw [h]; decide))

theorem atDataEnd_loneJob : (u.loneGiven p o).atDataEnd (u.loneJob p o).n = true ↔
    u.bdr.DataEnds (blockFor o (u.port p).next) := by
  rw [atDataEnd_iff, loneGiven_bdr]
  rfl

end

/-! ## The step -/

section
variable {i : Instr} {s u : State} {p : PortId} {o : Op}

theorem Lone.head (h : Lone i s u p o) : u.head p = some o :=
  (head_of_queue h.enabled h.queue).trans (if_neg (by rw [h.ungranted]; exact Bool.false_ne_true))

theorem Lone.mayChoose_idle (h : Lone i s u p o) (hidle : u.ope.phase = .idle) : u.mayChoose = true := by
  simp [State.mayChoose, hidle, h.noJob]

theorem mayChoose_asking (h : u.ope.asking = true) : u.mayChoose = true := by simp [State.mayChoose, h]

/-- The lone operation, where it is ready, is granted. -/
theorem Lone.granted (h : Lone i s u p o) (hcmd : ¬ (o.cmd = .pushMark ∨ o.cmd = .returnToMark)) (hhit : u.hitSlot p = none)
    (hmay : u.mayChoose = true) (hready : u.opReady p o = true) :
    exec i s = .next ((u.loneGiven p o).takesUp (u.loneJob p o)).closeAsk.seal := by
  have hx := settles_grant h.settles h.enabled h.queue h.other h.ungranted hcmd hhit hmay hready
  rw [jobOf_given, given_lone] at hx
  exact hx

theorem Lone.granted_ready (h : Lone i s u p o) (hmay : u.mayChoose = true) (hdeck : u.dsq.deck = .ready)
    (hc : u.mayGrant p o) : exec i s = .next ((u.loneGiven p o).takesUp (u.loneJob p o)).closeAsk.seal := by
  rcases hc with hc | ⟨hc, hcharge, hhit, hwrites⟩
  · have hcmds : o.cmd ≠ .readBlock ∧ ¬ (o.cmd = .pushMark ∨ o.cmd = .returnToMark) := by
      cases ho : o.cmd <;> simp_all
    exact h.granted hcmds.2 (hitSlot_of_not_read h.head hcmds.1) hmay (opReady_of_motion hc hdeck h.online)
  · exact h.granted (by rw [hc]; decide) hhit hmay (opReady_of_read hc hdeck h.online hcharge hwrites)

theorem LoneAtRest.quiet (h : LoneAtRest i s u p o) : (u.loneGiven p o).ope.asking = false := by
  rw [loneGiven_ope]
  exact h.notAsking

theorem LoneAtRest.begins_of_ready (h : LoneAtRest i s u p o) (hcmd : o.cmd = .load ∨ o.cmd = .unload)
    (hready : u.opReady p o = true) :
    exec i s = .next ((u.loneGiven p o).beginOp (u.loneJob p o) true).closeAsk.seal := by
  rw [← takesUp_rest _ _ h.quiet]
  have hcmds : o.cmd ≠ .readBlock ∧ ¬ (o.cmd = .pushMark ∨ o.cmd = .returnToMark) := by
    rcases hcmd with hc | hc <;> rw [hc] <;> decide
  exact h.granted hcmds.2 (hitSlot_of_not_read h.head hcmds.1) (h.mayChoose_idle h.idle) hready

theorem LoneAtRest.begins (h : LoneAtRest i s u p o) (hdeck : u.dsq.deck = .ready) (hc : u.mayGrant p o) :
    exec i s = .next ((u.loneGiven p o).beginOp (u.loneJob p o) true).closeAsk.seal := by
  rw [← takesUp_rest _ _ h.quiet]
  exact h.granted_ready (h.mayChoose_idle h.idle) hdeck hc

/-- An operation that ends where it begins, in a state `w` that the beginning has changed the buffer of at most. -/
theorem endsAtGrant_of_endOp {w : State} {j : Job} (c : Code) (d : Nat) {code : Code} (hdsq : w.dsq = u.dsq)
    (htsv : w.tsv = u.tsv) (hbdr : w.bdr = u.bdr) (harb : w.arb = (u.loneGiven p o).arb)
    (hport : w.port p = (u.loneGiven p o).port p) (hj : j.port = some p) (hop : j.op = u.grantedOp o)
    (hcode : u.engineCode c = code)
    (hslot : o.cmd = .readBlock → ∀ k, u.slotFor o = some k → k < u.bbf.slots.length → w.bbf.slot k = Slot.freed)
    (hx : exec i s = .next (w.endOp j c d true).closeAsk.seal) : EndsAtGrant i s u p o code d := by
  obtain ⟨hno, harb', hjob, hphase, htsv', hbdr', hdsq', hqueue, hnext, hstatus, hbbf⟩ :=
    endOp_given (b := decide (u.arb.holder = some p ∧ u.arb.lastChain = true)) c d hdsq htsv hbdr
      (hport.trans (congrArg (State.port · p) (given_lone u p o).symm)) hj hop hcode
  rw [closeAsk_of_not_asking hno] at hx
  refine ⟨_, hx, harb'.trans harb, hjob, hphase, htsv', hbdr', hdsq', hqueue, hnext, hstatus, fun hc k hk hlt => ?_⟩
  rw [hbbf]
  exact hslot hc k hk hlt

/-- An operation other than a READ that ends where it begins. -/
theorem endsAtGrant_of_untouched {c : Code} {d : Nat} {code : Code} (hcode : u.engineCode c = code)
    (hc : o.cmd ≠ .readBlock) (hx : exec i s = .next ((u.loneGiven p o).endOp (u.loneJob p o) c d true).closeAsk.seal) :
    EndsAtGrant i s u p o code d :=
  endsAtGrant_of_endOp c d (loneGiven_dsq u p o) (loneGiven_tsv u p o) (loneGiven_bdr u p o) rfl rfl (loneJob_port u p o) rfl hcode
    (fun hr => absurd hr hc) hx

theorem LoneAtRest.positions (h : LoneAtRest i s u p o) {goal : Nat} {eod : Bool}
    (hjob : u.loneJob p o = grantJob u p o goal eod)
    (hx : exec i s = .next ((u.loneGiven p o).positionTo (u.loneJob p o) true).closeAsk.seal) :
    Seals i s ((u.loneGiven p o).positionTo (grantJob u p o goal eod) true) := by
  rw [closeAsk_of_not_asking (positionTo_asking _ _ h.quiet), hjob] at hx
  exact hx

end

/-! ## At rest in READY -/

section
variable {i : Instr} {s u : State} {p : PortId} {o : Op}

/-- A READ at the end of the data ends there, its slot free again. -/
theorem LoneAtRest.read_ends (h : LoneAtRest i s u p o) (hdeck : u.dsq.deck = .ready) (hc : o.cmd = .readBlock)
    (hmay : u.mayRead p) (hat : u.bdr.DataEnds (blockFor o (u.port p).next)) :
    EndsAtGrant i s u p o .endOfData (u.port p).next := by
  have hx := h.begins hdeck (.inr ⟨hc, hmay⟩)
  rw [beginOp_read _ _ _ hc, if_pos (atDataEnd_loneJob.mpr hat),
    show (u.loneJob p o).n = (u.port p).next from blockFor_read hc] at hx
  exact endsAtGrant_of_endOp (w := (u.loneGiven p o).freeOwn (u.loneJob p o)) _ _ (loneGiven_dsq u p o) (loneGiven_tsv u p o)
    (loneGiven_bdr u p o) rfl (freeOwn_port _ _ p) (loneJob_port u p o) rfl (engineCode_ne_ok (by decide))
    (fun _ k hk _ => slot_freeOwn _ _ hk) hx

theorem LoneAtRest.read_positions (h : LoneAtRest i s u p o) (hdeck : u.dsq.deck = .ready) (hc : o.cmd = .readBlock)
    (hmay : u.mayRead p) (hat : ¬ u.bdr.DataEnds (blockFor o (u.port p).next)) :
    Seals i s ((u.loneGiven p o).positionTo (grantJob u p o (blockFor o (u.port p).next) false) true) := by
  have hx := h.begins hdeck (.inr ⟨hc, hmay⟩)
  rw [beginOp_read _ _ _ hc, if_neg (mt atDataEnd_loneJob.mp hat)] at hx
  exact h.positions (loneJob_read hc) hx

theorem LoneAtRest.write_positions (h : LoneAtRest i s u p o) (hdeck : u.dsq.deck = .ready)
    (hc : o.cmd = .writeBlock ∨ o.cmd = .writeMark) :
    Seals i s ((u.loneGiven p o).positionTo (grantJob u p o (blockFor o (u.port p).next) false) true) := by
  have hx := h.begins hdeck (mayGrant_write hc)
  rw [beginOp_write _ _ _ ((isWrite_iff _).mpr hc)] at hx
  exact h.positions (loneJob_write hc) hx

theorem LoneAtRest.space_nowhere (h : LoneAtRest i s u p o) (hdeck : u.dsq.deck = .ready) (hc : o.cmd = .space)
    (h0 : o.param = 0) : EndsAtGrant i s u p o (if u.tsv.eotPassed then .okEot else .ok) 0 := by
  have hx := h.begins hdeck (mayGrant_space hc)
  rw [beginOp_nowhere _ _ _ hc h0] at hx
  exact endsAtGrant_of_untouched (engineCode_ok u) (by rw [hc]; decide) hx

theorem LoneAtRest.space_ends (h : LoneAtRest i s u p o) (hdeck : u.dsq.deck = .ready) (hc : o.cmd = .space)
    (hf : 0 < o.param) (hat : u.bdr.DataEnds (blockFor o (u.port p).next)) :
    EndsAtGrant i s u p o .endOfData o.param.natAbs := by
  have hx := h.begins hdeck (mayGrant_space hc)
  rw [beginOp_forward _ _ _ hc hf, if_pos (atDataEnd_loneJob.mpr hat)] at hx
  exact endsAtGrant_of_untouched (engineCode_ne_ok (by decide)) (by rw [hc]; decide) hx

theorem LoneAtRest.space_crosses (h : LoneAtRest i s u p o) (hdeck : u.dsq.deck = .ready) (hc : o.cmd = .space)
    (hf : 0 < o.param) (hat : ¬ u.bdr.DataEnds (blockFor o (u.port p).next)) :
    Seals i s ((u.loneGiven p o).positionTo (grantJob u p o (blockFor o (u.port p).next) false) true) := by
  have hx := h.begins hdeck (mayGrant_space hc)
  rw [beginOp_forward _ _ _ hc hf, if_neg (mt atDataEnd_loneJob.mp hat)] at hx
  exact h.positions (loneJob_forward hc hf) hx

/-- A backward SPACE at block 0 goes nowhere. -/
theorem LoneAtRest.space_at_zero (h : LoneAtRest i s u p o) (hdeck : u.dsq.deck = .ready) (hc : o.cmd = .space)
    (hb : o.param < 0) (h0 : (u.port p).next = 0) :
    EndsAtGrant i s u p o (if u.tsv.eotPassed then .okEot else .ok) o.param.natAbs := by
  have hx := h.begins hdeck (mayGrant_space hc)
  have hgoal : (u.loneJob p o).goal = (u.loneJob p o).n := by
    rw [loneJob_backward hc hb]
    show (u.port p).next - o.param.natAbs = blockFor o (u.port p).next
    rw [blockFor_space hc, h0, Nat.zero_sub]
  rw [beginOp_backward _ _ _ hc hb, if_pos hgoal] at hx
  exact endsAtGrant_of_untouched (engineCode_ok u) (by rw [hc]; decide) hx

theorem LoneAtRest.space_back (h : LoneAtRest i s u p o) (hdeck : u.dsq.deck = .ready) (hc : o.cmd = .space)
    (hb : o.param < 0) (h0 : 0 < (u.port p).next) :
    Seals i s ((u.loneGiven p o).positionTo (grantJob u p o ((u.port p).next - o.param.natAbs) false) true) := by
  have hx := h.begins hdeck (mayGrant_space hc)
  have hgoal : ¬ (u.loneJob p o).goal = (u.loneJob p o).n := by
    rw [loneJob_backward hc hb]
    show ¬ (u.port p).next - o.param.natAbs = blockFor o (u.port p).next
    rw [blockFor_space hc]
    omega
  rw [beginOp_backward _ _ _ hc hb, if_neg hgoal] at hx
  exact h.positions (loneJob_backward hc hb) hx

/-- A LOCATE of a block below EOD positions to it. -/
theorem LoneAtRest.locate_positions (h : LoneAtRest i s u p o) (hdeck : u.dsq.deck = .ready) {t : Nat}
    (hc : o.cmd = .locate) (ht : o.param = (t : Int)) (hb : ¬ ∃ e, u.bdr.eod = some e ∧ e ≤ t) :
    Seals i s ((u.loneGiven p o).positionTo (grantJob u p o t false) true) := by
  have hx := h.begins hdeck (mayGrant_locate hc)
  rw [beginOp_locate _ _ _ hc] at hx
  have hno : ¬ u.bdr.atEnd t = true := mt (atEnd_iff _ _).mp hb
  refine h.positions (loneJob_eq ((goalFor_locate hc ht).trans (bound_of_not_atEnd hno)) (decide_eq_false (fun hl => hno ?_))) hx
  have hat := hl.2
  rwa [ht, Int.toNat_natCast] at hat

/-- A LOCATE at or beyond EOD positions to EOD. -/
theorem LoneAtRest.locate_to_eod (h : LoneAtRest i s u p o) (hdeck : u.dsq.deck = .ready) {t e : Nat}
    (hc : o.cmd = .locate) (ht : o.param = (t : Int)) (he : u.bdr.eod = some e) (hle : e ≤ t) :
    Seals i s ((u.loneGiven p o).positionTo (grantJob u p o e true) true) := by
  have hx := h.begins hdeck (mayGrant_locate hc)
  rw [beginOp_locate _ _ _ hc] at hx
  refine h.positions (loneJob_eq ?_ (decide_eq_true ⟨hc, ?_⟩)) hx
  · rw [goalFor_locate hc ht, bound_some he, Nat.min_eq_right hle]
  · rw [ht, Int.toNat_natCast]
    exact (atEnd_iff _ _).mpr ⟨e, he, hle⟩

/-- A REWIND moves to position 0 (R144). -/
theorem LoneAtRest.rewind_moves (h : LoneAtRest i s u p o) (hdeck : u.dsq.deck = .ready) (hc : o.cmd = .rewind) :
    ∃ (j : Job) (m : MoveRec), j.stage = .rewinding ∧ j.op = u.grantedOp o ∧ j.actor = .port p ∧ m.target = 0
      ∧ (m.forward = true ↔ u.tsv.counter ≤ 0)
      ∧ Seals i s
          { u.loneGiven p o with
            ope := { u.ope with job := some j, phase := .move, corrections := 0 }
            tsv := { u.tsv with order := .move m .engine, report := none } } := by
  have hx := h.begins hdeck (mayGrant_rewind hc)
  rw [beginOp_rewind _ _ _ hc, closeAsk_of_not_asking (s := (u.loneGiven p o).moveTo _ .rewinding 0 _) h.quiet,
    moveTo_eq _ _ _ _ (by rw [loneGiven_tsv]; exact h.noRamp), loneGiven_tsv, loneGiven_ope] at hx
  exact ⟨{ u.loneJob p o with stage := .rewinding, moveTarget := 0 }, _, rfl, rfl, rfl, rfl,
    decide_eq_true_iff.trans Int.not_lt, hx⟩

/-- An UNLOAD starts the deck's unload (R10, R91). -/
theorem LoneAtRest.unload_starts (h : LoneAtRest i s u p o) (hdeck : u.dsq.deck = .ready) (hc : o.cmd = .unload)
    (hw : u.arb.writer ≠ some p.other) :
    ∃ t j, Seals i s t ∧ t.ope.job = some j ∧ j.op = u.grantedOp o ∧ j.stage = .deck ∧ t.ope.phase = .move
      ∧ t.dsq.deck = .rewindOut ∧ t.arb.holder = some p ∧ t.arb.lastServed = p
      ∧ Unloads u t ∧ AddsEvents u t EventKind.deckNotReady.bit
      ∧ ∃ m, t.tsv.order = .move m .deck ∧ m.target = -2000 ∧ m.forward = false := by
  have hready : u.opReady p o = true := by simp [State.opReady, hc, hdeck, h.online, hw, h.other]
  have hx := h.begins_of_ready (.inr hc) hready
  have hport : ∀ q, ((u.loneGiven p o).handedOver (u.loneJob p o)).port q = (u.loneGiven p o).port q :=
    State.onOpe_port _ _
  obtain ⟨hd, hunl, hev, htsv, hjob, hphase, -⟩ := unloadStart_leaves ((u.loneGiven p o).handedOver (u.loneJob p o))
  obtain ⟨hholder, hserved, hno⟩ := unloadStart_arb ((u.loneGiven p o).handedOver (u.loneJob p o))
  rw [beginOp_unload _ _ _ hc, closeAsk_of_not_asking (hno.trans h.quiet)] at hx
  refine ⟨_, { u.loneJob p o with stage := .deck }, hx, hjob, rfl, rfl, hphase, hd, hholder, hserved,
    hunl.of_queues rfl (grants_other hc _ _ _ _) (fun q hwq => ?_), fun q hen => ?_, ?_⟩
  · have hqp : q = p := (PortId.eq_or_other p q).resolve_right (fun hq => hw (hq ▸ hwq))
    rw [hqp, hport, loneGiven_port, h.queue]
    simp [State.grantedOp, hc, Cmd.isWrite]
  · rw [← loneGiven_pendingEv u p o q, ← hport q]
    exact hev q ((enabled_of_dsq (t := u) (loneGiven_dsq u p o) q).trans hen)
  · rw [htsv]
    exact ⟨_, rfl, rfl, rfl⟩

end

/-! ## A LOAD at rest -/

section
variable {i : Instr} {s u : State} {p : PortId} {o : Op}

theorem LoneAtRest.load_begins (h : LoneAtRest i s u p o) (hc : o.cmd = .load)
    (hdeck : u.dsq.deck = .ready ∨ u.dsq.deck = .unloaded) : exec i s = .next
      (if u.dsq.deck = .ready then ((u.loneGiven p o).handedOver (u.loneJob p o)).finishDeckJob (fun _ => .ok)
       else if (u.loneGiven p o).driveGood then ((u.loneGiven p o).handedOver (u.loneJob p o)).loadStart
       else ((u.loneGiven p o).handedOver (u.loneJob p o)).loadFail).closeAsk.seal := by
  have hready : u.opReady p o = true := by rcases hdeck with hd | hd <;> simp [State.opReady, hc, hd, h.online, h.idle]
  have hx := h.begins_of_ready (.inl hc) hready
  rw [beginOp_load _ _ _ hc, loneGiven_dsq] at hx
  exact hx

theorem driveGood_loneGiven : (u.loneGiven p o).driveGood = true ↔ u.dsq.ampRdy = true ∧ u.dsq.ampFlt = false := by
  rw [driveGood_iff, loneGiven_dsq]

theorem LoneAtRest.load_ready (h : LoneAtRest i s u p o) (hc : o.cmd = .load) (hdeck : u.dsq.deck = .ready) :
    EndsAtGrant i s u p o (if u.tsv.eotPassed then .okEot else .ok) 0 := by
  have hx := h.load_begins hc (.inl hdeck)
  rw [if_pos hdeck, finishDeckJob_of_deck ((u.loneGiven p o).handedOver (u.loneJob p o)) (fun _ => .ok) rfl rfl] at hx
  exact endsAtGrant_of_endOp (w := (u.loneGiven p o).handedOver (u.loneJob p o)) .ok 0 (j := { u.loneJob p o with stage := .deck })
    (loneGiven_dsq u p o) (loneGiven_tsv u p o) (loneGiven_bdr u p o) rfl (State.onOpe_port _ _ _) (loneJob_port u p o) rfl
    (engineCode_ok u) (fun hr => absurd (hc.symm.trans hr) (by decide)) hx

/-- A LOAD in UNLOADED with the drive lines good enters VACUUM_UP (R4). -/
theorem LoneAtRest.load_starts (h : LoneAtRest i s u p o) (hc : o.cmd = .load) (hdeck : u.dsq.deck = .unloaded)
    (hdrive : u.dsq.ampRdy = true ∧ u.dsq.ampFlt = false) (hvac : ¬ (u.dsq.vacS = true ∧ u.dsq.vacT = true)) :
    ∃ t j, Seals i s t ∧ t.ope = { u.ope with job := some j, phase := .move } ∧ j.op = u.grantedOp o ∧ j.stage = .deck
      ∧ t.dsq = { u.dsq with deck := .vacuumUp, timer := some .vacuumUp } ∧ t.arb = (u.loneGiven p o).arb := by
  have hx := h.load_begins hc (.inr hdeck)
  have hstart : ((u.loneGiven p o).handedOver (u.loneJob p o)).loadStart = _ :=
    if_neg (show ¬ (((u.loneGiven p o).dsq.vacS && (u.loneGiven p o).dsq.vacT) = true) by
      rw [loneGiven_dsq, Bool.and_eq_true]; exact hvac)
  rw [if_neg (by rw [hdeck]; decide), if_pos (driveGood_loneGiven.mpr hdrive),
    closeAsk_of_not_asking (s := ((u.loneGiven p o).handedOver (u.loneJob p o)).loadStart) (by rw [hstart]; exact h.quiet),
    hstart] at hx
  refine ⟨_, { u.loneJob p o with stage := .deck }, hx, ?_, rfl, rfl, ?_, rfl⟩
  · rw [← loneGiven_ope u p o]
    rfl
  · rw [← loneGiven_dsq u p o]
    rfl

/-- A LOAD in UNLOADED with the drive lines not good fails (R9). -/
theorem LoneAtRest.load_fails (h : LoneAtRest i s u p o) (hc : o.cmd = .load) (hdeck : u.dsq.deck = .unloaded)
    (hdrive : ¬ (u.dsq.ampRdy = true ∧ u.dsq.ampFlt = false)) :
    ∃ t, Seals i s t ∧ t.dsq.deck = .unloaded ∧ t.ope.job = none ∧ t.ope.phase = .idle ∧ t.tsv.vc = 0
      ∧ (t.port p).queue = []
      ∧ (t.port p).status = (u.port p).status ++ (if o.owed then [opRec o .loadFailed 0] else []) := by
  have hx := h.load_begins hc (.inr hdeck)
  have hcode : unloadedCode (u.loneJob p o).op.cmd = .loadFailed := by
    rw [show (u.loneJob p o).op.cmd = .load from hc]
    rfl
  have hfail : ((u.loneGiven p o).handedOver (u.loneJob p o)).loadFail =
      ((u.loneGiven p o).handedOver (u.loneJob p o)).failedLoad.endOp { u.loneJob p o with stage := .deck }
        (unloadedCode (u.loneJob p o).op.cmd) 0 true :=
    (loadFail_eq _).trans
      (finishDeckJob_of_deck ((u.loneGiven p o).handedOver (u.loneJob p o)).failedLoad unloadedCode rfl rfl)
  have hown := endOp_port_own ((u.loneGiven p o).handedOver (u.loneJob p o)).failedLoad
    { u.loneJob p o with stage := .deck } true .loadFailed 0 (loneJob_port u p o)
  have hport : ((u.loneGiven p o).handedOver (u.loneJob p o)).failedLoad.port p = (u.loneGiven p o).port p := by
    cases p <;> rfl
  rw [hport, loneGiven_port, engineCode_ne_ok (c := .loadFailed) (by decide)] at hown
  rw [hcode] at hfail
  rw [if_neg (by rw [hdeck]; decide), if_neg (mt driveGood_loneGiven.mp hdrive), hfail,
    closeAsk_of_not_asking (by rw [endOp_ope]; rfl)] at hx
  refine ⟨_, hx, ?_, ?_, ?_, ?_, ?_, ?_⟩
  · rw [endOp_dsq]; rfl
  · rw [endOp_ope]; rfl
  · rw [endOp_ope]; rfl
  · rw [endOp_tsv]; rfl
  all_goals
    rw [hown]
    rfl

end

/-! ## At an end point -/

section
variable {i : Instr} {s u : State} {p : PortId} {o : Op}

/-- The state in which the engine, asking at an end point, has been answered. -/
def State.loneTaken (u : State) (p : PortId) (o : Op) : State :=
  { u.loneGiven p o with ope := { u.ope with asking := false } }

/-- The lone operation would go on from where the tape is. -/
def State.GoesOn (u : State) (p : PortId) (o : Op) : Prop :=
  u.ope.posValid = true ∧ u.ope.deckNext = blockFor o (u.port p).next

theorem answeredAsk_loneGiven : (u.loneGiven p o).answeredAsk = u.loneTaken p o := by
  unfold State.answeredAsk
  rw [loneGiven_ope]
  rfl

theorem atDataEnd_loneTaken (n : Nat) : (u.loneTaken p o).atDataEnd n = true ↔ u.bdr.DataEnds n := by
  rw [atDataEnd_iff, show (u.loneTaken p o).bdr = u.bdr from loneGiven_bdr u p o]
  rfl

theorem continues_loneTaken : (u.loneTaken p o).continues (u.loneJob p o) = true ↔ u.GoesOn p o
    ∧ ((o.cmd = .readBlock ∧ ¬ u.bdr.DataEnds (blockFor o (u.port p).next)) ∨ (o.cmd = .writeBlock ∨ o.cmd = .writeMark)
      ∨ (o.cmd = .space ∧ 0 < o.param)) := by
  rw [continues_iff, atDataEnd_loneTaken]
  rfl

/-- An operation that goes on is taken up with the tape running (R131). -/
theorem Lone.goesOn (h : Lone i s u p o) (hask : u.ope.asking = true) (hdeck : u.dsq.deck = .ready) (hc : u.mayGrant p o)
    (hgo : (u.loneTaken p o).continues (u.loneJob p o) = true)
    (hjob : u.loneJob p o = grantJob u p o (blockFor o (u.port p).next) false)
    (hbegin : (u.loneTaken p o).beginOp (u.loneJob p o) false = (u.loneTaken p o).positionTo (u.loneJob p o) false)
    (hno : ((u.loneTaken p o).positioned (u.loneJob p o) false).ope.asking = false) :
    Seals i s ((u.loneTaken p o).positioned (grantJob u p o (blockFor o (u.port p).next) false) false) := by
  have hx := h.granted_ready (mayChoose_asking hask) hdeck hc
  obtain ⟨⟨hvalid, hnext⟩, -⟩ := continues_loneTaken.mp hgo
  rw [takesUp_goesOn _ _ (by rw [loneGiven_ope]; exact hask) (by rw [answeredAsk_loneGiven]; exact hgo),
    answeredAsk_loneGiven, hbegin, positionTo_there (s := u.loneTaken p o) false ⟨hvalid, hnext.trans (by rw [hjob]; rfl)⟩,
    closeAsk_of_not_asking hno, hjob] at hx
  exact hx

theorem Lone.write_goesOn (h : Lone i s u p o) (hask : u.ope.asking = true) (hdeck : u.dsq.deck = .ready)
    (hc : o.cmd = .writeBlock ∨ o.cmd = .writeMark) (hgo : u.GoesOn p o) :
    Seals i s ((u.loneTaken p o).positioned (grantJob u p o (blockFor o (u.port p).next) false) false) := by
  have hw : (u.loneJob p o).op.cmd.isWrite = true := (isWrite_iff _).mpr hc
  refine h.goesOn hask hdeck (mayGrant_write hc) (continues_loneTaken.mpr ⟨hgo, .inr (.inl hc)⟩) (loneJob_write hc)
    (beginOp_write _ _ false hw) ?_
  rw [positioned_write false hw]
  rfl

theorem Lone.read_goesOn (h : Lone i s u p o) (hask : u.ope.asking = true) (hdeck : u.dsq.deck = .ready)
    (hc : o.cmd = .readBlock) (hmay : u.mayRead p) (hgo : u.GoesOn p o) (hat : ¬ u.bdr.DataEnds (blockFor o (u.port p).next)) :
    Seals i s ((u.loneTaken p o).positioned (grantJob u p o (blockFor o (u.port p).next) false) false) := by
  have hend : ¬ (u.loneTaken p o).atDataEnd (u.loneJob p o).n = true := mt (atDataEnd_loneTaken _).mp hat
  have hno : ¬ (u.loneTaken p o).bdr.atEnd (u.loneJob p o).n = true := fun he => hend (by unfold State.atDataEnd; rw [he]; rfl)
  refine h.goesOn hask hdeck (.inr ⟨hc, hmay⟩) (continues_loneTaken.mpr ⟨hgo, .inl ⟨hc, hat⟩⟩) (loneJob_read hc)
    ((beginOp_read _ _ false hc).trans (if_neg hend)) ?_
  rw [positioned_read false hc, if_neg hno, runRead_asking]
  rfl

theorem Lone.space_goesOn (h : Lone i s u p o) (hask : u.ope.asking = true) (hdeck : u.dsq.deck = .ready)
    (hc : o.cmd = .space) (hf : 0 < o.param) (hgo : u.GoesOn p o) (hat : ¬ u.bdr.DataEnds (blockFor o (u.port p).next)) :
    Seals i s ((u.loneTaken p o).positioned (grantJob u p o (blockFor o (u.port p).next) false) false) := by
  have hend : ¬ (u.loneTaken p o).atDataEnd (u.loneJob p o).n = true := mt (atDataEnd_loneTaken _).mp hat
  have hno : ¬ (u.loneTaken p o).bdr.atEnd (u.loneJob p o).n = true := fun he => hend (by unfold State.atDataEnd; rw [he]; rfl)
  refine h.goesOn hask hdeck (mayGrant_space hc) (continues_loneTaken.mpr ⟨hgo, .inr (.inr ⟨hc, hf⟩)⟩) (loneJob_forward hc hf)
    ((beginOp_forward _ _ false hc hf).trans (if_neg hend)) ?_
  rw [positioned_forward false hc hf, if_neg hno]
  rfl

/-- The kinds and places in which the lone operation cannot go on. -/
def State.Stops (u : State) (p : PortId) (o : Op) : Prop :=
  (o.cmd = .writeBlock ∨ o.cmd = .writeMark) ∧ ¬ u.GoesOn p o
    ∨ o.cmd = .readBlock ∧ u.mayRead p ∧ (¬ u.GoesOn p o ∨ u.bdr.DataEnds (blockFor o (u.port p).next))
    ∨ o.cmd = .space ∧ (o.param ≤ 0 ∨ ¬ u.GoesOn p o) ∨ o.cmd = .locate ∨ o.cmd = .rewind

theorem State.Stops.mayGrant (h : u.Stops p o) : u.mayGrant p o := by
  rcases h with ⟨hc, -⟩ | ⟨hc, hmay, -⟩ | ⟨hc, -⟩ | hc | hc
  · exact mayGrant_write hc
  · exact .inr ⟨hc, hmay⟩
  · exact mayGrant_space hc
  · exact mayGrant_locate hc
  · exact mayGrant_rewind hc

theorem State.Stops.not_continues (h : u.Stops p o) : (u.loneTaken p o).continues (u.loneJob p o) = false := by
  rw [Bool.eq_false_iff]
  intro hgo
  obtain ⟨hat, hkind⟩ := continues_loneTaken.mp hgo
  rcases h with ⟨-, hno⟩ | ⟨hc, -, hno⟩ | ⟨hc, hno⟩ | hc | hc
  · exact hno hat
  · simp only [hc, reduceCtorEq, true_and, false_and, or_false] at hkind
    exact hno.elim (· hat) hkind
  · simp only [hc, reduceCtorEq, true_and, false_and, false_or] at hkind
    exact hno.elim (fun hle => absurd hkind (Int.not_lt.mpr hle)) (· hat)
  all_goals simp [hc] at hkind

/-- An operation that cannot go on waits for the stop (R130). -/
theorem Lone.waits (h : Lone i s u p o) (hask : u.ope.asking = true) (hdeck : u.dsq.deck = .ready) (hstops : u.Stops p o) :
    ∃ j, Seals i s { u.loneGiven p o with
        ope := { u.ope with asking := false, waiting := some j, phase := .stop }
        tsv := { u.tsv with order := .stop u.tsv.order.isFast .engine, target := 0, report := none } }
      ∧ j.actor = .port p ∧ j.op = u.grantedOp o ∧ j.n = blockFor o (u.port p).next ∧ j.orphan = false ∧ j.aborted = false := by
  have hx := h.granted_ready (mayChoose_asking hask) hdeck hstops.mayGrant
  rw [takesUp_waits _ _ (by rw [loneGiven_ope]; exact hask) (by rw [answeredAsk_loneGiven]; exact hstops.not_continues)
    (by rw [loneGiven_tsv]; exact h.noRamp), closeAsk_of_not_asking rfl, loneGiven_ope, loneGiven_tsv] at hx
  exact ⟨u.loneJob p o, hx, rfl, rfl, rfl, rfl, rfl⟩

end

/-! ## The obligation -/

theorem chooses_and_grants (s : State) (cand : PortId → Bool) (p : PortId) (o : Op) :
    ((∀ q, s.chainGoesOn cand q = false) → cand .a = true → cand .b = true →
      s.choose cand = some (s.arb.lastServed.other, false))
    ∧ (s.arb.holder = some p → s.arb.lastChain = true → cand p = true → s.arb.chainRun < 16 →
      s.choose cand = some (p, true))
    ∧ (s.arb.holder = some p → 16 ≤ s.arb.chainRun → cand .a = true → cand .b = true →
      s.choose cand = some (s.arb.lastServed.other, false))
    ∧ ((∀ q, cand q = false) → s.choose cand = none)
    ∧ (s.arb.granted p false o).chainRun = 0 ∧ (s.arb.granted p true o).chainRun = min 16 (s.arb.chainRun + 1)
    ∧ ∀ b, (s.arb.granted p b o).holder = some p ∧ (s.arb.granted p b o).lastServed = p := by
  refine ⟨fun hno ha hb => choose_alternates hno ha hb, fun hh hl hc hlt =>
    choose_chain ((chainGoesOn_iff s cand p).mpr ⟨hh, hl, hc, .inl hlt⟩), fun hh hge ha hb => choose_alternates (fun q => ?_) ha hb,
    choose_none, rfl, rfl, fun b => ⟨rfl, rfl⟩⟩
  refine Bool.eq_false_iff.mpr (fun h => ?_)
  obtain ⟨-, -, -, hlt | hno⟩ := (chainGoesOn_iff s cand q).mp h
  · omega
  · cases q
    · exact Bool.false_ne_true (hno.symm.trans hb)
    · exact Bool.false_ne_true (hno.symm.trans ha)

/-- Settles O54: the choice, then the grant of a lone operation at rest and at an end point, then the stop with none. -/
theorem arbiterAlternates : Obligations.ArbiterAlternates := by
  refine ⟨chooses_and_grants, fun i s u p o hset he hq hother hg hjob hon hramp => ?_, fun i s u hset ha hqa hqb hramp => ?_⟩
  · have h : Lone i s u p o := ⟨hset, he, hq, hother, hg, hjob, hon, hramp⟩
    refine ⟨fun hidle hask hdeck => ?_, fun hidle hask hc => ?_, fun hask hdeck => ?_⟩
    · have hr : LoneAtRest i s u p o := ⟨h, hidle, hask⟩
      exact ⟨hr.read_ends hdeck, hr.read_positions hdeck, hr.write_positions hdeck, hr.space_nowhere hdeck,
        hr.space_ends hdeck, hr.space_crosses hdeck, hr.space_at_zero hdeck, hr.space_back hdeck,
        fun _ => hr.locate_positions hdeck, fun _ _ => hr.locate_to_eod hdeck, hr.rewind_moves hdeck, hr.unload_starts hdeck⟩
    · have hr : LoneAtRest i s u p o := ⟨h, hidle, hask⟩
      exact ⟨hr.load_ready hc, hr.load_starts hc, hr.load_fails hc⟩
    · exact ⟨h.write_goesOn hask hdeck, h.read_goesOn hask hdeck, h.space_goesOn hask hdeck, h.waits hask hdeck⟩
  · refine Eq.trans hset (congrArg _ ?_)
    rw [settle_of_empty s hqa hqb, closeAsk_stops u ha hramp]
    rfl

end Sys2Proof.Machine
